-- ==== Sys2Proof/Word.lean ====
section
/-! DEFINITION. Words of the Ridon: the widths of its registers (R307, R440), plain bit-field
arithmetic on naturals, and the sparse maps that hold sparse state. -/

namespace Sys2Proof

/-- A 64-bit scalar, address or m register (R307). -/
abbrev Word := BitVec 64
/-- A vector register of 2,048 bits (R440). -/
abbrev VWord := BitVec 2048
/-- A mask register of 256 bits (R441). -/
abbrev MWord := BitVec 256
/-- A scale register: 128 bytes (R64, R421). -/
abbrev XWord := BitVec 1024
abbrev Byte := BitVec 8

/-- Bits lo+len-1 : lo of a natural (the manual's `x[hi:lo]`, R8). -/
def bitsN (w lo len : Nat) : Nat := w / 2 ^ lo % 2 ^ len

/-- Bit i of a natural. -/
def bitN (w i : Nat) : Bool := w / 2 ^ i % 2 == 1

/-- A Bool as the bit 0 or 1. -/
def b2n (b : Bool) : Nat := if b then 1 else 0

/-- The w-bit pattern v read as a two's-complement integer (R59). -/
def sintN (w v : Nat) : Int :=
  if v % 2 ^ w < 2 ^ (w - 1) then (v % 2 ^ w : Nat) else ((v % 2 ^ w : Nat) : Int) - 2 ^ w

/-- The low w bits of an integer as a natural (R59, `Wrap`). -/
def wrapN (w : Nat) (v : Int) : Nat := (v % 2 ^ w).toNat

/-- A map from naturals with few entries, keys rising. -/
abbrev SMap (α : Type) := List (Nat × α)

namespace SMap

/-- The entry of key k, if one is listed. -/
def find {α : Type} : SMap α → Nat → Option α
  | [], _ => none
  | (i, v) :: rest, k => if i = k then some v else find rest k

/-- The entry of key k, or d where none is listed. -/
def getD {α : Type} (m : SMap α) (k : Nat) (d : α) : α := (find m k).getD d

/-- m with v at key k. -/
def insert {α : Type} : SMap α → Nat → α → SMap α
  | [], k, v => [(k, v)]
  | (i, u) :: rest, k, v =>
    if k < i then (k, v) :: (i, u) :: rest
    else if k = i then (k, v) :: rest
    else (i, u) :: insert rest k v

/-- m without an entry at key k. -/
def erase {α : Type} (m : SMap α) (k : Nat) : SMap α := m.filter (fun p => p.1 != k)

/-- m with v at key k, where a value equal to the default d is not listed. -/
def setD {α : Type} [DecidableEq α] (m : SMap α) (k : Nat) (d v : α) : SMap α :=
  if v = d then erase m k else insert m k v

end SMap

end Sys2Proof
end

