-- ==== Sys2Proof/Config.lean ====
section
/-! DEFINITION. What the manual fixes for the device (R10), and the free values: results the manual
leaves open (R6), constants with no value that any proof can see. -/

namespace Sys2Proof.Config

/-- The n-th free value of a run (log 5): what the manual calls undefined (R6). Nothing constrains it. -/
opaque freeValue : Nat → Nat

/-- SHAKE256 of a byte string given as a number and its length, 64 bytes (R295, log 12). -/
opaque shake256 : (bytes len : Nat) → Nat

/-- Whether an Ed448 signature over a digest verifies against the fused key (R295, log 12). -/
opaque ed448Verify : (signature digest : Nat) → Bool

/-- Cycles from issue to the data of a load that misses in L1 (R377 gives none, log 6). -/
def missLatency : Nat := 40
/-- Cycles that a store waits in the store queue at least before it may drain (R120 gives a bound, log 6). -/
def drainDelay : Nat := 1
/-- Cycles from the push of an element to its access (R368 gives none, log 6). -/
def elementLatency : Nat := 20
/-- Cycles of work for which the manual gives no time at all: a mode switch, a bias flip, a job's payload
(log 6). -/
def workLatency : Nat := 64

/-- Cores of the device (R10). -/
def numCores : Nat := 512
/-- Strands of the device (R10). -/
def numStrands : Nat := 2048
/-- Chamois threads of the device: 64 cores of 8 threads (R10). -/
def numChamois : Nat := 512

end Sys2Proof.Config
end

