-- ==== Sys2Proof/Syntax.lean ====
section
/-! DEFINITION. The syntax of the Ridon: every row of the opcode table is one constructor of
`Instr`. 128 are operations of a bundle (R309, R311, R313, R315, R316, R318, R320), 13 are micro-ops
of the matrix unit (R387), the rest are events of engines, links, host and time. -/

namespace Sys2Proof

/-- Element types, code 0 to 12 (R307). -/
inductive Ty
  | i8 | i16 | i32 | i64 | n8 | n16 | n32 | n64 | f32 | f16 | bf16 | e4m3 | e5m2
deriving DecidableEq, Repr

/-- The rounding field of an operation (R67): 0 `FPCTL.RM`, 1 RNE, 2 RTZ, 3 RUP, 4 RDN, 5 RS. -/
inductive Rnd
  | dyn | rne | rtz | rup | rdn | rs
deriving DecidableEq, Repr

/-- Order of an access (R113). -/
inductive Ord
  | relaxed | acq | rel | acqrel
deriving DecidableEq, Repr

/-- Scope of an order (R113). -/
inductive Scope
  | core | clu | die | dev | fab | sys
deriving DecidableEq, Repr

/-- Conditions of compares (R354, R365). -/
inductive Cc
  | eq | ne | lt | le | gt | ge | un | ord
deriving DecidableEq, Repr

/-- Second scalar operand: a register or the 15-bit immediate (R308). -/
inductive SrcB
  | reg (r : BitVec 6) | imm (v : BitVec 15)
deriving DecidableEq, Repr

/-- Second vector operand: a vector register, or a scalar broadcast with `.s` (R310). -/
inductive VSrc
  | vec (r : BitVec 6) | sca (r : BitVec 6)
deriving DecidableEq, Repr

/-- Destination of MOV (R406). -/
inductive MovDst
  | s (r : BitVec 6) | a (r : BitVec 4) | m (r : BitVec 3)
deriving DecidableEq, Repr

/-- Source of MOV (R406). -/
inductive MovSrc
  | s (r : BitVec 6) | a (r : BitVec 4) | m (r : BitVec 3) | k (r : BitVec 3) | imm (v : BitVec 15)
deriving DecidableEq, Repr

/-- A scalar or address register (LEA's destination and base, R378). -/
inductive SaReg
  | s (r : BitVec 6) | a (r : BitVec 4)
deriving DecidableEq, Repr

/-- LEA's index: a scalar register shifted, or an immediate (R378). -/
inductive LeaIdx
  | reg (r : BitVec 6) (sh : BitVec 2) | imm (v : BitVec 15)
deriving DecidableEq, Repr

/-- GOP functions (R370). -/
inductive GopFn
  | and | or | xor | mov
deriving DecidableEq, Repr

/-- VMASK functions (R453). -/
inductive MaskFn
  | and | or | xor | andn | not | ones | zero
deriving DecidableEq, Repr

/-- VRED functions (R457). -/
inductive RedFn
  | sum | max | min
deriving DecidableEq, Repr

/-- AMO functions (R314). -/
inductive AmoFn
  | add | and | or | xor | swap | min | max
deriving DecidableEq, Repr

/-- TLBINV modes (R437). -/
inductive TlbMode
  | page | asid | all | range
deriving DecidableEq, Repr

/-- A mask operand: the field MEN and the mask register VM (R310, R441, R451). -/
structure MaskSel where
  men : Bool
  vm : BitVec 3
deriving DecidableEq, Repr

/-- An address operand of the L slot: register and signed 20-bit byte offset (R312). -/
structure Addr where
  ab : BitVec 4
  imm : BitVec 20
deriving DecidableEq, Repr

/-- Order and scope of an access (R113). -/
structure OrdSc where
  ord : Ord
  scope : Scope
deriving DecidableEq, Repr

/-- The order of BWAIT (R347): relaxed, with a scope field that has no effect (R114), or an acquire. -/
inductive WaitOrd
  | relaxed (field : Scope) | acq (s : Scope)
deriving DecidableEq, Repr

/-- The release or the acquire of a VOTE (R454): one at a scope, or none, with a scope field that has no effect (R114). -/
inductive VoteSide
  | unused (field : Scope) | takes (s : Scope)
deriving DecidableEq, Repr

/-- The scope of a release or acquire, if there is one (R454). -/
def VoteSide.scope : VoteSide → Option Scope
  | .unused _ => none
  | .takes s => some s

/-- Source of a sweep's A rows or of loaded rows: tile memory or a link queue (R387). -/
inductive MSrc
  | tile | lq (q : BitVec 4)
deriving DecidableEq, Repr

/-- Destination of M.COUT (R387). -/
inductive MDst
  | tile | lq (q : BitVec 4) | comb
deriving DecidableEq, Repr

/-- A host access over CXL.mem (R111). -/
inductive HostAcc
  | read (addr size : Nat) | write (addr size data : Nat)
deriving DecidableEq, Repr

/-- What comes to a die about a chunk (R253 to R255): its bytes, with the sending die in the layout of R230 and the rank it goes to;
or, for a chunk that the die has sent to another device, that it has arrived there, or that a step there has consumed it. -/
inductive ChunkMsg
  | bytes (src dst data : Nat) | acked | consumed
deriving DecidableEq, Repr

/-- What comes to a die about the bin of a replica (R245): that every row is there, or the rows of a sender, by round and rank:
row records with their payload rows. -/
inductive BinMsg
  | complete (rep : Nat) | rows (rep round rank : Nat) (data : List (Nat × Nat))
deriving DecidableEq, Repr

/-- What comes to a die about a combine send (R150, R246): the columns of a row, from a core of a device, or, for a send of a
core of this die, that its home has accepted it. -/
inductive CombMsg
  | row (dev core data : Nat) | accepted (core : Nat)
deriving DecidableEq, Repr

/-- What comes to a die about a drop of ABANDON (R249): the drop of a slot, for the job of a micro-batch and sequence number, from a
strand of a device, or, for a strand of this die, that its home has accepted it. -/
inductive DropMsg
  | drop (slot mb seq dev sid tag : Nat) | accepted (sid tag : Nat)
deriving DecidableEq, Repr

/-- A request packet that arrives from the fabric (R192, R202, R206). -/
structure Packet where
  src : Nat
  flow : Nat
  psn : Nat
  dep : Nat
  die : Nat
  addr : Nat
  op : Nat
  size : Nat
  aop : Nat
  tag : Nat
  data : Nat
  data2 : Nat
  bmask : Nat
deriving DecidableEq, Repr

/-- An acknowledgement packet (R203). -/
structure AckPkt where
  src : Nat
  flow : Nat
  base : Nat
  ackmap : Nat
  rnrmap : Nat
deriving DecidableEq, Repr

/-- A response packet (R206), arriving at a die. -/
structure RespPkt where
  die : Nat
  src : Nat
  flow : Nat
  psn : Nat
  tag : Nat
  status : Nat
  data : Nat
deriving DecidableEq, Repr

/-- A cell: 64-bit header and 128-byte payload (R191, R192). -/
structure Cell where
  hdr : Nat
  payload : Nat
deriving DecidableEq, Repr

/-- A cell as it arrives on a link: header, payload and 64-bit tag field, and its trailer (R191, R193). -/
structure LinkCell where
  hdr : Nat
  payload : Nat
  tag : Nat
  trailer : Nat
deriving DecidableEq, Repr

/-- What a unit of data is found to hold by the error checker (R290). -/
inductive McTarget
  | strand (sid pa : Nat) | poison (pa size : Nat) | start
deriving DecidableEq, Repr

/-- Every row of the opcode table. -/
inductive Instr where
  -- P slot, scalar (R309)
  | add (t : Ty) (sat : Bool) (sd sa : BitVec 6) (sb : SrcB)
  | sub (t : Ty) (sat : Bool) (sd sa : BitVec 6) (sb : SrcB)
  | mul (t : Ty) (sat : Bool) (sd sa : BitVec 6) (sb : SrcB)
  | mulh (t : Ty) (sd sa sb : BitVec 6)
  | div (t : Ty) (sd sa : BitVec 6) (sb : SrcB)
  | mod (t : Ty) (sd sa : BitVec 6) (sb : SrcB)
  | and (t : Ty) (sd sa : BitVec 6) (sb : SrcB)
  | andn (t : Ty) (sd sa : BitVec 6) (sb : SrcB)
  | or (t : Ty) (sd sa : BitVec 6) (sb : SrcB)
  | xor (t : Ty) (sd sa : BitVec 6) (sb : SrcB)
  | shl (t : Ty) (sd sa : BitVec 6) (sb : SrcB)
  | shr (t : Ty) (sd sa : BitVec 6) (sb : SrcB)
  | sra (t : Ty) (sd sa : BitVec 6) (sb : SrcB)
  | max (t : Ty) (sd sa : BitVec 6) (sb : SrcB)
  | min (t : Ty) (sd sa : BitVec 6) (sb : SrcB)
  | bext (t : Ty) (sd sa pos len : BitVec 6)
  | bins (t : Ty) (sd sa pos len : BitVec 6)
  | clz (t : Ty) (sd sa : BitVec 6)
  | popc (t : Ty) (sd sa : BitVec 6)
  | cmp (t : Ty) (cc : Cc) (gd : BitVec 4) (sa : BitVec 6) (sb : SrcB)
  | sel (t : Ty) (sd : BitVec 6) (gc : BitVec 4) (inv : Bool) (sa sb : BitVec 6)
  | gop (f : GopFn) (gd ga : BitVec 4) (ia : Bool) (gb : BitVec 4) (ib : Bool)
  | lea (d base : SaReg) (idx : LeaIdx)
  | mov (d : MovDst) (src : MovSrc)
  | movhi (sd : BitVec 6) (imm : BitVec 16) (q : BitVec 2)
  | cvti (tt frm : Ty) (sat : Bool) (rnd : Rnd) (sd sa : BitVec 6)
  | fadd (t : Ty) (rnd : Rnd) (sd sa sb : BitVec 6)
  | fmul (t : Ty) (rnd : Rnd) (sd sa sb : BitVec 6)
  | ffma (t : Ty) (rnd : Rnd) (sd sa sb sc : BitVec 6)
  | fcmp (t : Ty) (cc : Cc) (gd : BitVec 4) (sa sb : BitVec 6)
  | fcvt (tt frm : Ty) (rnd : Rnd) (sd sa : BitVec 6)
  -- P slot, vector (R311)
  | vabs (t : Ty) (vd va : BitVec 6) (mk : MaskSel)
  | vadd (t : Ty) (sat : Bool) (rnd : Rnd) (vd va : BitVec 6) (vb : VSrc) (mk : MaskSel)
  | vsub (t : Ty) (sat : Bool) (rnd : Rnd) (vd va : BitVec 6) (vb : VSrc) (mk : MaskSel)
  | vmul (t : Ty) (sat : Bool) (rnd : Rnd) (vd va : BitVec 6) (vb : VSrc) (mk : MaskSel)
  | vfma (t : Ty) (rnd : Rnd) (vd va : BitVec 6) (vb : VSrc) (vc : BitVec 6) (mk : MaskSel)
  | vand (t : Ty) (vd va : BitVec 6) (vb : VSrc) (mk : MaskSel)
  | vor (t : Ty) (vd va : BitVec 6) (vb : VSrc) (mk : MaskSel)
  | vxor (t : Ty) (vd va : BitVec 6) (vb : VSrc) (mk : MaskSel)
  | vshl (t : Ty) (vd va : BitVec 6) (vb : VSrc) (mk : MaskSel)
  | vshr (t : Ty) (vd va : BitVec 6) (vb : VSrc) (mk : MaskSel)
  | vsra (t : Ty) (vd va : BitVec 6) (vb : VSrc) (mk : MaskSel)
  | vmax (t : Ty) (vd va : BitVec 6) (vb : VSrc) (mk : MaskSel)
  | vmin (t : Ty) (vd va : BitVec 6) (vb : VSrc) (mk : MaskSel)
  | vneg (t : Ty) (vd va : BitVec 6) (mk : MaskSel)
  | vmov (t : Ty) (vd va : BitVec 6) (mk : MaskSel)
  | vbcast (t : Ty) (vd sa : BitVec 6) (mk : MaskSel)
  | vsel (t : Ty) (vd va : BitVec 6) (vb : VSrc) (vm : BitVec 3)
  | vcmp (t : Ty) (cc : Cc) (vmd : BitVec 3) (va : BitVec 6) (vb : VSrc) (mk : MaskSel)
  | vcount (sd : BitVec 6) (vma : BitVec 3)
  | vcvt (tt frm : Ty) (rnd : Rnd) (vd va : BitVec 6) (mk : MaskSel)
  | vexp2 (t : Ty) (rnd : Rnd) (vd va : BitVec 6) (mk : MaskSel)
  | vlog2 (t : Ty) (rnd : Rnd) (vd va : BitVec 6) (mk : MaskSel)
  | vrcp (t : Ty) (rnd : Rnd) (vd va : BitVec 6) (mk : MaskSel)
  | vrsq (t : Ty) (rnd : Rnd) (vd va : BitVec 6) (mk : MaskSel)
  | vextr (t : Ty) (sd va sb : BitVec 6)
  | vins (t : Ty) (vd sa sb : BitVec 6)
  | vmask (f : MaskFn) (vmd vma vmb : BitVec 3)
  | vperm (t : Ty) (vd va : BitVec 6) (vb : VSrc) (mk : MaskSel)
  | vred (t : Ty) (f : RedFn) (rnd : Rnd) (sd va : BitVec 6) (mk : MaskSel)
  | vscan (t : Ty) (rnd : Rnd) (vd va : BitVec 6) (mk : MaskSel)
  -- L slot (R313)
  | ld (t : Ty) (o : OrdSc) (sd : BitVec 6) (ea : Addr)
  | st (t : Ty) (o : OrdSc) (ea : Addr) (sb : BitVec 6)
  | vld (o : OrdSc) (vd : BitVec 6) (ea : Addr) (mk : MaskSel)
  | vst (o : OrdSc) (ea : Addr) (vb : BitVec 6) (mk : MaskSel)
  | fence (o : OrdSc)
  | waitaddr (t : Ty) (o : OrdSc) (sd : BitVec 6) (ea : Addr) (sb : BitVec 6)
  | cflush (ea : Addr)
  | cinv (ea : Addr)
  | gidx (t : Ty) (ea : Addr) (sb : BitVec 6)
  | sidx (t : Ty) (ea : Addr) (sb sc : BitVec 6)
  | gpop (sd : BitVec 6)
  | gpopRp (sd : BitVec 6)
  | qstat (sd : BitVec 6)
  | amo (t : Ty) (f : AmoFn) (o : OrdSc) (sd : BitVec 6) (ea : Addr) (sb : BitVec 6)
  | amocas (t : Ty) (o : OrdSc) (sd : BitVec 6) (ea : Addr) (sb sc : BitVec 6)
  | qinc (t : Ty) (o : OrdSc) (sd : BitVec 6) (gd : BitVec 4) (ea : Addr) (sb : BitVec 6)
  | qwrap (t : Ty) (o : OrdSc) (sd : BitVec 6) (gd : BitVec 4) (ea : Addr) (sb : BitVec 6)
  | qdec (t : Ty) (o : OrdSc) (sd : BitVec 6) (gd : BitVec 4) (ea : Addr)
  | qaddl (t : Ty) (o : OrdSc) (sd : BitVec 6) (gd : BitVec 4) (ea : Addr) (sb : BitVec 6)
  | spld (o : OrdSc) (sd : BitVec 6) (as : BitVec 4) (sk : BitVec 6)
  | spst (o : OrdSc) (as : BitVec 4) (sk sv : BitVec 6)
  | spadd (o : OrdSc) (sd : BitVec 6) (as : BitVec 4) (sk sv : BitVec 6)
  | spcur (ac as : BitVec 4) (sk : BitVec 6)
  | spnext (o : OrdSc) (sk sv : BitVec 6) (gd ac : BitVec 4)
  -- M slot (R315)
  | lend (b : BitVec 2)
  | mcall (idx : BitVec 10)
  | mpwr (sd : BitVec 6) (req : Bool)
  | mstat (sd : BitVec 6)
  | mwait (n : BitVec 2)
  -- X slot (R316)
  | scld (xd ab : BitVec 4) (imm : BitVec 14)
  | scst (ab : BitVec 4) (imm : BitVec 14) (xs : BitVec 4)
  -- Q slot (R318)
  | lqbindTx (lq : BitVec 4) (sd sp sc : BitVec 6)
  | lqbindRx (lq : BitVec 4) (sd sp sc : BitVec 6)
  | lqbindUn (lq : BitVec 4) (sd : BitVec 6)
  | lqpush (lq : BitVec 4) (vb : BitVec 2)
  | lqpushT (lq : BitVec 4) (vb : BitVec 2) (st : BitVec 6)
  | lqpop (lq : BitVec 4) (vb : BitVec 2)
  | lqstat (sd : BitVec 6) (lq : BitVec 4)
  | xfer (fab : Bool) (spec : Bool) (ad as : BitVec 4) (sl : BitVec 6) (ac : BitVec 4) (sv : BitVec 6)
  | ejob (w : BitVec 5) (ss : BitVec 6)
  | ego (spec : Bool) (e : BitVec 1)
  | route (spec : Bool) (aj : BitVec 4)
  | abandon (ab : BitVec 4)
  | cload (ap : BitVec 4) (sn : BitVec 6)
  | carm (spec : Bool) (ac : BitVec 4)
  | ctrig (spec : Bool) (t : BitVec 4)
  | spdense (spec : Bool) (ac : BitVec 4)
  | arrive (rel : Option Scope) (ch : BitVec 5)
  | bwait (o : WaitOrd) (ch : BitVec 5)
  | vote (rel acq : VoteSide) (gand gor gsrc : BitVec 4) (ch : BitVec 5)
  | bdom (sd : BitVec 6) (ch : BitVec 5)
  | ctlrd (sd : BitVec 6) (cr : BitVec 12)
  | ctlwr (cr : BitVec 12) (ss : BitVec 6)
  | tlbinv (mode : TlbMode) (sa sb : BitVec 6)
  | kstart (sd sa sb : BitVec 6)
  | bankcfg (sb sc : BitVec 6)
  -- branch slots (R320)
  | br (off : BitVec 22)
  | jmp (sa : BitVec 6)
  | call (sd : BitVec 6) (off : BitVec 22)
  | ret (sa : BitVec 6)
  | loop (l : BitVec 3) (off : BitVec 22)
  | lbreak (l : BitVec 3)
  | lpsetCnt (l : BitVec 3) (sr : BitVec 6)
  | lpsetStr (l : BitVec 3) (ar : BitVec 4) (sr : BitVec 6)
  | trap (imm : BitVec 16)
  | svc (imm : BitVec 16)
  -- micro-ops (R387)
  | mAin (cb : BitVec 3) (rows : BitVec 8) (z : Bool) (src : MSrc)
  | mBld (imm : BitVec 32)
  | mCin (cb : BitVec 3) (rows : BitVec 8) (src : MSrc)
  | mCout (cb : BitVec 3) (rows : BitVec 8) (dst : MDst)
  | mEpi (scl bias clamp gate : Bool) (fmt : BitVec 3) (sc bi cl : BitVec 4)
  | mGrp (ms : BitVec 4) (mc : BitVec 3) (imm : BitVec 32)
  | mLoop (lvl : BitVec 1) (ms : BitVec 4) (len : BitVec 12) (imm : BitVec 32)
  | mMac (cb : BitVec 3)
  | mPset (tgt : BitVec 5) (ms : BitVec 4) (imm : BitVec 32)
  | mSel (word g : BitVec 12)
  -- events of strands, selector, stores and caches
  | quantumExpiry (path : Nat)
  | holdTimeout (path : Nat)
  | holdEnd (sid : Nat)
  | waitConditionMet (sid : Nat)
  | storeDrain (sid : Nat)
  | leaseWaitEnd (sid : Nat)
  | leaseExpiry (line : Nat)
  | directoryRead (line cluster : Nat)
  | directoryWrite (line cluster : Nat)
  | directoryWriteback (line cluster : Nat)
  | directoryCleanEviction (line cluster : Nat)
  | l2ModeSwitch (value : Word)
  | bankSwitchDone (cluster bank : Nat)
  | biasFlipToHost (region : Nat)
  | biasFlipToDevice (region : Nat)
  | hostMemAccess (acc : HostAcc)
  | pageLockTake (value : Word)
  | pageLockRelease (value : Word)
  -- events of the fabric
  | remoteLoad (p : Packet)
  | remoteStore (p : Packet)
  | remoteAtomic (p : Packet)
  | remoteCancel (p : Packet)
  | ackReceived (a : AckPkt)
  | responseReceived (r : RespPkt)
  | ackTimeout (dst flow psn : Nat)
  | rnrRetry (dst flow psn : Nat)
  | circuitCellArrival (die port : Nat) (c : Cell)
  | cellSend (die out : Nat)
  | packetRoute (die : Nat) (c : Cell)
  | linkCellReceive (die port : Nat) (c : LinkCell)
  | linkReplay (die port lack : Nat)
  | linkRetrain (die port ldly : Nat)
  | keySwitch (die port : Nat)
  | counterWarn (die port : Nat)
  | counterSpent (die port : Nat)
  | slotTableArm (die : Nat) (value : Word)
  | slotTableSwap (die : Nat)
  | fabstatClear (die : Nat) (value : Word)
  | stripCellSend (core lq : Nat)
  | stripCellReceive (circ src cell space payload : Nat)
  | spaceCellSend (core lq : Nat)
  | spaceCellReceive (circ src space : Nat)
  -- events of the matrix unit and power ring
  | routineStart (core : Nat)
  | bldComplete (core : Nat)
  | routineComplete (core : Nat)
  | powerTokenArrival (cluster : Nat)
  | tokenHoldExpiry (cluster : Nat)
  | mpwrRequestExpiry (cluster : Nat)
  -- events of Oryx, Springbok, Chamois and the combiner
  | oryxAnswer (sid : Nat)
  | densifyJob (die job : Nat)
  | routingJobStart (die : Nat)
  | chamoisRoundStart (die : Nat)
  | chreqRequest (tid : Nat) (value : Word)
  | chreqEnd (tid : Nat)
  | chgrantRead (tid : Nat) (sd : BitVec 6)
  | chemit (tid : Nat) (value : Word)
  | permitRequest (die expert rep mb seq round rank count : Nat)
  | permitGrant (die expert rep round count : Nat)
  | binWrite (die expert : Nat) (msg : BinMsg)
  | combineSend (die slot : Nat) (po : Int) (msg : CombMsg)
  | combineDrop (die : Nat) (msg : DropMsg)
  | combineWatchdog (die : Nat)
  -- events of Impala
  | impalaRunStart (die entry : Nat)
  | wordTrigger (die entry : Nat)
  | impalaSend (die entry : Nat)
  | impalaRecv (die entry : Nat)
  | impalaRrs (die entry : Nat)
  | impalaCopy (die entry : Nat)
  | impalaWait (die entry : Nat)
  | impalaLoop (die entry : Nat)
  | impalaEnd (die entry : Nat)
  | chunkArrival (die entry run rank chunk : Nat) (msg : ChunkMsg)
  -- events of launches, tasks and jobs
  | launchPacketAppend (queue : Nat)
  | startMessage (task core : Nat)
  | coreCompletion (core : Nat)
  | taskRetire (task : Nat)
  | preload (task : Nat)
  | budgetExpiry (task : Nat)
  | taskResume (task : Nat)
  | jobStart (die engine : Nat)
  | jobRetire (die job : Nat)
  | jobFailure (die job cause tval : Nat)
  | commitEntryCommit (core idx : Nat)
  | commitEntryDiscard (core idx : Nat)
  -- events of traps, interrupts, elements, barriers and debug
  | preemption (sid : Nat)
  | contextRestore (sid task : Nat)
  | interrupt (sid : Nat)
  | isend (value : Word)
  | timerInterrupt (sid : Nat)
  | gatherDataArrival (sid : Nat)
  | elementFault (sid : Nat)
  | bmembWrite (core : Nat) (hi : Bool) (value : Word)
  | completionObserved (die ch : Nat)
  | dbgchanWrite (value : Word)
  | debugHaltRequest (sid : Nat)
  | debugResume (sid : Nat)
  -- events of start-up, power, errors and the host's registers
  | selfTestPass (word bit : Nat)
  | unitFailure (word bit : Nat)
  | droopTrip (die : Nat)
  | droopRecovery (die : Nat)
  | machineCheck (t : McTarget)
  | softError (unit : Nat)
  | registerWrite (off size value : Nat)
  | scatterElementComplete (sid : Nat)
  | fabricStart (slot : Nat)
  -- operations, micro-ops and events without fields
  | mark
  | reclaim
  | yield
  | halt
  | bkpt
  | eret
  | mEnd
  | mNextg
  | mSync
  | l2ModeSwitchDone
  | biasFlipDone
  | dispatch
  | powerOnReset
  | warmReset
  | bootGo
  | bootOk
  | bootFail
  | bootTimeout
deriving DecidableEq, Repr

/-- A guard of a slot: index over invert (R304). -/
structure Guard where
  idx : BitVec 4
  inv : Bool
deriving DecidableEq, Repr

/-- An operation in a slot with its flags SQ, FST and LST (R304). -/
structure SlotOp where
  sq : Bool
  fst : Bool
  lst : Bool
  op : Instr
deriving DecidableEq, Repr

/-- A bundle (R302): the header STALL, RMARK and YIELD, a guard for each slot and its operation. A
slot whose opcode is 0 holds no operation, and its guard stands (R304). -/
structure Bundle where
  stall : BitVec 4
  rmark : Bool
  yieldHint : Bool
  pg : Guard
  sop : Option SlotOp
  vop : Option SlotOp
  lg : Guard
  lop : Option SlotOp
  mg : Guard
  mop : Option SlotOp
  xg : Guard
  xop : Option SlotOp
  qg : Guard
  qop : Option SlotOp
  b0g : Guard
  b0op : Option SlotOp
  b1g : Guard
  b1op : Option SlotOp
deriving DecidableEq, Repr

/-- Which slot an instruction belongs to (R309 to R320), or that it is a micro-op or an event. -/
inductive SlotKind
  | ps | pv | l | m | x | q | b | micro | event
deriving DecidableEq, Repr

end Sys2Proof
end

