-- ==== Sys2Proof/WellFormed.lean ====
section
/-! DEFINITION. Which instructions and bundles have an encoding: every value a row of R309 to R320
or R387 excludes (R306), and the pairs of branch operations that R321 excludes. -/

namespace Sys2Proof

namespace Ty

/-- The code of a type (R307). -/
def code : Ty → Nat
  | i8 => 0 | i16 => 1 | i32 => 2 | i64 => 3 | n8 => 4 | n16 => 5 | n32 => 6 | n64 => 7
  | f32 => 8 | f16 => 9 | bf16 => 10 | e4m3 => 11 | e5m2 => 12

/-- The type of a code; 13 to 15 are unassigned (R307). -/
def ofCode : Nat → Option Ty
  | 0 => some i8 | 1 => some i16 | 2 => some i32 | 3 => some i64 | 4 => some n8 | 5 => some n16
  | 6 => some n32 | 7 => some n64 | 8 => some f32 | 9 => some f16 | 10 => some bf16
  | 11 => some e4m3 | 12 => some e5m2 | _ => none

/-- Width in bits (R59, R60). -/
def width : Ty → Nat
  | i8 => 8 | n8 => 8 | e4m3 => 8 | e5m2 => 8
  | i16 => 16 | n16 => 16 | f16 => 16 | bf16 => 16
  | i32 => 32 | n32 => 32 | f32 => 32
  | i64 => 64 | n64 => 64

/-- Size in bytes. -/
def bytes (t : Ty) : Nat := t.width / 8

/-- An integer type (R59). -/
def isInt (t : Ty) : Bool := t.code < 8

/-- A signed integer type (R59). -/
def signed (t : Ty) : Bool := t.code < 4

/-- `.f32`, `.f16` or `.bf16`: the types marked F (R309, R311). -/
def isF (t : Ty) : Bool := t == f32 || t == f16 || t == bf16

/-- Integer or F (R309). -/
def isIntOrF (t : Ty) : Bool := t.code ≤ 10

/-- `.n32` or `.n64` (R129, R137). -/
def isN32or64 (t : Ty) : Bool := t == n32 || t == n64

/-- The types of AMO and AMOCAS (R314). -/
def isAmo (t : Ty) : Bool := t == i32 || t == i64 || t == n32 || t == n64

end Ty

/-- Is the second scalar operand a register? -/
def SrcB.isReg : SrcB → Bool
  | .reg _ => true
  | .imm _ => false

/-- Loads take relaxed or acquire order (R115). -/
def Ord.loadOk (o : Ord) : Bool := o == .relaxed || o == .acq

/-- Stores take relaxed or release order (R115). -/
def Ord.storeOk (o : Ord) : Bool := o == .relaxed || o == .rel

/-- The conditions of an integer compare (R354). -/
def Cc.intOk (c : Cc) : Bool := !(c == .un || c == .ord)

/-- The numbers of control registers that R319 assigns. -/
def crAssigned (cr : Nat) : Bool :=
  (cr ≤ 0x011) || (0x020 ≤ cr && cr ≤ 0x024) || (0x028 ≤ cr && cr ≤ 0x031) ||
  (0x040 ≤ cr && cr ≤ 0x04A) || cr == 0x060 || (0x070 ≤ cr && cr ≤ 0x072) ||
  (0x080 ≤ cr && cr ≤ 0x087) || (0x0A0 ≤ cr && cr ≤ 0x0AA) || (0x0C0 ≤ cr && cr ≤ 0x0C6)

namespace Instr

/-- The slot an instruction is written in (R309 to R320), a micro-op (R387) or an event. -/
def slot : Instr → SlotKind
  | add .. | sub .. | mul .. | mulh .. | div .. | mod .. | and .. | andn .. | or .. | xor ..
  | shl .. | shr .. | sra .. | max .. | min .. | bext .. | bins .. | clz .. | popc .. | cmp ..
  | sel .. | gop .. | lea .. | mov .. | movhi .. | cvti .. | fadd .. | fmul .. | ffma .. | fcmp ..
  | fcvt .. => .ps
  | vabs .. | vadd .. | vsub .. | vmul .. | vfma .. | vand .. | vor .. | vxor .. | vshl .. | vshr ..
  | vsra .. | vmax .. | vmin .. | vneg .. | vmov .. | vbcast .. | vsel .. | vcmp .. | vcount ..
  | vcvt .. | vexp2 .. | vlog2 .. | vrcp .. | vrsq .. | vextr .. | vins .. | vmask .. | vperm ..
  | vred .. | vscan .. => .pv
  | ld .. | st .. | vld .. | vst .. | mark | fence .. | waitaddr .. | cflush .. | cinv .. | gidx ..
  | sidx .. | gpop .. | gpopRp .. | qstat .. | amo .. | amocas .. | qinc .. | qwrap .. | qdec ..
  | qaddl .. | spld .. | spst .. | spadd .. | spcur .. | spnext .. => .l
  | lend .. | mcall .. | mpwr .. | mstat .. | mwait .. | reclaim => .m
  | scld .. | scst .. => .x
  | lqbindTx .. | lqbindRx .. | lqbindUn .. | lqpush .. | lqpushT .. | lqpop .. | lqstat .. | xfer ..
  | ejob .. | ego .. | route .. | abandon .. | cload .. | carm .. | ctrig .. | spdense .. | arrive ..
  | bwait .. | vote .. | bdom .. | ctlrd .. | ctlwr .. | tlbinv .. | kstart .. | bankcfg .. => .q
  | br .. | jmp .. | call .. | ret .. | loop .. | lbreak .. | lpsetCnt .. | lpsetStr .. | yield | halt
  | bkpt | trap .. | svc .. | eret => .b
  | mAin .. | mBld .. | mCin .. | mCout .. | mEnd | mEpi .. | mGrp .. | mLoop .. | mMac .. | mNextg
  | mPset .. | mSel .. | mSync => .micro
  | _ => .event

/-- The checks of R306 on one operation or micro-op: types, orders, immediates and limits that its
row does not allow are unassigned. Events have no encoding and no check. -/
def wf : Instr → Bool
  | add t _ _ _ _ | sub t _ _ _ _ | mul t _ _ _ _ => t.isInt
  | mulh t _ _ _ => t.isInt
  | div t _ _ _ | mod t _ _ _ | and t _ _ _ | andn t _ _ _ | or t _ _ _ | xor t _ _ _
  | shl t _ _ _ | shr t _ _ _ | sra t _ _ _ => t.isInt
  | max t _ _ sb | min t _ _ sb => t.isInt || (t.isF && sb.isReg)
  | bext t _ _ pos len | bins t _ _ pos len => t.isInt && pos.toNat + (len.toNat + 1) ≤ t.width
  | clz t _ _ | popc t _ _ => t.isInt
  | cmp t cc _ _ _ => t.isInt && cc.intOk
  | sel t _ _ _ _ _ => t.isInt
  | gop f _ _ _ gb ib => if f == .mov then gb == 0#4 && !ib else true
  | mov _ (.k r) => r.toNat < 6
  | cvti tt frm sat rnd _ _ =>
    (tt.isInt || frm.isInt) && (!sat || (tt.isInt && frm.isInt)) &&
      (rnd == .dyn || !(tt.isInt && frm.isInt))
  | fadd t _ _ _ _ | fmul t _ _ _ _ => t.isF
  | ffma t _ _ _ _ _ => t.isF
  | fcmp t _ _ _ _ => t.isF
  | fcvt tt frm _ _ _ => !tt.isInt && !frm.isInt && tt != frm
  | vabs t _ _ _ | vneg t _ _ _ => t.isIntOrF
  | vadd t sat rnd _ _ _ _ | vsub t sat rnd _ _ _ _ | vmul t sat rnd _ _ _ _ =>
    if t.isInt then rnd == .dyn else t.isF && !sat
  | vfma t _ _ _ _ _ _ => t.isF
  | vand t _ _ _ _ | vor t _ _ _ _ | vxor t _ _ _ _ | vshl t _ _ _ _ | vshr t _ _ _ _
  | vsra t _ _ _ _ => t.isInt
  | vmax t _ _ _ _ | vmin t _ _ _ _ => t.isIntOrF
  | vmov t _ _ _ | vbcast t _ _ _ => t.isIntOrF
  | vsel t _ _ _ _ => t.isIntOrF
  | vcmp t cc _ _ _ _ => if t.isInt then cc.intOk else t.isF
  | vcvt tt frm rnd _ _ _ => tt != frm && (rnd == .dyn || !(tt.isInt && frm.isInt))
  | vexp2 t _ _ _ _ | vlog2 t _ _ _ _ | vrcp t _ _ _ _ | vrsq t _ _ _ _ => t.isF
  | vextr t _ _ _ | vins t _ _ _ => t.isIntOrF
  | vmask f _ a b => match f with
    | .not => b == 0#3
    | .ones | .zero => a == 0#3 && b == 0#3
    | _ => true
  | vperm t _ _ _ _ => t.isIntOrF
  | vred t f rnd _ _ _ => t.isIntOrF && (rnd == .dyn || (t.isF && f == .sum))
  | vscan t rnd _ _ _ => t.isIntOrF && (rnd == .dyn || t.isF)
  | ld t o _ _ => t.isIntOrF && o.ord.loadOk
  | st t o _ _ => t.isIntOrF && o.ord.storeOk
  | vld o _ _ _ => o.ord.loadOk
  | vst o _ _ _ => o.ord.storeOk
  | fence o => o.ord != .relaxed
  | waitaddr t o _ _ _ => t.isN32or64 && o.ord.loadOk
  | amo t _ _ _ _ _ => t.isAmo
  | amocas t _ _ _ _ _ => t.isAmo
  | qinc t _ _ _ _ _ | qwrap t _ _ _ _ _ | qaddl t _ _ _ _ _ => t.isN32or64
  | qdec t _ _ _ _ => t.isN32or64
  | spld o _ _ _ => o.ord.loadOk
  | spst o _ _ _ => o.ord.storeOk
  | spnext o _ _ _ _ => o.ord.loadOk
  | vote rel acq _ _ _ _ => match rel, acq with
    | .unused f, .takes _ | .takes _, .unused f => f == .core
    | _, _ => true
  | ctlrd _ cr | ctlwr cr _ => crAssigned cr.toNat
  | tlbinv m sa sb => match m with
    | .asid => sa == 0#6
    | .all => sa == 0#6 && sb == 0#6
    | _ => true
  | loop l off => l.toNat < 6 && 0 < off.toNat && off.toNat < 2 ^ 21
  | lbreak l | lpsetCnt l _ | lpsetStr l _ _ => l.toNat < 6
  | mAin _ rows _ _ | mCin _ rows _ | mCout _ rows _ => rows.toNat ≤ 128
  | mEpi scl bias clamp _ fmt sc bi cl =>
    fmt.toNat ≤ 4 && (scl || sc == 0#4) && (bias || bi == 0#4) && (clamp || cl == 0#4)
  | mGrp ms _ _ => ms.toNat ≤ 8
  | mLoop _ ms len _ => ms.toNat ≤ 8 && 0 < len.toNat
  | mPset tgt ms _ => tgt.toNat ≤ 17 && ms.toNat ≤ 8
  | _ => true

/-- Is it one of YIELD, HALT, BKPT, TRAP, SVC and ERET, of which a bundle holds one (R321)? -/
def isSystem : Instr → Bool
  | yield | halt | bkpt | trap _ | svc _ | eret => true
  | _ => false

/-- The loop level an operation names (R321). -/
def level : Instr → Option (BitVec 3)
  | loop l _ | lbreak l | lpsetCnt l _ | lpsetStr l _ _ => some l
  | _ => none

/-- Is it LPSET (R321)? -/
def isLpset : Instr → Bool
  | lpsetCnt _ _ | lpsetStr _ _ _ => true
  | _ => false

/-- Is it LOOP (R321)? -/
def isLoop : Instr → Bool
  | loop _ _ => true
  | _ => false

end Instr

/-- An operation fits a slot: it is of that slot and passes its row's checks (R306). -/
def SlotOp.fits (k : SlotKind) (o : SlotOp) : Bool := o.op.slot == k && o.op.wf

/-- A slot is empty or its operation fits. -/
def slotOk (k : SlotKind) : Option SlotOp → Bool
  | none => true
  | some o => o.fits k

/-- Two branch slots may stand in one bundle (R321). -/
def branchPairOk : Option SlotOp → Option SlotOp → Bool
  | some a, some b =>
    !(a.op.isSystem && b.op.isSystem) &&
      (match a.op.level, b.op.level with
       | some l, some l' => l != l' || (a.op.isLpset && b.op.isLoop)
       | _, _ => true)
  | _, _ => true

/-- A bundle has an encoding (R302, R306, R321). -/
def Bundle.wf (b : Bundle) : Bool :=
  slotOk .ps b.sop && slotOk .pv b.vop && slotOk .l b.lop && slotOk .m b.mop && slotOk .x b.xop &&
  slotOk .q b.qop && slotOk .b b.b0op && slotOk .b b.b1op && branchPairOk b.b0op b.b1op

end Sys2Proof
end

