-- ==== Sys2Proof/Decode.lean ====
section
/-! DEFINITION. The decoder of bundles and micro-ops, total and rejecting every unassigned encoding
(R302 to R322, R387), and after it the encoder. A slot is a list of fields, most significant first,
whose widths are the tables of the manual; a word decodes to an operation only when writing the
operation's fields gives the word back, which is R306. -/

namespace Sys2Proof

/-- A word with fields of the given widths, the first field the most significant. -/
def packFields : List Nat → List Nat → Nat
  | w :: ws, v :: vs => v % 2 ^ w * 2 ^ ws.sum + packFields ws vs
  | _, _ => 0

/-- The fields of a word, the first the most significant. -/
def unpackFields : List Nat → Nat → List Nat
  | [], _ => []
  | _w :: ws, n => n / 2 ^ ws.sum % 2 ^ _w :: unpackFields ws n

/-- Scalar operation, bits 43 to 0 (R308): OP SQ FST LST TYPE SD SA I SB SC RND FN. -/
def scalarWidths : List Nat := [5, 1, 1, 1, 4, 6, 6, 1, 6, 6, 3, 4]
/-- Vector operation, bits 46 to 0 (R310): OP SQ FST LST TYPE VD VA VB VC RND MEN VM FN. -/
def vectorWidths : List Nat := [5, 1, 1, 1, 4, 6, 6, 6, 6, 3, 1, 3, 4]
/-- L operation, bits 58 to 0 (R312): OP SQ FST LST TYPE ORD SCOPE SD AB SB SC IMM. -/
def lWidths : List Nat := [5, 1, 1, 1, 4, 2, 3, 6, 4, 6, 6, 20]
/-- M operation, bits 42 to 0 (R315): OP SQ FST LST SD reserved IMM. -/
def mWidths : List Nat := [3, 1, 1, 1, 6, 21, 10]
/-- X operation, bits 26 to 0 (R316): OP SQ FST LST XR AB IMM. -/
def xWidths : List Nat := [2, 1, 1, 1, 4, 4, 14]
/-- Q operation, bits 42 to 0 (R317): OP SQ FST LST SPEC ORD SCOPE SCOPE2 SD SA SB IMM. -/
def qWidths : List Nat := [5, 1, 1, 1, 1, 2, 3, 3, 6, 6, 6, 8]
/-- Branch operation, bits 34 to 0 (R320): OP SQ FST LST SR OFF. -/
def bWidths : List Nat := [4, 1, 1, 1, 6, 22]

namespace Rnd
/-- Code of a rounding field (R67). -/
def code : Rnd → Nat
  | dyn => 0 | rne => 1 | rtz => 2 | rup => 3 | rdn => 4 | rs => 5
/-- Rounding of a code; 6 and 7 are unassigned (R67). -/
def ofCode : Nat → Option Rnd
  | 0 => some dyn | 1 => some rne | 2 => some rtz | 3 => some rup | 4 => some rdn | 5 => some rs
  | _ => none
end Rnd

namespace Ord
/-- Code of an order (R113). -/
def code : Ord → Nat
  | relaxed => 0 | acq => 1 | rel => 2 | acqrel => 3
/-- Order of a code (R113). -/
def ofCode : Nat → Option Ord
  | 0 => some relaxed | 1 => some acq | 2 => some rel | 3 => some acqrel | _ => none
/-- Does the order hold an acquire (R113)? -/
def hasAcq (o : Ord) : Bool := o == acq || o == acqrel
/-- Does the order hold a release (R113)? -/
def hasRel (o : Ord) : Bool := o == rel || o == acqrel
end Ord

namespace Scope
/-- Code of a scope (R113). -/
def code : Scope → Nat
  | core => 0 | clu => 1 | die => 2 | dev => 3 | fab => 4 | sys => 5
/-- Scope of a code; 6 and 7 are unassigned (R113). -/
def ofCode : Nat → Option Scope
  | 0 => some core | 1 => some clu | 2 => some die | 3 => some dev | 4 => some fab | 5 => some sys
  | _ => none
end Scope

namespace Cc
/-- Code of a condition (R354, R365). -/
def code : Cc → Nat
  | eq => 0 | ne => 1 | lt => 2 | le => 3 | gt => 4 | ge => 5 | un => 6 | ord => 7
/-- Condition of a code; 8 to 15 are unassigned (R365). -/
def ofCode : Nat → Option Cc
  | 0 => some eq | 1 => some ne | 2 => some lt | 3 => some le | 4 => some gt | 5 => some ge
  | 6 => some un | 7 => some ord | _ => none
end Cc

/-- Function code of GOP (R370). -/
def GopFn.code : GopFn → Nat
  | .and => 0 | .or => 1 | .xor => 2 | .mov => 3
/-- GOP function of a code (R370). -/
def GopFn.ofCode : Nat → Option GopFn
  | 0 => some .and | 1 => some .or | 2 => some .xor | 3 => some .mov | _ => none

/-- Function code of VMASK (R453). -/
def MaskFn.code : MaskFn → Nat
  | .and => 0 | .or => 1 | .xor => 2 | .andn => 3 | .not => 4 | .ones => 5 | .zero => 6
/-- VMASK function of a code (R453). -/
def MaskFn.ofCode : Nat → Option MaskFn
  | 0 => some .and | 1 => some .or | 2 => some .xor | 3 => some .andn | 4 => some .not
  | 5 => some .ones | 6 => some .zero | _ => none

/-- Function code of VRED (R457). -/
def RedFn.code : RedFn → Nat
  | .sum => 0 | .max => 1 | .min => 2
/-- VRED function of a code (R457). -/
def RedFn.ofCode : Nat → Option RedFn
  | 0 => some .sum | 1 => some .max | 2 => some .min | _ => none

/-- Function code f of AMO (R314). -/
def AmoFn.code : AmoFn → Nat
  | .add => 0 | .and => 1 | .or => 2 | .xor => 3 | .swap => 4 | .min => 5 | .max => 6
/-- AMO function of a code; 7 to 15 are unassigned (R314). -/
def AmoFn.ofCode : Nat → Option AmoFn
  | 0 => some .add | 1 => some .and | 2 => some .or | 3 => some .xor | 4 => some .swap
  | 5 => some .min | 6 => some .max | _ => none

/-- Mode code of TLBINV (R437). -/
def TlbMode.code : TlbMode → Nat
  | .page => 0 | .asid => 1 | .all => 2 | .range => 3
/-- TLBINV mode of a code (R437). -/
def TlbMode.ofCode : Nat → Option TlbMode
  | 0 => some .page | 1 => some .asid | 2 => some .all | 3 => some .range | _ => none

/-- The fields I, SB, SC and RND of a second scalar operand that leaves SC and RND 0: the immediate
fills bits 18 to 4 (R308). -/
def SrcB.fields : SrcB → Nat × Nat × Nat × Nat
  | .reg r => (0, r.toNat, 0, 0)
  | .imm v => (1, v.toNat / 2 ^ 9, v.toNat / 2 ^ 3 % 2 ^ 6, v.toNat % 2 ^ 3)

/-- The second scalar operand from I, SB, SC and RND (R308). -/
def SrcB.ofFields (i sb sc rnd : Nat) : SrcB :=
  if i = 1 then .imm (BitVec.ofNat 15 (sb * 2 ^ 9 + sc * 2 ^ 3 + rnd)) else .reg (BitVec.ofNat 6 sb)

/-- The fields of a scalar operation in the order of `scalarWidths` (R309). -/
def scalarFields (o : SlotOp) : List Nat :=
  let row (op ty sd sa i sb sc rnd fn : Nat) : List Nat :=
    [op, b2n o.sq, b2n o.fst, b2n o.lst, ty, sd, sa, i, sb, sc, rnd, fn]
  let two (op : Nat) (t : Ty) (sd sa : BitVec 6) (b : SrcB) (fn : Nat) : List Nat :=
    row op t.code sd.toNat sa.toNat b.fields.1 b.fields.2.1 b.fields.2.2.1 b.fields.2.2.2 fn
  match o.op with
  | .add t sat sd sa b => two 0x01 t sd sa b (b2n sat)
  | .and t sd sa b => two 0x02 t sd sa b 0
  | .andn t sd sa b => two 0x03 t sd sa b 0
  | .bext t sd sa pos len => row 0x04 t.code sd.toNat sa.toNat 0 pos.toNat len.toNat 0 0
  | .bins t sd sa pos len => row 0x05 t.code sd.toNat sa.toNat 0 pos.toNat len.toNat 0 0
  | .clz t sd sa => row 0x06 t.code sd.toNat sa.toNat 0 0 0 0 0
  | .cmp t cc gd sa b => two 0x07 t (gd.zeroExtend 6) sa b cc.code
  | .cvti tt frm sat rnd sd sa =>
    row 0x08 tt.code sd.toNat sa.toNat 0 0 (b2n sat) rnd.code frm.code
  | .div t sd sa b => two 0x09 t sd sa b 0
  | .fadd t rnd sd sa sb => row 0x0A t.code sd.toNat sa.toNat 0 sb.toNat 0 rnd.code 0
  | .fcmp t cc gd sa sb => row 0x0B t.code gd.toNat sa.toNat 0 sb.toNat 0 0 cc.code
  | .fcvt tt frm rnd sd sa => row 0x0C tt.code sd.toNat sa.toNat 0 0 0 rnd.code frm.code
  | .ffma t rnd sd sa sb sc => row 0x0D t.code sd.toNat sa.toNat 0 sb.toNat sc.toNat rnd.code 0
  | .fmul t rnd sd sa sb => row 0x0E t.code sd.toNat sa.toNat 0 sb.toNat 0 rnd.code 0
  | .gop f gd ga ia gb ib =>
    row 0x0F 0 gd.toNat (ga.toNat + 16 * b2n ia) 0 (gb.toNat + 16 * b2n ib) 0 0 f.code
  | .lea d base idx =>
    let dn := match d with | .s r => (r.toNat, 0) | .a r => (r.toNat, 8)
    let bn := match base with | .s r => (r.toNat, 0) | .a r => (r.toNat, 4)
    match idx with
    | .reg r sh => row 0x10 3 dn.1 bn.1 0 r.toNat 0 0 (dn.2 + bn.2 + sh.toNat)
    | .imm v => two 0x10 .i64 (BitVec.ofNat 6 dn.1) (BitVec.ofNat 6 bn.1) (.imm v) (dn.2 + bn.2)
  | .max t sd sa b => two 0x11 t sd sa b 0
  | .min t sd sa b => two 0x12 t sd sa b 0
  | .mod t sd sa b => two 0x13 t sd sa b 0
  | .mov d src =>
    let dn := match d with | .s r => (r.toNat, 0) | .a r => (r.toNat, 1) | .m r => (r.toNat, 2)
    match src with
    | .s r => row 0x14 3 dn.1 r.toNat 0 0 0 0 dn.2
    | .a r => row 0x14 3 dn.1 r.toNat 0 0 0 0 (dn.2 + 4)
    | .m r => row 0x14 3 dn.1 r.toNat 0 0 0 0 (dn.2 + 8)
    | .k r => row 0x14 3 dn.1 r.toNat 0 0 0 0 (dn.2 + 12)
    | .imm v => two 0x14 .i64 (BitVec.ofNat 6 dn.1) 0#6 (.imm v) dn.2
  | .movhi sd imm q =>
    row 0x15 3 sd.toNat 0 1 (imm.toNat / 2 ^ 10) (imm.toNat / 2 ^ 4 % 2 ^ 6) (imm.toNat / 2 % 2 ^ 3)
      (imm.toNat % 2 * 8 + q.toNat)
  | .mul t sat sd sa b => two 0x16 t sd sa b (b2n sat)
  | .mulh t sd sa sb => row 0x17 t.code sd.toNat sa.toNat 0 sb.toNat 0 0 0
  | .or t sd sa b => two 0x18 t sd sa b 0
  | .popc t sd sa => row 0x19 t.code sd.toNat sa.toNat 0 0 0 0 0
  | .sel t sd gc inv sa sb =>
    row 0x1A t.code sd.toNat sa.toNat 0 sb.toNat (gc.toNat + 16 * b2n inv) 0 0
  | .shl t sd sa b => two 0x1B t sd sa b 0
  | .shr t sd sa b => two 0x1C t sd sa b 0
  | .sra t sd sa b => two 0x1D t sd sa b 0
  | .sub t sat sd sa b => two 0x1E t sd sa b (b2n sat)
  | .xor t sd sa b => two 0x1F t sd sa b 0
  | _ => []

/-- The scalar operation that fields in the order of `scalarWidths` name (R309). -/
def scalarRead : List Nat → Option Instr
  | [op, _, _, _, ty, sdN, saN, i, sbN, scN, rndN, fn] => do
    let t ← Ty.ofCode ty
    let sd := BitVec.ofNat 6 sdN
    let sa := BitVec.ofNat 6 saN
    let sb := BitVec.ofNat 6 sbN
    let b := SrcB.ofFields i sbN scN rndN
    match op with
    | 0x01 => some (.add t (fn == 1) sd sa b)
    | 0x02 => some (.and t sd sa b)
    | 0x03 => some (.andn t sd sa b)
    | 0x04 => some (.bext t sd sa sb (BitVec.ofNat 6 scN))
    | 0x05 => some (.bins t sd sa sb (BitVec.ofNat 6 scN))
    | 0x06 => some (.clz t sd sa)
    | 0x07 => do some (.cmp t (← Cc.ofCode fn) (BitVec.ofNat 4 sdN) sa b)
    | 0x08 => do some (.cvti t (← Ty.ofCode fn) (scN == 1) (← Rnd.ofCode rndN) sd sa)
    | 0x09 => some (.div t sd sa b)
    | 0x0A => do some (.fadd t (← Rnd.ofCode rndN) sd sa sb)
    | 0x0B => do some (.fcmp t (← Cc.ofCode fn) (BitVec.ofNat 4 sdN) sa sb)
    | 0x0C => do some (.fcvt t (← Ty.ofCode fn) (← Rnd.ofCode rndN) sd sa)
    | 0x0D => do some (.ffma t (← Rnd.ofCode rndN) sd sa sb (BitVec.ofNat 6 scN))
    | 0x0E => do some (.fmul t (← Rnd.ofCode rndN) sd sa sb)
    | 0x0F => do
      some (.gop (← GopFn.ofCode fn) (BitVec.ofNat 4 sdN) (BitVec.ofNat 4 saN) (saN / 16 == 1)
        (BitVec.ofNat 4 sbN) (sbN / 16 == 1))
    | 0x10 =>
      let d : SaReg := if fn / 8 = 1 then .a (BitVec.ofNat 4 sdN) else .s sd
      let base : SaReg := if fn / 4 % 2 = 1 then .a (BitVec.ofNat 4 saN) else .s sa
      some (.lea d base
        (if i = 1 then .imm (BitVec.ofNat 15 (sbN * 2 ^ 9 + scN * 2 ^ 3 + rndN))
         else .reg sb (BitVec.ofNat 2 fn)))
    | 0x11 => some (.max t sd sa b)
    | 0x12 => some (.min t sd sa b)
    | 0x13 => some (.mod t sd sa b)
    | 0x14 => do
      let d : MovDst ← match fn % 4 with
        | 0 => some (.s sd) | 1 => some (.a (BitVec.ofNat 4 sdN)) | 2 => some (.m (BitVec.ofNat 3 sdN))
        | _ => none
      let src : MovSrc :=
        if i = 1 then .imm (BitVec.ofNat 15 (sbN * 2 ^ 9 + scN * 2 ^ 3 + rndN))
        else match fn / 4 with
          | 0 => .s sa | 1 => .a (BitVec.ofNat 4 saN) | 2 => .m (BitVec.ofNat 3 saN)
          | _ => .k (BitVec.ofNat 3 saN)
      some (.mov d src)
    | 0x15 =>
      some (.movhi sd (BitVec.ofNat 16 (sbN * 2 ^ 10 + scN * 2 ^ 4 + rndN * 2 + fn / 8))
        (BitVec.ofNat 2 fn))
    | 0x16 => some (.mul t (fn == 1) sd sa b)
    | 0x17 => some (.mulh t sd sa sb)
    | 0x18 => some (.or t sd sa b)
    | 0x19 => some (.popc t sd sa)
    | 0x1A => some (.sel t sd (BitVec.ofNat 4 scN) (scN / 16 == 1) sa sb)
    | 0x1B => some (.shl t sd sa b)
    | 0x1C => some (.shr t sd sa b)
    | 0x1D => some (.sra t sd sa b)
    | 0x1E => some (.sub t (fn == 1) sd sa b)
    | 0x1F => some (.xor t sd sa b)
    | _ => none
  | _ => none

/-- VB and the `.s` bit FN[3] of a second vector operand (R310). -/
def VSrc.fields : VSrc → Nat × Nat
  | .vec r => (r.toNat, 0)
  | .sca r => (r.toNat, 8)

/-- The second vector operand from VB and FN (R310). -/
def VSrc.ofFields (vb fn : Nat) : VSrc :=
  if fn / 8 = 1 then .sca (BitVec.ofNat 6 vb) else .vec (BitVec.ofNat 6 vb)

/-- The fields of a vector operation in the order of `vectorWidths` (R311). -/
def vectorFields (o : SlotOp) : List Nat :=
  let row (op ty vd va vb vc rnd men vm fn : Nat) : List Nat :=
    [op, b2n o.sq, b2n o.fst, b2n o.lst, ty, vd, va, vb, vc, rnd, men, vm, fn]
  let one (op : Nat) (t : Ty) (rnd : Rnd) (vd va : BitVec 6) (mk : MaskSel) : List Nat :=
    row op t.code vd.toNat va.toNat 0 0 rnd.code (b2n mk.men) mk.vm.toNat 0
  let two (op : Nat) (t : Ty) (rnd : Rnd) (vd va : BitVec 6) (vb : VSrc) (mk : MaskSel) (fn : Nat) :
      List Nat :=
    row op t.code vd.toNat va.toNat vb.fields.1 0 rnd.code (b2n mk.men) mk.vm.toNat
      (vb.fields.2 + fn)
  match o.op with
  | .vabs t vd va mk => one 0x01 t .dyn vd va mk
  | .vadd t sat rnd vd va vb mk => two 0x02 t rnd vd va vb mk (b2n sat)
  | .vand t vd va vb mk => two 0x03 t .dyn vd va vb mk 0
  | .vbcast t vd sa mk => one 0x04 t .dyn vd sa mk
  | .vcmp t cc vmd va vb mk => two 0x05 t .dyn (vmd.zeroExtend 6) va vb mk cc.code
  | .vcount sd vma => row 0x06 0 sd.toNat vma.toNat 0 0 0 0 0 0
  | .vcvt tt frm rnd vd va mk =>
    row 0x07 tt.code vd.toNat va.toNat 0 0 rnd.code (b2n mk.men) mk.vm.toNat frm.code
  | .vexp2 t rnd vd va mk => one 0x08 t rnd vd va mk
  | .vextr t sd va sb => row 0x09 t.code sd.toNat va.toNat sb.toNat 0 0 0 0 0
  | .vfma t rnd vd va vb vc mk =>
    row 0x0A t.code vd.toNat va.toNat vb.fields.1 vc.toNat rnd.code (b2n mk.men) mk.vm.toNat
      vb.fields.2
  | .vins t vd sa sb => row 0x0B t.code vd.toNat sa.toNat sb.toNat 0 0 0 0 0
  | .vlog2 t rnd vd va mk => one 0x0C t rnd vd va mk
  | .vmask f vmd vma vmb => row 0x0D 0 vmd.toNat vma.toNat vmb.toNat 0 0 0 0 f.code
  | .vmax t vd va vb mk => two 0x0E t .dyn vd va vb mk 0
  | .vmin t vd va vb mk => two 0x0F t .dyn vd va vb mk 0
  | .vmov t vd va mk => one 0x10 t .dyn vd va mk
  | .vmul t sat rnd vd va vb mk => two 0x11 t rnd vd va vb mk (b2n sat)
  | .vneg t vd va mk => one 0x12 t .dyn vd va mk
  | .vor t vd va vb mk => two 0x13 t .dyn vd va vb mk 0
  | .vperm t vd va vb mk => two 0x14 t .dyn vd va vb mk 0
  | .vrcp t rnd vd va mk => one 0x15 t rnd vd va mk
  | .vred t f rnd sd va mk =>
    row 0x16 t.code sd.toNat va.toNat 0 0 rnd.code (b2n mk.men) mk.vm.toNat f.code
  | .vrsq t rnd vd va mk => one 0x17 t rnd vd va mk
  | .vscan t rnd vd va mk => one 0x18 t rnd vd va mk
  | .vsel t vd va vb vm => two 0x19 t .dyn vd va vb ⟨true, vm⟩ 0
  | .vshl t vd va vb mk => two 0x1A t .dyn vd va vb mk 0
  | .vshr t vd va vb mk => two 0x1B t .dyn vd va vb mk 0
  | .vsra t vd va vb mk => two 0x1C t .dyn vd va vb mk 0
  | .vsub t sat rnd vd va vb mk => two 0x1D t rnd vd va vb mk (b2n sat)
  | .vxor t vd va vb mk => two 0x1E t .dyn vd va vb mk 0
  | _ => []

/-- The vector operation that fields in the order of `vectorWidths` name (R311). -/
def vectorRead : List Nat → Option Instr
  | [op, _, _, _, ty, vdN, vaN, vbN, vcN, rndN, men, vmN, fn] => do
    let t ← Ty.ofCode ty
    let rnd ← Rnd.ofCode rndN
    let vd := BitVec.ofNat 6 vdN
    let va := BitVec.ofNat 6 vaN
    let vb := VSrc.ofFields vbN fn
    let mk : MaskSel := ⟨men == 1, BitVec.ofNat 3 vmN⟩
    let sat := fn % 8 == 1
    match op with
    | 0x01 => some (.vabs t vd va mk)
    | 0x02 => some (.vadd t sat rnd vd va vb mk)
    | 0x03 => some (.vand t vd va vb mk)
    | 0x04 => some (.vbcast t vd va mk)
    | 0x05 => do some (.vcmp t (← Cc.ofCode (fn % 8)) (BitVec.ofNat 3 vdN) va vb mk)
    | 0x06 => some (.vcount vd (BitVec.ofNat 3 vaN))
    | 0x07 => do some (.vcvt t (← Ty.ofCode fn) rnd vd va mk)
    | 0x08 => some (.vexp2 t rnd vd va mk)
    | 0x09 => some (.vextr t vd va (BitVec.ofNat 6 vbN))
    | 0x0A => some (.vfma t rnd vd va vb (BitVec.ofNat 6 vcN) mk)
    | 0x0B => some (.vins t vd va (BitVec.ofNat 6 vbN))
    | 0x0C => some (.vlog2 t rnd vd va mk)
    | 0x0D => do
      some (.vmask (← MaskFn.ofCode fn) (BitVec.ofNat 3 vdN) (BitVec.ofNat 3 vaN) (BitVec.ofNat 3 vbN))
    | 0x0E => some (.vmax t vd va vb mk)
    | 0x0F => some (.vmin t vd va vb mk)
    | 0x10 => some (.vmov t vd va mk)
    | 0x11 => some (.vmul t sat rnd vd va vb mk)
    | 0x12 => some (.vneg t vd va mk)
    | 0x13 => some (.vor t vd va vb mk)
    | 0x14 => some (.vperm t vd va vb mk)
    | 0x15 => some (.vrcp t rnd vd va mk)
    | 0x16 => do some (.vred t (← RedFn.ofCode fn) rnd vd va mk)
    | 0x17 => some (.vrsq t rnd vd va mk)
    | 0x18 => some (.vscan t rnd vd va mk)
    | 0x19 => some (.vsel t vd va vb (BitVec.ofNat 3 vmN))
    | 0x1A => some (.vshl t vd va vb mk)
    | 0x1B => some (.vshr t vd va vb mk)
    | 0x1C => some (.vsra t vd va vb mk)
    | 0x1D => some (.vsub t sat rnd vd va vb mk)
    | 0x1E => some (.vxor t vd va vb mk)
    | _ => none
  | _ => none

/-- The fields of an L operation in the order of `lWidths` (R313). -/
def lFields (o : SlotOp) : List Nat :=
  let row (op ty : Nat) (r : OrdSc) (sd ab sb sc imm : Nat) : List Nat :=
    [op, b2n o.sq, b2n o.fst, b2n o.lst, ty, r.ord.code, r.scope.code, sd, ab, sb, sc, imm]
  let no : OrdSc := ⟨.relaxed, .core⟩
  match o.op with
  | .ld t r sd ea => row 0x01 t.code r sd.toNat ea.ab.toNat 0 0 ea.imm.toNat
  | .st t r ea sb => row 0x02 t.code r 0 ea.ab.toNat sb.toNat 0 ea.imm.toNat
  | .vld r vd ea mk =>
    row 0x03 0 r vd.toNat ea.ab.toNat 0 (mk.vm.toNat + 8 * b2n mk.men) ea.imm.toNat
  | .vst r ea vb mk =>
    row 0x04 0 r 0 ea.ab.toNat vb.toNat (mk.vm.toNat + 8 * b2n mk.men) ea.imm.toNat
  | .mark => row 0x05 0 no 0 0 0 0 0
  | .fence r => row 0x06 0 r 0 0 0 0 0
  | .waitaddr t r sd ea sb => row 0x07 t.code r sd.toNat ea.ab.toNat sb.toNat 0 ea.imm.toNat
  | .cflush ea => row 0x08 0 no 0 ea.ab.toNat 0 0 ea.imm.toNat
  | .cinv ea => row 0x09 0 no 0 ea.ab.toNat 0 0 ea.imm.toNat
  | .gidx t ea sb => row 0x0A t.code no 0 ea.ab.toNat sb.toNat 0 ea.imm.toNat
  | .sidx t ea sb sc => row 0x0B t.code no 0 ea.ab.toNat sb.toNat sc.toNat ea.imm.toNat
  | .gpop sd => row 0x0C 0 no sd.toNat 0 0 0 0
  | .gpopRp sd => row 0x0C 0 no sd.toNat 0 0 1 0
  | .qstat sd => row 0x0D 0 no sd.toNat 0 0 0 0
  | .amo t f r sd ea sb => row 0x0E t.code r sd.toNat ea.ab.toNat sb.toNat f.code ea.imm.toNat
  | .amocas t r sd ea sb sc => row 0x0F t.code r sd.toNat ea.ab.toNat sb.toNat sc.toNat ea.imm.toNat
  | .qinc t r sd gd ea sb => row 0x10 t.code r sd.toNat ea.ab.toNat sb.toNat gd.toNat ea.imm.toNat
  | .qwrap t r sd gd ea sb => row 0x11 t.code r sd.toNat ea.ab.toNat sb.toNat gd.toNat ea.imm.toNat
  | .qdec t r sd gd ea => row 0x12 t.code r sd.toNat ea.ab.toNat 0 gd.toNat ea.imm.toNat
  | .qaddl t r sd gd ea sb => row 0x13 t.code r sd.toNat ea.ab.toNat sb.toNat gd.toNat ea.imm.toNat
  | .spld r sd as sk => row 0x14 0 r sd.toNat as.toNat sk.toNat 0 0
  | .spst r as sk sv => row 0x15 0 r 0 as.toNat sk.toNat sv.toNat 0
  | .spadd r sd as sk sv => row 0x16 0 r sd.toNat as.toNat sk.toNat sv.toNat 0
  | .spcur ac as sk => row 0x17 0 no 0 ac.toNat sk.toNat as.toNat 0
  | .spnext r sk sv gd ac => row 0x18 0 r sk.toNat ac.toNat sv.toNat gd.toNat 0
  | _ => []

/-- The L operation that fields in the order of `lWidths` name (R313). -/
def lRead : List Nat → Option Instr
  | [op, _, _, _, ty, ordN, scN', sdN, abN, sbN, scN, immN] => do
    let t ← Ty.ofCode ty
    let r : OrdSc := ⟨← Ord.ofCode ordN, ← Scope.ofCode scN'⟩
    let sd := BitVec.ofNat 6 sdN
    let ab := BitVec.ofNat 4 abN
    let sb := BitVec.ofNat 6 sbN
    let sc := BitVec.ofNat 6 scN
    let gd := BitVec.ofNat 4 scN
    let ea : Addr := ⟨ab, BitVec.ofNat 20 immN⟩
    let mk : MaskSel := ⟨scN / 8 == 1, BitVec.ofNat 3 scN⟩
    match op with
    | 0x01 => some (.ld t r sd ea)
    | 0x02 => some (.st t r ea sb)
    | 0x03 => some (.vld r sd ea mk)
    | 0x04 => some (.vst r ea sb mk)
    | 0x05 => some .mark
    | 0x06 => some (.fence r)
    | 0x07 => some (.waitaddr t r sd ea sb)
    | 0x08 => some (.cflush ea)
    | 0x09 => some (.cinv ea)
    | 0x0A => some (.gidx t ea sb)
    | 0x0B => some (.sidx t ea sb sc)
    | 0x0C => some (if scN = 1 then .gpopRp sd else .gpop sd)
    | 0x0D => some (.qstat sd)
    | 0x0E => do some (.amo t (← AmoFn.ofCode scN) r sd ea sb)
    | 0x0F => some (.amocas t r sd ea sb sc)
    | 0x10 => some (.qinc t r sd gd ea sb)
    | 0x11 => some (.qwrap t r sd gd ea sb)
    | 0x12 => some (.qdec t r sd gd ea)
    | 0x13 => some (.qaddl t r sd gd ea sb)
    | 0x14 => some (.spld r sd ab sb)
    | 0x15 => some (.spst r ab sb sc)
    | 0x16 => some (.spadd r sd ab sb sc)
    | 0x17 => some (.spcur ab gd sb)
    | 0x18 => some (.spnext r sd sb gd ab)
    | _ => none
  | _ => none

/-- The fields of an M operation in the order of `mWidths` (R315). -/
def mFields (o : SlotOp) : List Nat :=
  let row (op sd imm : Nat) : List Nat := [op, b2n o.sq, b2n o.fst, b2n o.lst, sd, 0, imm]
  match o.op with
  | .lend b => row 1 0 b.toNat
  | .mcall idx => row 2 0 idx.toNat
  | .mpwr sd req => row 3 sd.toNat (b2n req)
  | .mstat sd => row 4 sd.toNat 0
  | .mwait n => row 5 0 n.toNat
  | .reclaim => row 6 0 0
  | _ => []

/-- The M operation that fields in the order of `mWidths` name (R315). -/
def mRead : List Nat → Option Instr
  | [op, _, _, _, sd, _, imm] => match op with
    | 1 => some (.lend (BitVec.ofNat 2 imm))
    | 2 => some (.mcall (BitVec.ofNat 10 imm))
    | 3 => some (.mpwr (BitVec.ofNat 6 sd) (imm == 1))
    | 4 => some (.mstat (BitVec.ofNat 6 sd))
    | 5 => some (.mwait (BitVec.ofNat 2 imm))
    | 6 => some .reclaim
    | _ => none
  | _ => none

/-- The fields of an X operation in the order of `xWidths` (R316). -/
def xFields (o : SlotOp) : List Nat :=
  match o.op with
  | .scld xd ab imm => [1, b2n o.sq, b2n o.fst, b2n o.lst, xd.toNat, ab.toNat, imm.toNat]
  | .scst ab imm xs => [2, b2n o.sq, b2n o.fst, b2n o.lst, xs.toNat, ab.toNat, imm.toNat]
  | _ => []

/-- The X operation that fields in the order of `xWidths` name (R316). -/
def xRead : List Nat → Option Instr
  | [op, _, _, _, xr, ab, imm] => match op with
    | 1 => some (.scld (BitVec.ofNat 4 xr) (BitVec.ofNat 4 ab) (BitVec.ofNat 14 imm))
    | 2 => some (.scst (BitVec.ofNat 4 ab) (BitVec.ofNat 14 imm) (BitVec.ofNat 4 xr))
    | _ => none
  | _ => none

/-- Code of an optional scope; without one the field is 0 (R340, R347). -/
def scopeField : Option Scope → Nat
  | none => 0
  | some s => s.code

/-- ORD and SCOPE2 of a BWAIT (R114, R347). -/
def WaitOrd.fields : WaitOrd → Nat × Nat
  | .relaxed s => (0, s.code)
  | .acq s => (1, s.code)

/-- The bit of ORD that a release or acquire of a VOTE sets, and its scope field (R114, R454). -/
def VoteSide.fields : VoteSide → Nat × Nat
  | .unused s => (0, s.code)
  | .takes s => (1, s.code)

/-- The fields of a Q operation in the order of `qWidths` (R318). -/
def qFields (o : SlotOp) : List Nat :=
  let row (op spec ord scope scope2 sd sa sb imm : Nat) : List Nat :=
    [op, b2n o.sq, b2n o.fst, b2n o.lst, spec, ord, scope, scope2, sd, sa, sb, imm]
  match o.op with
  | .lqbindTx lq sd sp sc => row 0x01 0 0 0 0 sd.toNat sp.toNat sc.toNat lq.toNat
  | .lqbindRx lq sd sp sc => row 0x01 0 0 0 0 sd.toNat sp.toNat sc.toNat (lq.toNat + 16)
  | .lqbindUn lq sd => row 0x01 0 0 0 0 sd.toNat 0 0 (lq.toNat + 32)
  | .lqpush lq vb => row 0x02 0 0 0 0 0 0 0 (lq.toNat + 16 * vb.toNat)
  | .lqpushT lq vb st => row 0x02 0 0 0 0 0 st.toNat 0 (lq.toNat + 16 * vb.toNat + 64)
  | .lqpop lq vb => row 0x03 0 0 0 0 0 0 0 (lq.toNat + 16 * vb.toNat)
  | .lqstat sd lq => row 0x04 0 0 0 0 sd.toNat 0 0 lq.toNat
  | .xfer fab spec ad as sl ac sv =>
    row 0x05 (b2n spec) 0 0 0 (ac.toNat + 16 * b2n fab) sl.toNat sv.toNat (ad.toNat * 16 + as.toNat)
  | .ejob w ss => row 0x06 0 0 0 0 0 ss.toNat 0 w.toNat
  | .ego spec e => row 0x07 (b2n spec) 0 0 0 0 0 0 e.toNat
  | .route spec aj => row 0x08 (b2n spec) 0 0 0 0 0 0 aj.toNat
  | .abandon ab => row 0x09 0 0 0 0 0 0 0 ab.toNat
  | .cload ap sn => row 0x0A 0 0 0 0 0 sn.toNat 0 ap.toNat
  | .carm spec ac => row 0x0B (b2n spec) 0 0 0 0 0 0 ac.toNat
  | .ctrig spec t => row 0x0C (b2n spec) 0 0 0 0 0 0 t.toNat
  | .spdense spec ac => row 0x0D (b2n spec) 0 0 0 0 0 0 ac.toNat
  | .arrive rel ch => row 0x0E 0 (if rel.isSome then 2 else 0) (scopeField rel) 0 0 0 0 ch.toNat
  | .bwait o ch => row 0x0F 0 o.fields.1 0 o.fields.2 0 0 0 ch.toNat
  | .vote rel acq gand gor gsrc ch =>
    row 0x10 0 (2 * rel.fields.1 + acq.fields.1) rel.fields.2 acq.fields.2 gand.toNat gor.toNat gsrc.toNat ch.toNat
  | .bdom sd ch => row 0x11 0 0 0 0 sd.toNat 0 0 ch.toNat
  | .ctlrd sd cr => row 0x12 0 0 0 0 sd.toNat 0 (cr.toNat / 2 ^ 8) (cr.toNat % 2 ^ 8)
  | .ctlwr cr ss => row 0x13 0 0 0 0 0 ss.toNat (cr.toNat / 2 ^ 8) (cr.toNat % 2 ^ 8)
  | .tlbinv mode sa sb => row 0x14 0 0 0 0 0 sa.toNat sb.toNat mode.code
  | .kstart sd sa sb => row 0x15 0 0 0 0 sd.toNat sa.toNat sb.toNat 0
  | .bankcfg sb sc => row 0x16 0 0 0 0 0 sb.toNat sc.toNat 0
  | _ => []

/-- The Q operation that fields in the order of `qWidths` name (R318). -/
def qRead : List Nat → Option Instr
  | [op, _, _, _, spec, ord, scope, scope2, sdN, saN, sbN, imm] => do
    let sc ← Scope.ofCode scope
    let sc2 ← Scope.ofCode scope2
    let sp := spec == 1
    let sd := BitVec.ofNat 6 sdN
    let sa := BitVec.ofNat 6 saN
    let sb := BitVec.ofNat 6 sbN
    let lq := BitVec.ofNat 4 imm
    let vb := BitVec.ofNat 2 (imm / 16)
    let ch := BitVec.ofNat 5 imm
    let cr := BitVec.ofNat 12 (sbN * 2 ^ 8 + imm)
    let rel := if ord / 2 = 1 then some sc else none
    match op with
    | 0x01 => match imm / 16 with
      | 0 => some (.lqbindTx lq sd sa sb)
      | 1 => some (.lqbindRx lq sd sa sb)
      | 2 => some (.lqbindUn lq sd)
      | _ => none
    | 0x02 => some (if imm / 64 = 1 then .lqpushT lq vb sa else .lqpush lq vb)
    | 0x03 => some (.lqpop lq vb)
    | 0x04 => some (.lqstat sd lq)
    | 0x05 =>
      some (.xfer (sdN / 16 == 1) sp (BitVec.ofNat 4 (imm / 16)) lq sa (BitVec.ofNat 4 sdN) sb)
    | 0x06 => some (.ejob ch sa)
    | 0x07 => some (.ego sp (BitVec.ofNat 1 imm))
    | 0x08 => some (.route sp lq)
    | 0x09 => some (.abandon lq)
    | 0x0A => some (.cload lq sa)
    | 0x0B => some (.carm sp lq)
    | 0x0C => some (.ctrig sp lq)
    | 0x0D => some (.spdense sp lq)
    | 0x0E => some (.arrive rel ch)
    | 0x0F => some (.bwait (if ord = 0 then .relaxed sc2 else .acq sc2) ch)
    | 0x10 =>
      let side (b : Bool) (s : Scope) : VoteSide := if b then .takes s else .unused s
      some (.vote (side (ord / 2 == 1) sc) (side (ord % 2 == 1) sc2) (BitVec.ofNat 4 sdN) (BitVec.ofNat 4 saN) (BitVec.ofNat 4 sbN) ch)
    | 0x11 => some (.bdom sd ch)
    | 0x12 => some (.ctlrd sd cr)
    | 0x13 => some (.ctlwr cr sa)
    | 0x14 => do some (.tlbinv (← TlbMode.ofCode imm) sa sb)
    | 0x15 => some (.kstart sd sa sb)
    | 0x16 => some (.bankcfg sa sb)
    | _ => none
  | _ => none

/-- The fields of a branch operation in the order of `bWidths` (R320). -/
def bFields (o : SlotOp) : List Nat :=
  let row (op sr off : Nat) : List Nat := [op, b2n o.sq, b2n o.fst, b2n o.lst, sr, off]
  match o.op with
  | .br off => row 0x1 0 off.toNat
  | .jmp sa => row 0x2 sa.toNat 0
  | .call sd off => row 0x3 sd.toNat off.toNat
  | .ret sa => row 0x4 sa.toNat 0
  | .loop l off => row 0x5 (l.toNat * 8) off.toNat
  | .lbreak l => row 0x6 (l.toNat * 8) 0
  | .lpsetCnt l sr => row 0x7 (l.toNat * 8) (sr.toNat * 2 ^ 14)
  | .lpsetStr l ar sr =>
    row 0x7 (l.toNat * 8 + 4 + ar.toNat / 4) (ar.toNat % 4 * 2 ^ 20 + sr.toNat * 2 ^ 14)
  | .yield => row 0x8 0 0
  | .halt => row 0x9 0 0
  | .bkpt => row 0xA 0 0
  | .trap imm => row 0xB 0 imm.toNat
  | .svc imm => row 0xC 0 imm.toNat
  | .eret => row 0xD 0 0
  | _ => []

/-- The branch operation that fields in the order of `bWidths` name (R320). -/
def bRead : List Nat → Option Instr
  | [op, _, _, _, sr, off] =>
    let r := BitVec.ofNat 6 sr
    let o := BitVec.ofNat 22 off
    let l := BitVec.ofNat 3 (sr / 8)
    match op with
    | 0x1 => some (.br o)
    | 0x2 => some (.jmp r)
    | 0x3 => some (.call r o)
    | 0x4 => some (.ret r)
    | 0x5 => some (.loop l o)
    | 0x6 => some (.lbreak l)
    | 0x7 =>
      if sr / 4 % 2 = 1 then
        some (.lpsetStr l (BitVec.ofNat 4 (sr % 4 * 4 + off / 2 ^ 20)) (BitVec.ofNat 6 (off / 2 ^ 14)))
      else some (.lpsetCnt l (BitVec.ofNat 6 (off / 2 ^ 14)))
    | 0x8 => some .yield
    | 0x9 => some .halt
    | 0xA => some .bkpt
    | 0xB => some (.trap (BitVec.ofNat 16 off))
    | 0xC => some (.svc (BitVec.ofNat 16 off))
    | 0xD => some .eret
    | _ => none
  | _ => none

/-- The layout of a slot: its field widths, the fields of an operation, and the reading of fields. -/
structure SlotLayout where
  kind : SlotKind
  widths : List Nat
  fields : SlotOp → List Nat
  read : List Nat → Option Instr

/-- The layout of the scalar half of P (R308). -/
def scalarLayout : SlotLayout := ⟨.ps, scalarWidths, scalarFields, scalarRead⟩
/-- The layout of the vector half of P (R310). -/
def vectorLayout : SlotLayout := ⟨.pv, vectorWidths, vectorFields, vectorRead⟩
/-- The layout of the L slot (R312). -/
def lLayout : SlotLayout := ⟨.l, lWidths, lFields, lRead⟩
/-- The layout of the M slot (R315). -/
def mLayout : SlotLayout := ⟨.m, mWidths, mFields, mRead⟩
/-- The layout of the X slot (R316). -/
def xLayout : SlotLayout := ⟨.x, xWidths, xFields, xRead⟩
/-- The layout of the Q slot (R317). -/
def qLayout : SlotLayout := ⟨.q, qWidths, qFields, qRead⟩
/-- The layout of a branch slot (R320). -/
def bLayout : SlotLayout := ⟨.b, bWidths, bFields, bRead⟩

/-- An operation from a slot's word: none where the word is unassigned (R306), some none for the
no-operation, whose every other field is 0 (R304). -/
def decodeSlot (L : SlotLayout) (w : Nat) : Option (Option SlotOp) :=
  match unpackFields L.widths w with
  | op :: sq :: fst :: lst :: rest =>
    if op = 0 then
      if w = 0 then some none else none
    else
      match L.read (op :: sq :: fst :: lst :: rest) with
      | some i =>
        let o : SlotOp := ⟨sq == 1, fst == 1, lst == 1, i⟩
        if o.fits L.kind && L.fields o == op :: sq :: fst :: lst :: rest then some (some o) else none
      | none => none
  | _ => none

/-- A guard from its five bits (R304). -/
def decodeGuard (w : Nat) : Guard := ⟨BitVec.ofNat 4 (w / 2), w % 2 == 1⟩

/-- A bundle from its 384 bits, none where any part is unassigned (R40, R302, R306, R321). -/
def decodeBundle (w : Nat) : Option Bundle := do
  let sop ← decodeSlot scalarLayout (bitsN w 319 44)
  let vop ← decodeSlot vectorLayout (bitsN w 272 47)
  let lop ← decodeSlot lLayout (bitsN w 208 59)
  let mop ← decodeSlot mLayout (bitsN w 160 43)
  let xop ← decodeSlot xLayout (bitsN w 128 27)
  let qop ← decodeSlot qLayout (bitsN w 80 43)
  let b0op ← decodeSlot bLayout (bitsN w 40 35)
  let b1op ← decodeSlot bLayout (bitsN w 0 35)
  if bitsN w 368 10 = 0 && branchPairOk b0op b1op then
    some {
      stall := BitVec.ofNat 4 (bitsN w 380 4), rmark := bitN w 379, yieldHint := bitN w 378
      pg := decodeGuard (bitsN w 363 5), sop, vop
      lg := decodeGuard (bitsN w 267 5), lop, mg := decodeGuard (bitsN w 203 5), mop
      xg := decodeGuard (bitsN w 155 5), xop, qg := decodeGuard (bitsN w 123 5), qop
      b0g := decodeGuard (bitsN w 75 5), b0op, b1g := decodeGuard (bitsN w 35 5), b1op }
  else none

/-- Does bit 45 of M.AIN and M.CIN name a link queue, and which (R387)? -/
def MSrc.fields : MSrc → Nat × Nat
  | .tile => (0, 0)
  | .lq q => (1, q.toNat)

/-- The word of a micro-op (R387). -/
def encodeMicro : Instr → Nat
  | .mAin cb rows z src =>
    packFields [6, 3, 8, 1, 1, 4, 41]
      [0x01, cb.toNat, rows.toNat, b2n z, src.fields.1, src.fields.2, 0]
  | .mBld imm => packFields [6, 26, 32] [0x02, 0, imm.toNat]
  | .mCin cb rows src =>
    packFields [6, 3, 8, 1, 1, 4, 41] [0x03, cb.toNat, rows.toNat, 0, src.fields.1, src.fields.2, 0]
  | .mCout cb rows dst =>
    let d := match dst with | .tile => (0, 0) | .lq q => (1, q.toNat) | .comb => (2, 0)
    packFields [6, 3, 8, 2, 4, 41] [0x04, cb.toNat, rows.toNat, d.1, d.2, 0]
  | .mEnd => packFields [6, 58] [0x05, 0]
  | .mEpi scl bias clamp gate fmt sc bi cl =>
    packFields [6, 1, 1, 1, 1, 3, 4, 4, 4, 39]
      [0x06, b2n scl, b2n bias, b2n clamp, b2n gate, fmt.toNat, sc.toNat, bi.toNat, cl.toNat, 0]
  | .mGrp ms mc imm => packFields [6, 4, 3, 19, 32] [0x07, ms.toNat, mc.toNat, 0, imm.toNat]
  | .mLoop lvl ms len imm =>
    packFields [6, 1, 4, 12, 9, 32] [0x08, lvl.toNat, ms.toNat, len.toNat, 0, imm.toNat]
  | .mMac cb => packFields [6, 3, 55] [0x09, cb.toNat, 0]
  | .mNextg => packFields [6, 58] [0x0A, 0]
  | .mPset tgt ms imm => packFields [6, 5, 4, 17, 32] [0x0B, tgt.toNat, ms.toNat, 0, imm.toNat]
  | .mSel word g => packFields [6, 34, 12, 12] [0x0C, 0, word.toNat, g.toNat]
  | .mSync => packFields [6, 58] [0x0D, 0]
  | _ => 0

/-- The micro-op whose fields a word holds, before the check of reserved bits (R387). -/
def readMicro (w : Nat) : Option Instr :=
  let cb := BitVec.ofNat 3 (bitsN w 55 3)
  let rows := BitVec.ofNat 8 (bitsN w 47 8)
  let q := BitVec.ofNat 4 (bitsN w 41 4)
  let src : MSrc := if bitN w 45 then .lq q else .tile
  let imm := BitVec.ofNat 32 w
  match bitsN w 58 6 with
  | 0x01 => some (.mAin cb rows (bitN w 46) src)
  | 0x02 => some (.mBld imm)
  | 0x03 => some (.mCin cb rows src)
  | 0x04 => match bitsN w 45 2 with
    | 0 => some (.mCout cb rows .tile)
    | 1 => some (.mCout cb rows (.lq q))
    | 2 => some (.mCout cb rows .comb)
    | _ => none
  | 0x05 => some .mEnd
  | 0x06 =>
    some (.mEpi (bitN w 57) (bitN w 56) (bitN w 55) (bitN w 54) (BitVec.ofNat 3 (bitsN w 51 3))
      (BitVec.ofNat 4 (bitsN w 47 4)) (BitVec.ofNat 4 (bitsN w 43 4)) (BitVec.ofNat 4 (bitsN w 39 4)))
  | 0x07 => some (.mGrp (BitVec.ofNat 4 (bitsN w 54 4)) (BitVec.ofNat 3 (bitsN w 51 3)) imm)
  | 0x08 =>
    some (.mLoop (BitVec.ofNat 1 (bitsN w 57 1)) (BitVec.ofNat 4 (bitsN w 53 4))
      (BitVec.ofNat 12 (bitsN w 41 12)) imm)
  | 0x09 => some (.mMac cb)
  | 0x0A => some .mNextg
  | 0x0B => some (.mPset (BitVec.ofNat 5 (bitsN w 53 5)) (BitVec.ofNat 4 (bitsN w 49 4)) imm)
  | 0x0C => some (.mSel (BitVec.ofNat 12 (bitsN w 12 12)) (BitVec.ofNat 12 (bitsN w 0 12)))
  | 0x0D => some .mSync
  | _ => none

/-- The micro-op of a 64-bit word: none where the unit faults with subcode 0x02 (R152, R386). -/
def decodeMicro (w : Nat) : Option Instr :=
  match readMicro w with
  | some i => if i.wf && encodeMicro i == w then some i else none
  | none => none

/-- The word of a slot: 0 for the no-operation (R304). -/
def encodeSlot (L : SlotLayout) : Option SlotOp → Nat
  | none => 0
  | some o => packFields L.widths (L.fields o)

/-- The five bits of a guard (R304). -/
def encodeGuard (g : Guard) : Nat := g.idx.toNat * 2 + b2n g.inv

/-- The widths of a bundle's parts, STALL first (R302). -/
def bundleWidths : List Nat :=
  [4, 1, 1, 10, 5, 44, 47, 5, 59, 5, 43, 5, 27, 5, 43, 5, 35, 5, 35]

/-- The 384 bits of a bundle (R302). -/
def encodeBundle (b : Bundle) : Nat :=
  packFields bundleWidths
    [b.stall.toNat, b2n b.rmark, b2n b.yieldHint, 0, encodeGuard b.pg, encodeSlot scalarLayout b.sop,
     encodeSlot vectorLayout b.vop, encodeGuard b.lg, encodeSlot lLayout b.lop, encodeGuard b.mg,
     encodeSlot mLayout b.mop, encodeGuard b.xg, encodeSlot xLayout b.xop, encodeGuard b.qg,
     encodeSlot qLayout b.qop, encodeGuard b.b0g, encodeSlot bLayout b.b0op, encodeGuard b.b1g,
     encodeSlot bLayout b.b1op]

/-- A bundle of no-operations, every field 0 (R324). -/
def Bundle.empty : Bundle :=
  { stall := 0, rmark := false, yieldHint := false
    pg := ⟨0, false⟩, sop := none, vop := none, lg := ⟨0, false⟩, lop := none
    mg := ⟨0, false⟩, mop := none, xg := ⟨0, false⟩, xop := none, qg := ⟨0, false⟩, qop := none
    b0g := ⟨0, false⟩, b0op := none, b1g := ⟨0, false⟩, b1op := none }

/-- The bundle that holds one operation, in its slot (B0 for a branch operation). -/
def Bundle.single (i : Instr) : Bundle :=
  let o : Option SlotOp := some ⟨false, false, false, i⟩
  match i.slot with
  | .ps => { Bundle.empty with sop := o }
  | .pv => { Bundle.empty with vop := o }
  | .l => { Bundle.empty with lop := o }
  | .m => { Bundle.empty with mop := o }
  | .x => { Bundle.empty with xop := o }
  | .q => { Bundle.empty with qop := o }
  | .b => { Bundle.empty with b0op := o }
  | .micro | .event => Bundle.empty

/-- The operations of a bundle with their guards, in program order (R305). -/
def Bundle.ops (b : Bundle) : List (Guard × SlotOp) :=
  let one (g : Guard) : Option SlotOp → List (Guard × SlotOp)
    | none => []
    | some o => [(g, o)]
  one b.pg b.sop ++ one b.pg b.vop ++ one b.lg b.lop ++ one b.mg b.mop ++ one b.xg b.xop ++
  one b.qg b.qop ++ one b.b0g b.b0op ++ one b.b1g b.b1op

/-- The word of a well-formed instruction: 64 bits for a micro-op, and for an operation the bundle
that holds it alone. Events have none. -/
def encode (i : Instr) : Nat :=
  match i.slot with
  | .micro => encodeMicro i
  | _ => encodeBundle (Bundle.single i)

/-- The instruction read from a word of the table: a micro-op from 64 bits, else the one operation of
a bundle of up to 384 bits (R302, R322). -/
def decodeTableWord (nbits w : Nat) : Option Instr :=
  if nbits = 64 then decodeMicro w
  else if w < 2 ^ 384 then
    match (decodeBundle w).map Bundle.ops with
    | some [(_, o)] => some o.op
    | _ => none
  else none

end Sys2Proof
end

