-- ==== Sys2Proof/Machine/Formats.lean ====
section
/-! DEFINITION. Numbers: integer wrap and saturation (R59), the five floating formats (R60, R61),
rounding (R67 to R70), the stochastic generator (R71), flushing (R73), conversions (R75, R76) and the
summation trees (R77, R79). Values are exact: a finite magnitude is m * 2^e, and `sticky` says that the
exact value lies strictly between m and m + 1 units. -/

namespace Sys2Proof.Machine

/-- Rounding modes (R66): the codes of `FPCTL.RM`. -/
inductive Mode
  | rne | rtz | rup | rdn | rs
deriving DecidableEq, Repr

/-- The mode of a code of `FPCTL.RM`, `RTENT.RM` (R66, R147). -/
def modeOfCode : Nat → Mode
  | 1 => .rtz | 2 => .rup | 3 => .rdn | 4 => .rs | _ => .rne

/-- Bits of FPCTL above bit 8 that an operation sets (R66). -/
def flagNX : Nat := 1
def flagUF : Nat := 2
def flagOF : Nat := 4
def flagDZ : Nat := 8
def flagNV : Nat := 16

/-- An exact value: NaN, an infinity, or a finite magnitude with its sign. -/
inductive Num
  | nan
  | inf (neg : Bool)
  | fin (neg : Bool) (m : Nat) (e : Int) (sticky : Bool)
deriving DecidableEq, Repr

/-- Zero with a sign. -/
def Num.zero (neg : Bool) : Num := .fin neg 0 0 false

/-- The value of an integer. -/
def Num.ofInt (v : Int) : Num := .fin (decide (v < 0)) v.natAbs 0 false

/-- Is the value a NaN? -/
def Num.isNaN : Num → Bool
  | .nan => true
  | _ => false

/-- Is the value +0 or -0? -/
def Num.isZero : Num → Bool
  | .fin _ 0 _ false => true
  | _ => false

/-- The sign of a value; a NaN has none. -/
def Num.neg : Num → Bool
  | .nan => false
  | .inf s => s
  | .fin s _ _ _ => s

/-- The value with its sign inverted. -/
def Num.flip : Num → Num
  | .nan => .nan
  | .inf s => .inf (!s)
  | .fin s m e t => .fin (!s) m e t

/-- The layout of a floating format (R60): fraction width, exponent width, bias, and whether it has
infinities. -/
structure FFmt where
  frac : Nat
  ebits : Nat
  bias : Nat
  hasInf : Bool
deriving DecidableEq, Repr

/-- The format of a floating type (R60); an integer type has none and reads as `.f32`. -/
def ffmt : Ty → FFmt
  | .f16 => ⟨10, 5, 15, true⟩
  | .bf16 => ⟨7, 8, 127, true⟩
  | .e5m2 => ⟨2, 5, 15, true⟩
  | .e4m3 => ⟨3, 4, 7, false⟩
  | _ => ⟨23, 8, 127, true⟩

/-- The canonical NaN of a format (R60). -/
def canonNaN (t : Ty) : Nat :=
  let f := ffmt t
  if f.hasInf then (2 ^ f.ebits - 1) * 2 ^ f.frac + 2 ^ (f.frac - 1)
  else 2 ^ (f.ebits + f.frac) - 1

/-- The position of the sign bit of a format (R60). -/
def signPos (t : Ty) : Nat := (ffmt t).ebits + (ffmt t).frac

/-- A bit pattern read in a floating format (R61). -/
def readFloat (t : Ty) (w : Nat) : Num :=
  let f := ffmt t
  let s := bitN w (signPos t)
  let E := bitsN w f.frac f.ebits
  let F := w % 2 ^ f.frac
  if E = 2 ^ f.ebits - 1 && (f.hasInf || F = 2 ^ f.frac - 1) then
    if f.hasInf && F = 0 then .inf s else .nan
  else if E = 0 then .fin s F (1 - (f.bias : Int) - f.frac) false
  else .fin s (2 ^ f.frac + F) ((E : Int) - f.bias - f.frac) false

/-- A bit pattern read as a value of any type: an integer (R59) or a float (R61). -/
def readNum (t : Ty) (w : Nat) : Num :=
  if t.isInt then
    Num.ofInt (if t.signed then sintN t.width w else ((w % 2 ^ t.width : Nat) : Int))
  else readFloat t w

/-- The range of an integer type (R59). -/
def intMin (t : Ty) : Int := if t.signed then -(2 ^ (t.width - 1) : Nat) else 0
/-- The range of an integer type (R59). -/
def intMax (t : Ty) : Int :=
  if t.signed then (2 ^ (t.width - 1) : Nat) - 1 else (2 ^ t.width : Nat) - 1

/-- `Wrap(t, v)` as a w-bit pattern (R59). -/
def wrapTy (t : Ty) (v : Int) : Nat := wrapN t.width v

/-- `Sat(t, v)` (R59). -/
def clampTy (t : Ty) (v : Int) : Int := max (intMin t) (min (intMax t) v)

/-- `Sat(t, v)` as a w-bit pattern (R59). -/
def satTy (t : Ty) (v : Int) : Nat := wrapN t.width (clampTy t v)

/-- A w-bit pattern as the integer it means in t (R59, R331). -/
def intOf (t : Ty) (w : Nat) : Int :=
  if t.signed then sintN t.width w else ((w % 2 ^ t.width : Nat) : Int)

/-- A w-bit pattern widened to 64 bits: sign-extended for `.i`, zero-extended otherwise (R331). -/
def extendTy (t : Ty) (w : Nat) : Word := BitVec.ofInt 64 (intOf t w)

/-- One step of the generator (R71). -/
def rngStep (x : BitVec 32) : BitVec 32 :=
  let x := x ^^^ (x <<< 13)
  let x := x ^^^ (x >>> 17)
  x ^^^ (x <<< 5)

/-- The magnitude (m plus less than one, if sticky) / 2^sh rounded to an integer in a mode; r is the
24-bit draw of `RS` (R68, R69). The Bool says the result is inexact. -/
def roundMag (mode : Mode) (neg : Bool) (m sh : Nat) (sticky : Bool) (r : Nat) : Nat × Bool :=
  let q := m / 2 ^ sh
  let rem := m % 2 ^ sh
  if rem = 0 && !sticky then (q, false)
  else
    let up : Bool := match mode with
      | .rtz => false
      | .rup => !neg
      | .rdn => neg
      | .rne =>
        if 2 * rem > 2 ^ sh then true
        else if 2 * rem = 2 ^ sh then sticky || q % 2 = 1
        else false
      | .rs => decide (r < rem * 2 ^ 24 / 2 ^ sh)
    (if up then q + 1 else q, true)

/-- floor(log2 v) of a nonzero magnitude m * 2^e. -/
def magExp (m : Nat) (e : Int) : Int := (Nat.log2 m : Int) + e

/-- Is |v| below 2^-126: the test of the flush (R68, R73)? -/
def isTiny : Num → Bool
  | .fin _ m e t => (m != 0 || t) && (m == 0 || decide (magExp m e < -126))
  | _ => false

/-- `Flush(v)` (R73). -/
def flush (fz : Bool) (v : Num) : Num := if fz && isTiny v then Num.zero v.neg else v

/-- A sign, and the integer k of k * 2^q, as a pattern of the format; k is at most 2^(frac+1), and q
is the spacing exponent. The exponent field may pass the format's largest (R60). -/
def packFloat (t : Ty) (neg : Bool) (k : Nat) (q : Int) : Nat × Int :=
  let f := ffmt t
  let kq := if k = 2 ^ (f.frac + 1) then (2 ^ f.frac, q + 1) else (k, q)
  let E : Int := if kq.1 < 2 ^ f.frac then 0 else kq.2 + f.frac + f.bias
  (b2n neg * 2 ^ signPos t + E.toNat * 2 ^ f.frac + kq.1 % 2 ^ f.frac, E)

/-- The largest finite pattern without sign (R60). -/
def largestPat (t : Ty) : Nat :=
  let f := ffmt t
  if f.hasInf then (2 ^ f.ebits - 1) * 2 ^ f.frac - 1 else 2 ^ (f.ebits + f.frac) - 2

/-- Infinity of a format (R61). -/
def infPat (t : Ty) (neg : Bool) : Nat :=
  b2n neg * 2 ^ signPos t + (2 ^ (ffmt t).ebits - 1) * 2 ^ (ffmt t).frac

/-- Is the magnitude m * 2^e (plus a part of a unit, if sticky) above the largest finite value? -/
def aboveLargest (t : Ty) (m : Nat) (e : Int) (sticky : Bool) : Bool :=
  match readFloat t (largestPat t) with
  | .fin _ lm le _ =>
    let lo := min e le
    let x := m * 2 ^ (e - lo).toNat
    let y := lm * 2 ^ (le - lo).toNat
    decide (x > y) || (x == y && sticky)
  | _ => false

/-- `RoundTo(t, mode, v)` (R68, R69): the pattern and the flags, for a value whose zero already
carries its sign (R70). -/
def roundTo (t : Ty) (mode : Mode) (fz : Bool) (r : Nat) (v : Num) : Nat × Nat :=
  let f := ffmt t
  match v with
  | .nan => (canonNaN t, 0)
  | .inf s => if f.hasInf then (infPat t s, 0) else (canonNaN t, flagNV)
  | .fin s m e st =>
    if m = 0 && !st then (b2n s * 2 ^ signPos t, 0)
    else if fz && isTiny v then (b2n s * 2 ^ signPos t, flagUF + flagNX)
    else
      let emin : Int := 1 - f.bias
      let p := if m = 0 then emin - 1 else magExp m e
      let q : Int := max p emin - f.frac
      let mode := if mode = .rs && aboveLargest t m e st then .rne else mode
      let rr := if q ≥ e then roundMag mode s m (q - e).toNat st r
                else (m * 2 ^ (e - q).toNat, st)
      let pk := packFloat t s rr.1 q
      let ovf := pk.2 > (2 ^ f.ebits : Nat) - 1 ||
        pk.1 % 2 ^ signPos t > largestPat t
      if ovf then
        let sg := b2n s * 2 ^ signPos t
        let big := sg + largestPat t
        let pat := if !f.hasInf then big else match mode with
          | .rne | .rs => infPat t s
          | .rtz => big
          | .rup => if s then big else infPat t s
          | .rdn => if s then infPat t s else big
        (pat, flagOF + flagNX)
      else
        (pk.1, if rr.2 then flagNX + (if p < emin then flagUF else 0) else 0)

/-- Value of a finite number as an integer over 2^lo, lo at or below its exponent. -/
def numScaled (neg : Bool) (m : Nat) (e lo : Int) : Int :=
  let x : Int := (m * 2 ^ (e - lo).toNat : Nat)
  if neg then -x else x

/-- The exact sum; an exact zero takes the sign of R70. The Bool marks an invalid case (R74). -/
def addNum (mode : Mode) (a b : Num) : Num × Bool :=
  match a, b with
  | .nan, _ => (.nan, false)
  | _, .nan => (.nan, false)
  | .inf s, .inf s' => if s = s' then (.inf s, false) else (.nan, true)
  | .inf s, _ => (.inf s, false)
  | _, .inf s => (.inf s, false)
  | .fin s m e t, .fin s' m' e' t' =>
    let lo := min e e'
    let v := numScaled s m e lo + numScaled s' m' e' lo
    if v = 0 && !t && !t' then
      if m = 0 && m' = 0 && s = s' then (Num.zero s, false) else (Num.zero (mode = .rdn), false)
    else (.fin (decide (v < 0)) v.natAbs lo (t || t'), false)

/-- The exact product; zeros take the exclusive OR of the signs (R70). -/
def mulNum (a b : Num) : Num × Bool :=
  match a, b with
  | .nan, _ => (.nan, false)
  | _, .nan => (.nan, false)
  | .inf s, .inf s' => (.inf (s != s'), false)
  | .inf s, .fin s' m _ _ => if m = 0 then (.nan, true) else (.inf (s != s'), false)
  | .fin s m _ _, .inf s' => if m = 0 then (.nan, true) else (.inf (s != s'), false)
  | .fin s m e t, .fin s' m' e' t' => (.fin (s != s') (m * m') (e + e') (t || t'), false)

/-- Comparison of two numbers that are not NaN, +0 equal to -0: negative, zero or positive. -/
def cmpNum (a b : Num) : Int :=
  match a, b with
  | .inf s, .inf s' => if s = s' then 0 else if s then -1 else 1
  | .inf s, _ => if s then -1 else 1
  | _, .inf s => if s then 1 else -1
  | .fin s m e _, .fin s' m' e' _ =>
    let lo := min e e'
    numScaled s m e lo - numScaled s' m' e' lo
  | _, _ => 0

/-- The larger of two numbers, -0 below +0 (R403). -/
def maxNum (a b : Num) : Num :=
  if cmpNum a b > 0 then a else if cmpNum a b < 0 then b else if a.neg then b else a

/-- The smaller of two numbers, -0 below +0 (R403). -/
def minNum (a b : Num) : Num :=
  if cmpNum a b < 0 then a else if cmpNum a b > 0 then b else if a.neg then a else b

/-- One result of a floating operation on values already flushed: canonical NaN for a NaN source,
NV for an invalid case, else the rounded value (R364, R74). -/
def finishFloat (t : Ty) (mode : Mode) (fz : Bool) (r : Nat) (v : Num × Bool) : Nat × Nat :=
  if v.2 then (canonNaN t, flagNV) else roundTo t mode fz r v.1

/-- FADD on patterns (R364). -/
def fAdd (t : Ty) (mode : Mode) (fz : Bool) (r a b : Nat) : Nat × Nat :=
  finishFloat t mode fz r (addNum mode (flush fz (readFloat t a)) (flush fz (readFloat t b)))

/-- Subtraction: the sum with the second sign inverted (R444). -/
def fSub (t : Ty) (mode : Mode) (fz : Bool) (r a b : Nat) : Nat × Nat :=
  finishFloat t mode fz r (addNum mode (flush fz (readFloat t a)) (flush fz (readFloat t b)).flip)

/-- FMUL on patterns (R364). -/
def fMul (t : Ty) (mode : Mode) (fz : Bool) (r a b : Nat) : Nat × Nat :=
  finishFloat t mode fz r (mulNum (flush fz (readFloat t a)) (flush fz (readFloat t b)))

/-- FFMA on patterns (R364): one rounding; with any NaN source NV is not set. -/
def fFma (t : Ty) (mode : Mode) (fz : Bool) (r a b c : Nat) : Nat × Nat :=
  let x := flush fz (readFloat t a)
  let y := flush fz (readFloat t b)
  let z := flush fz (readFloat t c)
  if x.isNaN || y.isNaN || z.isNaN then (canonNaN t, 0)
  else
    let p := mulNum x y
    if p.2 then (canonNaN t, flagNV) else finishFloat t mode fz r (addNum mode p.1 z)

/-- A comparison of two floats after Flush (R365). -/
def fCmp (cc : Cc) (a b : Num) : Bool :=
  let un := a.isNaN || b.isNaN
  match cc with
  | .un => un
  | .ord => !un
  | .ne => un || cmpNum a b != 0
  | .eq => !un && cmpNum a b == 0
  | .lt => !un && decide (cmpNum a b < 0)
  | .le => !un && decide (cmpNum a b ≤ 0)
  | .gt => !un && decide (cmpNum a b > 0)
  | .ge => !un && decide (cmpNum a b ≥ 0)

/-- A comparison of two integers (R354). -/
def iCmp (cc : Cc) (a b : Int) : Bool :=
  match cc with
  | .eq => a == b
  | .ne => a != b
  | .lt => decide (a < b)
  | .le => decide (a ≤ b)
  | .gt => decide (a > b)
  | .ge => decide (a ≥ b)
  | .un => false
  | .ord => true

/-- MAX or MIN of two float patterns (R403). -/
def fMaxMin (t : Ty) (mx fz : Bool) (a b : Nat) : Nat :=
  let x := flush fz (readFloat t a)
  let y := flush fz (readFloat t b)
  if x.isNaN || y.isNaN then canonNaN t
  else (roundTo t .rne false 0 (if mx then maxNum x y else minNum x y)).1

/-- The value rounded to an integer in a mode (R75, R358), and whether inexact. -/
def roundInt (mode : Mode) (r : Nat) : Num → Int × Bool
  | .fin s m e t =>
    let q := if e ≥ 0 then (m * 2 ^ e.toNat, t) else roundMag mode s m (-e).toNat t r
    (if s then -(q.1 : Int) else q.1, q.2)
  | _ => (0, false)

/-- A float or integer value to an integer type (R75, R358): NaN gives 0 with NV, saturation sets NV,
an inexact result NX. -/
def toIntTy (t : Ty) (mode : Mode) (r : Nat) (v : Num) : Nat × Nat :=
  match v with
  | .nan => (0, flagNV)
  | .inf s => (wrapN t.width (if s then intMin t else intMax t), flagNV)
  | .fin .. =>
    let q := roundInt mode r v
    let c := clampTy t q.1
    (wrapN t.width c, (if c ≠ q.1 then flagNV else 0) + (if q.2 then flagNX else 0))

/-- A conversion of R75 on a source pattern: to type `tt`, from type `frm`; `sat` between integers. -/
def convert (tt frm : Ty) (sat : Bool) (mode : Mode) (fz : Bool) (r w : Nat) : Nat × Nat :=
  if tt.isInt && frm.isInt then
    (if sat then satTy tt (intOf frm w) else wrapTy tt (intOf frm w), 0)
  else
    let v := if frm.isInt then readNum frm w else flush fz (readFloat frm w)
    if tt.isInt then toIntTy tt mode r v
    else if (frm == .e4m3 || frm == .e5m2) && (tt == .f16 || tt == .bf16 || tt == .f32) ||
        (frm == .f16 || frm == .bf16) && tt == .f32 then roundTo tt .rne false 0 v
    else roundTo tt mode fz r v

/-- floor(sqrt n), bit by bit from bit k down. -/
def isqrtFrom (n : Nat) : Nat → Nat → Nat
  | 0, acc => acc
  | k + 1, acc =>
    let c := acc + 2 ^ k
    isqrtFrom n k (if c * c ≤ n then c else acc)

/-- floor(sqrt n). -/
def isqrt (n : Nat) : Nat := isqrtFrom n (Nat.log2 n / 2 + 1) 0

/-- Bits of precision of the functions that are not rational (log 13). -/
def precBits : Nat := 320

/-- The sum of 2 / ((2k+1) 3^(2k+1)) for the next `n` values of k, in units of 2^-precBits. -/
def ln2Sum : Nat → Nat → Nat → Nat
  | 0, _, _ => 0
  | n + 1, k, pw => pw * 2 / (2 * k + 1) + ln2Sum n (k + 1) (pw / 9)

/-- ln 2 in units of 2^-precBits. -/
def ln2Fix : Nat := ln2Sum 110 0 (2 ^ precBits / 3)

/-- The sum of the next n terms of exp(y), y in units of 2^-precBits, the k-th term given. -/
def expSum (y : Nat) : Nat → Nat → Nat → Nat
  | 0, _, term => term
  | n + 1, k, term => term + expSum y n (k + 1) (term * y / 2 ^ precBits / (k + 1))

/-- exp(y) for 0 ≤ y < 1, in units of 2^-precBits. -/
def expFix (y : Nat) : Nat := expSum y 70 0 (2 ^ precBits)

/-- 2^x of a finite exact dyadic x (R448). -/
def exp2Num (neg : Bool) (m : Nat) (e : Int) : Num :=
  if m = 0 then .fin false 1 0 false
  else if magExp m e ≥ 12 then (if neg then .fin false 1 (-5000) true else .fin false 1 5000 true)
  else
    let p : Int := precBits
    let fx := numScaled neg m (max e (-p)) (-p)
    let tiny := decide (e < -p)
    let i := fx.fdiv (2 ^ precBits)
    let fr := (fx - i * 2 ^ precBits).toNat
    if fr = 0 && !tiny then .fin false 1 i false
    else .fin false (expFix (fr * ln2Fix / 2 ^ precBits)) (i - p) true

/-- exp(y) of a finite exact dyadic y (R233). -/
def expNum (neg : Bool) (m : Nat) (e : Int) : Num :=
  if m = 0 then .fin false 1 0 false
  else if magExp m e ≥ 12 then (if neg then .fin false 1 (-7000) true else .fin false 1 7000 true)
  else
    let p : Int := precBits
    let fx := numScaled neg m (max e (-p)) (-p)
    let i := fx.fdiv ln2Fix
    let fr := (fx - i * ln2Fix).toNat
    .fin false (expFix fr) (i - p) true

/-- The next n fraction bits of log2 c, 1 ≤ c < 2, c in units of 2^-precBits. -/
def log2Bits : Nat → Nat → Nat → Nat
  | 0, _, acc => acc
  | n + 1, c, acc =>
    let c2 := c * c / 2 ^ precBits
    if c2 ≥ 2 ^ (precBits + 1) then log2Bits n (c2 / 2) (acc * 2 + 1)
    else log2Bits n c2 (acc * 2)

/-- log2 of a positive exact dyadic (R448). -/
def log2Num (m : Nat) (e : Int) : Num :=
  let k := Nat.log2 m
  let ip := (k : Int) + e
  if m = 2 ^ k then Num.ofInt ip
  else
    let c := if k ≤ precBits then m * 2 ^ (precBits - k) else m / 2 ^ (k - precBits)
    let n := 200
    let fx : Int := ip * 2 ^ n + log2Bits n c 0
    if fx ≥ 0 then .fin false fx.toNat (-(n : Int)) true
    else .fin true (fx.natAbs - 1) (-(n : Int)) true

/-- a / b of two exact positive dyadics. -/
def divMag (m : Nat) (e : Int) (m' : Nat) (e' : Int) : Nat × Int × Bool :=
  let sh := precBits + Nat.log2 m'
  let n := m * 2 ^ sh
  (n / m', e - e' - sh, n % m' != 0)

/-- The exact quotient; zeros and infinities by the signs (R70, R74). -/
def divNum (a b : Num) : Num × Bool :=
  match a, b with
  | .nan, _ => (.nan, false)
  | _, .nan => (.nan, false)
  | .inf _, .inf _ => (.nan, true)
  | .inf s, .fin s' _ _ _ => (.inf (s != s'), false)
  | .fin s _ _ _, .inf s' => (Num.zero (s != s'), false)
  | .fin s m e t, .fin s' m' e' t' =>
    if m' = 0 then (if m = 0 then (.nan, true) else (.inf (s != s'), false))
    else if m = 0 then (Num.zero (s != s'), false)
    else
      let d := divMag m e m' e'
      (.fin (s != s') d.1 d.2.1 (d.2.2 || t || t'), false)

/-- VEXP2 on one lane (R448). -/
def fExp2 (t : Ty) (mode : Mode) (fz : Bool) (r a : Nat) : Nat × Nat :=
  match flush fz (readFloat t a) with
  | .nan => (canonNaN t, 0)
  | .inf s => (if s then 0 else infPat t false, 0)
  | .fin s m e _ => roundTo t mode fz r (exp2Num s m e)

/-- VLOG2 on one lane (R448). -/
def fLog2 (t : Ty) (mode : Mode) (fz : Bool) (r a : Nat) : Nat × Nat :=
  match flush fz (readFloat t a) with
  | .nan => (canonNaN t, 0)
  | .inf s => if s then (canonNaN t, flagNV) else (infPat t false, 0)
  | .fin s m e _ =>
    if m = 0 then (infPat t true, flagDZ)
    else if s then (canonNaN t, flagNV)
    else roundTo t mode fz r (log2Num m e)

/-- VRCP on one lane (R448). -/
def fRcp (t : Ty) (mode : Mode) (fz : Bool) (r a : Nat) : Nat × Nat :=
  match flush fz (readFloat t a) with
  | .nan => (canonNaN t, 0)
  | .inf s => (b2n s * 2 ^ signPos t, 0)
  | .fin s m e _ =>
    if m = 0 then (infPat t s, flagDZ)
    else roundTo t mode fz r (divNum (.fin false 1 0 false) (.fin s m e false)).1

/-- VRSQ on one lane (R448). -/
def fRsq (t : Ty) (mode : Mode) (fz : Bool) (r a : Nat) : Nat × Nat :=
  match flush fz (readFloat t a) with
  | .nan => (canonNaN t, 0)
  | .inf s => if s then (canonNaN t, flagNV) else (0, 0)
  | .fin s m e _ =>
    if m = 0 then (infPat t s, flagDZ)
    else if s then (canonNaN t, flagNV)
    else
      let me := if e % 2 = 0 then (m, e) else (2 * m, e - 1)
      let p := precBits
      let n := 2 ^ (2 * p) / me.1
      let q := isqrt n
      roundTo t mode fz r (.fin false q (-(p : Int) - me.2 / 2) (q * q * me.1 != 2 ^ (2 * p)))

/-- x + y in `.f32` rounded to nearest even, with the flags of the rounding (R77). -/
def addF32 (a b : Nat) : Nat × Nat := fAdd .f32 .rne false 0 a b

/-- Adjacent sums of a list, each rounded: one level of `PairTree` (R77). -/
def pairLevel (add : Nat → Nat → Nat × Nat) : List Nat → List Nat × Nat
  | x :: y :: rest =>
    let s := add x y
    let r := pairLevel add rest
    (s.1 :: r.1, s.2 ||| r.2)
  | l => (l, 0)

/-- `PairTree` of a list whose length is a power of two, by levels (R77). The flags are those of every
rounding. -/
def pairTreeWith (add : Nat → Nat → Nat × Nat) : Nat → List Nat → Nat × Nat
  | 0, l => (l.headD 0, 0)
  | n + 1, l =>
    match l with
    | [x] => (x, 0)
    | _ =>
      let lv := pairLevel add l
      let r := pairTreeWith add n lv.1
      (r.1, lv.2 ||| r.2)

/-- `PairTree` of `.f32` patterns (R77). -/
def pairTree (l : List Nat) : Nat × Nat := pairTreeWith addF32 (Nat.log2 l.length + 1) l

/-- The value of an E8M0 scale; 255 is NaN (R62). -/
def e8m0 (x : Nat) : Num := if x % 256 = 255 then .nan else .fin false 1 ((x % 256 : Nat) - 127 : Int) false

/-- An MXINT element of width w with scale x (R63). -/
def mxNum (w x el : Nat) : Num :=
  if x % 256 = 255 then .nan
  else
    let v := sintN w el
    .fin (decide (v < 0)) v.natAbs (((x % 256 : Nat) : Int) - 127 - (w - 2)) false

/-- `MxScale(block, w)` (R76). -/
def mxScale (vals : List Num) : Nat :=
  if vals.any (fun v => match v with | .fin .. => false | _ => true) then 255
  else
    let exps := vals.filterMap (fun v => match v with
      | .fin _ m e _ => if m = 0 then none else some (magExp m e)
      | _ => none)
    match exps with
    | [] => 0
    | p :: ps => (min 254 (max 0 (ps.foldl max p + 127))).toNat

/-- `MxEncode(v, X, w, mode)` with its flags (R76). -/
def mxEncode (w x : Nat) (mode : Mode) (r : Nat) : Num → Nat × Nat
  | .fin s m e t =>
    if x = 255 then (0, 0)
    else
      let q := (roundInt mode r (.fin s m (e - ((x : Int) - 127 - (w - 2))) t)).1
      let hi : Int := (2 ^ (w - 1) : Nat) - 1
      let lo : Int := -(2 ^ (w - 1) : Nat)
      (wrapN w (max lo (min hi q)), if q > hi || q < lo then flagOF else 0)
  | _ => (0, 0)

/-- RNE addition without flushing in any format, by patterns (R259). -/
def addRne (t : Ty) (a b : Nat) : Nat := (fAdd t .rne false 0 a b).1

/-- RNE multiplication without flushing, by patterns. -/
def mulRne (t : Ty) (a b : Nat) : Nat := (fMul t .rne false 0 a b).1

end Sys2Proof.Machine
end

