-- ==== Sys2Proof/Machine/State.lean ====
section
/-! DEFINITION. The state of one Ridon device, as plain data: strands (R19, R265, R275 to R291), cores
(R146 to R160, R215 to R225, R273, R282), dies, memory and the units of chapters 5 to 15. Every
register holds a value at reset; where the manual gives none it is 0 (log 1). -/

namespace Sys2Proof.Machine

/-- No instruction of this model stops with a fault: every exception the manual describes is taken
(R277), and a stop of a strand is a state of the strand (R19). The one reason left is a state in which
nothing can ever happen again. -/
inductive Fault where
  /-- Raised by the step when no agent of the device can act and no time passes: never reached, since
  time always passes. Safe. -/
  | stuck
deriving DecidableEq, Repr

/-- Reasons for which an instruction has no meaning. -/
inductive Refusal where
  /-- Raised by an arm of the dispatch for an instruction not modelled yet. Safe. -/
  | notModelled (mnemonic : String)
deriving DecidableEq, Repr

/-- The six states of a strand (R19). -/
inductive Run
  | off | ready | run | waiting | halted | debug
deriving DecidableEq, Repr

/-- What a strand in WAIT waits for (R19, R23, R137, R478). -/
inductive Wait
  | none
  /-- An address-queue push that found no room (R282, R368); a gather needs a data-queue slot too. -/
  | aqSpace (gather : Bool)
  /-- A data-queue pop whose data is not present (R371). -/
  | dqData
  /-- The generation of a Huddle channel (R31). -/
  | chan (ch : Nat)
  /-- At most n of the strand's own calls (R149). -/
  | calls (n : Nat)
  /-- A store to a 64-byte line, or the cycle given (R137). -/
  | line (pa deadline : Nat)
  /-- Space of a tx queue (R221). -/
  | lqSpace (q : Nat)
  /-- A complete strip of an rx queue (R221). -/
  | lqData (q : Nat)
  /-- A hold of the issue path that has lasted 64 cycles (R23). -/
  | hold
deriving DecidableEq, Repr

/-- The name of a register that a result is written to, by the classes of R45. -/
inductive RegName
  | s (r : BitVec 6) | a (r : BitVec 4) | g (r : BitVec 4) | vm (r : BitVec 3) | v (r : BitVec 6)
  | m (r : BitVec 3) | x (r : BitVec 4) | k (r : BitVec 3)
deriving DecidableEq, Repr

/-- A result in flight (R42, R43): bits `mask` of `dst` take those of `val` in cycle `due`. A result
with no cycle yet waits for the answer that names `tag`. `lock` marks an interlocked result, `sq` the
squash flag (R46), `flags` what it sets in FPCTL (R363), `fpctl` that it is a read of FPCTL, which takes the flags of
earlier operations (R363), `replay` a replay entry (R58), `seq` its
bundle, `step` that it is of a step of a cursor (R186). -/
structure Result where
  dst : RegName
  val : VWord
  mask : VWord
  due : Option Nat
  lock : Bool
  sq : Bool
  fpctl : Bool
  flags : Nat
  replay : Bool
  seq : Nat
  tag : Nat
  step : Bool := false
deriving DecidableEq, Repr

/-- A loop level (R49): CNT, BEG and END as stream offsets, the active bit and the strides. -/
structure Loop where
  cnt : BitVec 32
  beg : BitVec 32
  fin : BitVec 32
  active : Bool
  strides : Vector (BitVec 32) 16
deriving DecidableEq, Repr

/-- The registers a restart mark saves (R53), with the loop levels. -/
structure Regs where
  s : Vector Word 64
  a : Vector Word 16
  g : BitVec 16
  vm : Vector MWord 8
  m : Vector Word 8
  x : Vector XWord 16
  k : Vector (BitVec 32) 6
  loops : Vector Loop 6
deriving DecidableEq, Repr

/-- What a store in the gated buffer or the store queue does when it becomes visible. -/
inductive StoreKind
  /-- Write the bytes whose `bmask` bit is 1. -/
  | write
  /-- Append 8 bytes to a FIFO bank (R102). -/
  | push
  /-- Write the line back to HBM (R350). -/
  | flush
  /-- Discard the line (R351). -/
  | inval
  /-- An atomic that waits for the stores before it (R127): its AOP (R314), its second operand and the
  tag of its results; `data` holds the first operand. -/
  | atomic (aop op2 tag : Nat)
deriving DecidableEq, Repr

/-- A translation held in a TLB (R88, R91). -/
structure TlbEntry where
  asid : Nat
  glob : Bool
  va : Nat
  size : Nat
  pa : Nat
  user : Bool
  type : Nat
  r : Bool
  w : Bool
  dirty : Bool
  pteAddr : Nat
deriving DecidableEq, Repr

/-- What a cached access brings its line into an L1 under (R93): the core, the identifier, the virtual address and the
translation. -/
structure Fill where
  core : Nat
  asid : Nat
  va : Nat
  page : TlbEntry
deriving DecidableEq, Repr

/-- A store of a strand that is not yet visible (R55, R116); `after` is the bundle of the last MARK before it, or 0 (R118),
`fill` what its line enters the L1 under (R93), `sq` that it is that of an operation that a taken branch cancels (R46), `step` that
it is the record that a step of a cursor stores (R186). -/
structure PStore where
  kind : StoreKind
  pa : Nat
  va : Nat
  size : Nat
  data : Nat
  bmask : Nat
  rel : Option Scope
  seq : Nat
  ready : Nat
  after : Nat
  fill : Option Fill
  sq : Bool
  step : Bool := false
deriving DecidableEq, Repr

/-- Where the bytes of a load go: to the results that wait for a tag, `line` being the line of a VLD (R451), or to a
gather element by its data-queue slot (R369). -/
inductive LoadDst
  | reg (tag : Nat) (line : Option Nat)
  | elem (slot : Nat)
deriving DecidableEq, Repr

/-- A load in a strand's load queue (R116, R125), not performed yet: where it goes, the type it is extended in, its physical
and virtual address, size, what its line enters the L1 under (R93), whether it acquires (R122), its enabled bytes (R451), the bundle of the last MARK before it
(R118), the last bundle whose stores it forwards (R117), its own bundle, the cycle in which its data arrives, and its
squash flag (R46). -/
structure PLoad where
  dst : LoadDst
  ty : Ty
  pa : Nat
  va : Nat
  size : Nat
  fill : Option Fill
  acq : Bool
  bmask : Nat
  after : Nat
  upTo : Nat
  seq : Nat
  ready : Nat
  sq : Bool
deriving DecidableEq, Repr

/-- A gather or scatter element (R368, R425): in the address queue, parked, or in the overflow
register. `data` is a scatter's data, or what a gather read; `cause` is 0 when it does not fault; `ready` is the
cycle in which it completes, once it has performed (`done`). -/
structure Elem where
  sid : Nat
  va : Nat
  index : Nat
  ty : Ty
  scatter : Bool
  data : Nat
  slot : Nat
  seq : Nat
  cause : Nat
  ready : Nat
  done : Bool
deriving DecidableEq, Repr

/-- A slot of the data queue (R368): its number, its data when present, whether a parked element
holds it. -/
structure DqSlot where
  id : Nat
  data : Option Word
  held : Bool
  seq : Nat
deriving DecidableEq, Repr

/-- The restart mark (R53, R58): registers, offset, replay entries with their distances, and the
data-queue entries popped since (R369). -/
structure Mark where
  valid : Bool
  regs : Regs
  off : BitVec 18
  replay : List Result
  popped : List DqSlot
  seq : Nat
  cycle : Nat
deriving DecidableEq, Repr

/-- A trap on its way (R277): code, TVAL, and whether CAUSE.FQ or CAUSE.INTR is set. -/
structure Trap where
  code : Nat
  tval : Nat
  fq : Bool
  intr : Bool
deriving DecidableEq, Repr

/-- How a trap leaves the bundle (R277). -/
inductive TrapKind
  | precise | rollback | after | async
deriving DecidableEq, Repr

/-- The modifying steps of a sparse region (R180, R181). -/
inductive OryxOp
  | st | add
deriving DecidableEq, Repr

/-- A request that has to be answered before its bundle may act (R305): pieces of a remote load (piece,
physical and virtual address, log2 of the size), a remote atomic, an Oryx operation, a TLBINV, or the drops of an ABANDON (job,
and homes: device, die and slot). -/
inductive Req
  | load (pieces : List (Nat × Nat × Nat × Nat))
  | atomic (pa va size aop op1 op2 : Nat)
  | oryx (op : OryxOp) (desc key val : Nat)
  | tlbinv (mode : TlbMode) (va spec : Nat)
  | drops (key : Nat × Nat) (homes : List (Nat × Nat × Nat))
deriving DecidableEq, Repr

/-- What stands in the way of an operation, decided before the bundle acts (R305, R478). -/
inductive Obstacle
  | trap (k : TrapKind) (t : Trap)
  | wait (w : Wait)
  | hold
  | ask (r : Req)
deriving DecidableEq, Repr

/-- The answers to a request (R305): by piece what has come, and of a load the bytes of the strand's own stores as it
left (R117). -/
structure Answer where
  req : Req
  got : List (Nat × Nat)
  own : SMap (List (Nat × Byte))
deriving DecidableEq, Repr

/-- A request of the held bundle at `off`: whether it has left, its tag, the answers wanted and those that have
come, a fault in their place, by piece of a load the bytes of the strand's own stores as it left (R117), the
requests of the bundle answered before it, with their answers, and whether the stores that stand before a TLBINV in its bundle have
acted (R437). -/
structure Pend where
  off : BitVec 18
  req : Req
  sent : Bool
  tag : Nat
  want : Nat
  got : List (Nat × Nat)
  fail : Option Trap
  own : SMap (List (Nat × Byte))
  past : List Answer
  stored : Bool := false
deriving DecidableEq, Repr

/-- A strand or Chamois thread. `reinject` holds what a rollback has to put in flight again, with the number of handlers the
strand was in and the mark's offset (R58); `stash` the remote atomics of bundles that a trap has broken off, with that number
(R23); `passed` the stores that have left the store queue past leases, each with the cycle from which it is visible (R100);
`stopAt` the cycle in which the next bundle would have issued, once the strand has stopped for an interrupt or to be
saved (R57, R278); `halting` that the bundle at the pc is complete and its HALT waits (R372). -/
structure Strand where
  run : Run
  wait : Wait
  pc : BitVec 18
  regs : Regs
  v : Vector VWord 64
  flight : List Result
  mark : Mark
  replay : List Result
  reinject : List (Nat × BitVec 18 × List Result)
  gated : List PStore
  storeQ : List PStore
  passed : List (Nat × PStore)
  loadQ : List PLoad
  aq : List Elem
  dq : List DqSlot
  nextSlot : Nat
  card : Vector Word 32
  status : Word
  cause : Word
  epc : BitVec 18
  tval : Word
  tvec : Word
  scratch : Word
  fpctl : Word
  rng : BitVec 32
  sbcheck : Word
  ptroot : Word
  banksel : BitVec 6
  ipend : BitVec 5
  ienable : BitVec 5
  tcmp : Word
  dbgEn : Bool
  lnqsel : BitVec 6
  sebsel : BitVec 10
  lksel : BitVec 4
  stsel : BitVec 9
  frtsel : BitVec 12
  bundles : Word
  pend : BitVec 32
  tags : Vector (BitVec 16) 32
  depth : Nat
  qcount : Nat
  holdFrom : Option Nat
  request : Option Pend
  stash : List (Nat × Pend)
  stopAt : Option Nat
  nextIssue : Nat
  lastIssue : Nat
  lastStall : Nat
  seq : Nat
  relSeq : Nat
  fenceSeq : Nat
  forceMark : Bool
  halting : Bool
  reports : List Trap
deriving DecidableEq, Repr

/-- A line of an L1 (R93, R94, R100): its tag, the physical line, the end of its lease, whether it is dirty, and the
translation it is held under. -/
structure L1Line where
  asid : Nat
  vline : Nat
  pline : Nat
  leaseEnd : Nat
  dirty : Bool
  page : TlbEntry
deriving DecidableEq, Repr

/-- A line of a cluster's cache (R95): the bank that is its way, the physical line, the end of its lease, and whether it is
dirty. -/
structure WayLine where
  bank : Nat
  pline : Nat
  leaseEnd : Nat
  dirty : Bool
deriving DecidableEq, Repr

/-- A line of an L2 slice (R96): the physical line, and whether HBM is older. -/
structure L2Line where
  pline : Nat
  dirty : Bool
deriving DecidableEq, Repr

/-- A call in the matrix unit's queue (R148): the strand, the routine, the copied registers and the bundle. -/
structure Call where
  sid : Nat
  idx : Nat
  m : Vector Word 8
  seq : Nat
deriving DecidableEq, Repr

/-- An open sweep of a bank (R389): rows, source, K position in compressed rows, and for a link queue the scale of each row
(R224). -/
structure Sweep where
  rows : Nat
  src : MSrc
  kpos : Nat
  scales : SMap Nat
deriving DecidableEq, Repr

/-- The tile a B buffer holds: its slice offset and length (R390). -/
structure Tile where
  addr : Nat
  len : Nat
  data : Nat
deriving DecidableEq, Repr

/-- An open loop of a routine (R156). -/
structure MLoop where
  first : Nat
  last : Nat
  iter : Nat
  count : Nat
deriving DecidableEq, Repr

/-- An open group of a routine (R157): the words of its body and of its M.NEXTG, the table, the entry count, the
current entry and its fields. -/
structure MGroup where
  first : Nat
  last : Nat
  table : Nat
  count : Nat
  n : Nat
  rows : Nat
  aoff : Nat
  boff : Nat
  ooff : Nat
  roff : Nat
deriving DecidableEq, Repr

/-- The epilogue settings of a routine (R158, R394). -/
structure Epilogue where
  scl : Bool
  bias : Bool
  clamp : Bool
  gate : Bool
  fmt : Nat
  sc : Nat
  bi : Nat
  cl : Nat
deriving DecidableEq, Repr

/-- The running routine of a matrix unit (R386): word index, table entry, parameters of R153,
epilogue, sweeps, B buffers, select map, loops and group; the cycles of R163: when the next micro-op may issue,
when the B load ends, when the array is free, when each bank's products and outputs are done, when all work is
done; and how many rows the micro-op in issue has done with a link queue. -/
structure Routine where
  word : Nat
  entry : Word
  params : Vector Nat 18
  epi : Epilogue
  sweeps : SMap Sweep
  back : Option Tile
  front : Option Tile
  map : Option (Nat × Nat)
  maps : List (Nat × Nat)
  loop0 : Option MLoop
  loop1 : Option MLoop
  group : Option MGroup
  ended : Bool
  next : Nat
  bld : Nat
  array : Nat
  done : SMap Nat
  outs : SMap Nat
  fin : Nat
  part : Nat
deriving DecidableEq, Repr

/-- The role of a link queue (R215). -/
inductive LqRole
  | unbound | tx | rx
deriving DecidableEq, Repr

/-- A strip being sent (R222, R223): its number, next cell, the slot from which its next cell may go, its
4,096 bytes, and whether its first slot was named. -/
structure TxStrip where
  num : Nat
  cell : Nat
  slot : Nat
  data : Nat
  timed : Bool
deriving DecidableEq, Repr

/-- A link queue (R215 to R225): `got` holds which cells of each strip have come, `spaceDue` that COUNT has
changed since the last space cell, sent in `spaceSlot`, `via` the link of this device over which the cells of the circuit that it
claims came last (R214), and `unTags` the tags of the LQBIND.un that wait for its strips to leave, each with its earliest cycle
(R382). -/
structure Lq where
  role : LqRole
  owner : Nat
  peer : Nat
  fcirc : Nat
  rcirc : Nat
  stepl : Nat
  phase : Nat
  count : Nat
  f : Nat
  out : List TxStrip
  got : SMap Nat
  spaceDue : Bool
  spaceSlot : Nat
  down : Bool
  closing : Bool
  via : Option Nat
  unTags : List (Nat × Nat)
deriving DecidableEq, Repr

/-- A command of the commit buffer (R273): the submitting strand, the bundle, whether it carries `.spec` (a plain
submission waits here for the stores of its own bundle, R133), the scope of its release, the command with its
captured card, and how its guard resolved. -/
structure Commit where
  sid : Nat
  seq : Nat
  spec : Bool
  scope : Scope
  guardDue : Nat
  guardIdx : BitVec 4
  guardInv : Bool
  kind : Nat
  card : List Nat
  settled : Option Bool
deriving DecidableEq, Repr

/-- The modes of a cluster SRAM bank (R102). -/
inductive BankMode
  | cache | scratchpad | fifo
deriving DecidableEq, Repr

/-- A cluster SRAM bank (R102 to R104). -/
structure Bank where
  mode : BankMode
  target : BankMode
  busy : Bool
  busyEnd : Nat
  nrdy : Bool
  eng : Bool
  ovf : Bool
  rej : Bool
  fifo : List Word
deriving DecidableEq, Repr

/-- The completion word of a core that KSTART started (R375): address, value, scope, and the address space of the
started code. -/
structure CoreWord where
  addr : Nat
  val : Nat
  fab : Bool
  root : Nat
  priv : Nat
deriving DecidableEq, Repr

/-- A core: dictionary, selector, membership, queues, matrix unit and fault queue. `sends` counts the combine sends that their
homes have not accepted (R150). `bmembQ` holds the membership writes
that apply from a cycle on (R30), `wake` is one more than the cycle in which the idle core's strand in RUN became READY, else 0 (R22). -/
structure Core where
  dictbase : BitVec 15
  dictlen : BitVec 14
  slen : Nat
  cur : BitVec 2
  yhen : Bool
  lastIssue : Nat
  wake : Nat
  bmemb0 : Word
  bmemb1 : Word
  bmembQ : List (Nat × Bool × Word)
  stage : BitVec 4
  org : Vector (BitVec 32) 4
  ext : Vector (BitVec 32) 4
  rxbase : BitVec 2
  ubind : Bool
  lq : Vector Lq 16
  wscfg : BitVec 4
  half : Bool
  rtsel : BitVec 10
  rtent : SMap Word
  mrng : BitVec 32
  calls : List Call
  mstart : Nat
  routine : Option Routine
  acc : SMap (BitVec 32)
  psum : SMap Int
  gdone : Nat
  sends : Nat
  fsub : Nat
  lent : Option (Nat × Nat)
  fq : List Elem
  overflow : Option Elem
  commit : List Commit
  l1 : List L1Line
  started : BitVec 4
  task : Option Nat
  cw : Option CoreWord
deriving DecidableEq, Repr

/-- A physical byte range (R134). -/
structure Range where
  pa : Nat
  len : Nat
deriving DecidableEq, Repr

/-- A page-lock entry (R107, R108): address space, virtual range, the physical ranges it covers, and the job
that holds it (0: kernel software). -/
structure Lock where
  asid : Nat
  va : Nat
  len : Nat
  phys : List Range
  job : Nat
deriving DecidableEq, Repr

/-- What an engine job does (R270, R188, R227, R256, R263). -/
inductive JobKind
  | copy | launch | densify | route | impala | task
deriving DecidableEq, Repr

/-- Where a job stands (R136, R272, R273): in the commit buffer, waiting for its edges or its engine, in a shadow
set, or active. -/
inductive JobPhase
  | spec | waiting | shadow | active
deriving DecidableEq, Repr

/-- An unretired job of a die (R134, R270, R272); `failed` its failure value (R268), `fetched`
the lines of its input that other devices hold, `at_` the cycle in which
the work of an active job is done (log 6). -/
structure Job where
  id : Nat
  die : Nat
  kind : JobKind
  phase : JobPhase
  engine : Nat
  sid : Nat
  asid : Nat
  priv : Nat
  root : Nat
  reads : List Range
  writes : List Range
  edges : List Nat
  rawFrom : List Nat
  card : List Nat
  cwAddr : Nat
  cwVal : Nat
  failed : Option Nat
  fetched : SMap Nat
  at_ : Nat
deriving DecidableEq, Repr

/-- A task: a launch packet that the coordinator has accepted (R264 to R274): its number, which is that of its job on
die 0, its queue and packet, its place among the starts, whether it has started or is preloaded, whether a discarded
preload is to be redone and whether it starts although its queue is stopped (R274), the cores that have
not reported, the cycle in which its budget ends, whether it is being saved, what it left saved (core, strands saved,
strands halted), what its saved contexts leave besides (strand, handlers it is in, parked elements, its last bundle), and the failure value
it is to end with. -/
structure Task where
  id : Nat
  queue : Nat
  pkt : Nat
  order : Nat
  started : Bool
  preloaded : Bool
  redo : Bool
  passStop : Bool
  pending : List Nat
  deadline : Option Nat
  leaving : Bool
  saved : List (Nat × Nat × Nat)
  kept : List (Nat × Nat × Nat × Nat)
  doomed : Option Nat
deriving DecidableEq, Repr

/-- A launch queue (R263), with the lines of its head's footprint block that have come from another device, by virtual line,
or the failure met there. -/
structure LaunchQueue where
  cause : BitVec 8
  prio : BitVec 3
  err : Bool
  kern : Bool
  dev : Bool
  stop : Bool
  en : Bool
  packets : List Nat
  window : Nat
  foot : SMap Nat
  footBad : Option (Nat × Nat)
deriving DecidableEq, Repr

/-- A Huddle channel (R29, R454): generation, recorded arrivals (strand, bundle, AND-input, OR-input, and the scope of a
release that still covers stores of its own bundle), the last AND and OR, and the completions that a die has still to observe (die, generation, cycle). -/
structure Chan where
  gen : BitVec 16
  arrived : List (Nat × Nat × Bool × Bool × Option Scope)
  lastAnd : Bool
  lastOr : Bool
  obs : List (Nat × BitVec 16 × Nat)
deriving DecidableEq, Repr

/-- A packet of this device's flows that is not done with (R202 to R208): its number, the packet (its `die`
is the sending one; `op` 0 is a response, with STATUS in `aop`), the strand, or 4,096 plus the job, that it
belongs to, the virtual address of the access or the place an engine's data goes, the type a load is read
in, when it was sent (0: not yet) and what has come back. -/
structure TxPkt where
  psn : Nat
  pkt : Packet
  owner : Nat
  va : Nat
  ty : Ty
  sent : Nat
  timeouts : Nat
  rnrs : Nat
  rnrUntil : Option Nat
  cancelled : Bool
  acked : Bool
  waits : Bool
deriving DecidableEq, Repr

/-- The source side of a flow (R202). -/
structure TxFlow where
  dst : Nat
  flow : Nat
  next : Nat
  base : Nat
  pkts : List TxPkt
deriving DecidableEq, Repr

/-- The target side of a flow (R203, R204); `held` are requests that wait for an earlier one or for their line. -/
structure RxFlow where
  src : Nat
  flow : Nat
  base : Nat
  ackmap : Nat
  rnrmap : Nat
  held : List Packet
deriving DecidableEq, Repr

/-- A waiting cell of a router (R197, R199): where and when it arrived, the output of a sprayed one, and the slot since which the
ports of its mask have given it no credit. -/
structure QCell where
  input : Nat
  out : Nat
  slot : Nat
  cell : Cell
  esc : Bool
  dry : Option Nat
deriving DecidableEq, Repr

/-- One end of a link (R193, R209 to R214): `line` holds the cells that wait for a slot of the link, `nakDue` that a NAK
does, and `wire` the cell of the slot that has passed last, an idle one where nothing was sent (R191). -/
structure Link where
  trained : Bool
  down : Bool
  ldly : Nat
  lseq : Nat
  expect : Nat
  nak : Bool
  sent : List (Nat × LinkCell)
  marker : Option Nat
  authlim : BitVec 8
  authcnt : Nat
  txen : Bool
  rxen : Bool
  txOn : Bool
  rxOn : Bool
  txslot : Bool
  rxslot : Bool
  oldfree : Bool
  warn : Bool
  spent : Bool
  authDown : Bool
  keys : Vector Word 16
  salts : Vector (BitVec 32) 4
  ctrs : Vector Nat 4
  line : List LinkCell
  nakDue : Bool
  wire : Option LinkCell
deriving DecidableEq, Repr

/-- A cell of a combine buffer (R246). -/
inductive SlotState
  | pending | full | dropped | empty
deriving DecidableEq, Repr

/-- A combine slot: state, chunk mask and the `.bf16` chunks by number. -/
structure CombSlot where
  st : SlotState
  mask : Nat
  chunks : SMap Nat
deriving DecidableEq, Repr

/-- A choice record of a routing job (R237). -/
structure RRec where
  token : Nat
  wgt : Nat
  expert : Nat
  crank : Nat
  round : Nat
deriving DecidableEq, Repr

/-- A request of a round for one bin (R241, R242): expert, replica, count, and its grant. -/
structure BinReq where
  expert : Nat
  rep : Nat
  count : Nat
  granted : Option Nat
  read : Bool
  thread : Nat
  emitted : Bool
deriving DecidableEq, Repr

/-- A routing job that Springbok runs (R227 to R250): the layer record, its sequence number within the micro-batch,
the round and its records, the records of the next round, the backups left, the requests, the threads that have
closed, the combine slots, the tokens with output written, the count last given in the completion word and when the
next may follow, when the watchdog starts, the choices by expert, the counters of R232 by number (0 `NANCNT` to 7
`BADCNT`), the placement entries and the group, the physical address of the gate state block, whether its outputs, bins and
counters are undefined because members disagree (R230), and whether its scores are because of a store (R231). -/
structure RouteJob where
  job : Nat
  cfg : Nat
  card : Nat
  seq : Nat
  round : Nat
  started : Bool
  records : List RRec
  refused : List RRec
  backups : SMap (List Nat)
  reqs : List BinReq
  closed : List Nat
  slots : SMap CombSlot
  written : List Nat
  lastCw : Nat
  cwAt : Nat
  wdogFrom : Option Nat
  roundsOver : Bool
  cnt : SMap Nat
  counts : SMap Nat
  place : List Nat
  group : List Nat
  gate : Nat
  odd : Bool
  blind : Bool
deriving DecidableEq, Repr

/-- A micro-batch of a layer on a die (R236, R242): the gate state block, the number, the jobs done, and the choices by
expert. -/
structure MicroBatch where
  gate : Nat
  mb : Nat
  seq : Nat
  cnt : SMap Nat
deriving DecidableEq, Repr

/-- What the members of a group have to agree on about a routing job (R230): its micro-batch, its sequence number there and
whether it ends it, `NEXP`, `K`, `DEPTH`, `NRANK`, and the group list and placement table without their reserved bits (R4). -/
structure Ran where
  mb : Nat
  seq : Nat
  last : Bool
  nexp : Nat
  k : Nat
  depth : Nat
  nrank : Nat
  group : List Nat
  place : List Nat
deriving DecidableEq, Repr

/-- A posted permit request at the receiver (R242). -/
structure PostedReq where
  expert : Nat
  rep : Nat
  mb : Nat
  seq : Nat
  round : Nat
  rank : Nat
  count : Nat
deriving DecidableEq, Repr

/-- A micro-batch at a replica (R242, R244): what is left, refused and granted, and whether a hint is written. -/
structure PermitMb where
  mb : Nat
  rem : Nat
  refused : Nat
  hinted : Bool
  granted : Nat
deriving DecidableEq, Repr

/-- A replica of a layer (by its gate state block) at its receiver (R242 to R245): its open micro-batches, the grants of the
job by round and rank, those whose rows are here, whether the header is written; of the last job that had rows granted, the
local addresses of the header and the row records, its micro-batch and sequence number and its group (R249); and its
residency (R105), with the slice offset and length of its weights. -/
structure Permit where
  gate : Nat
  expert : Nat
  rep : Nat
  mbs : List PermitMb
  grants : List (Nat × Nat × Nat)
  here : List (Nat × Nat)
  written : Bool
  hdr : Nat
  recs : Nat
  key : Nat × Nat
  group : List Nat
  resident : Bool
  low : Nat
  wbase : Nat
  wlen : Nat
deriving DecidableEq, Repr

/-- An Impala work entry (R256, R258): its card, job and group, the run and how often its trigger has fired, the step
of the run, the counters, whether it is to be disarmed, the chunks sent and not consumed (run, rank, chunk, whether the
receiver has acknowledged it), and the peers that the step is done with. -/
structure WorkEntry where
  card : Nat
  job : Nat
  group : List Nat
  run : Nat
  fired : Nat
  pc : Option Nat
  ctr : List Nat
  disarm : Bool
  outstanding : List (Nat × Nat × Nat × Bool)
  taken : List Nat
deriving DecidableEq, Repr

/-- A chunk that has arrived (R253): its tag (entry, run, sending rank, chunk) and its bytes. -/
structure Chunk where
  entry : Nat
  run : Nat
  rank : Nat
  chunk : Nat
  data : Nat
deriving DecidableEq, Repr

/-- A die: clock, power, scheduler, router, links and engines. `ran` is the routing job that it started last (R230), and `layers`
the placement table of each layer that it has run, by its gate state block (R105). -/
structure Die where
  cycle : Nat
  frac : Nat
  hold : BitVec 16
  tokens : BitVec 5
  ring : List (Nat × Nat × Bool)
  mpwr : SMap Nat
  droops : Nat
  thstep : BitVec 4
  dstep : Nat
  calm : Nat
  slot : Nat
  sent : SMap Nat
  tabA : SMap (BitVec 32)
  tabB : SMap (BitVec 32)
  act : Bool
  armed : Bool
  late : Bool
  swapat : BitVec 16
  swapPeriod : Nat
  frt : SMap (BitVec 16)
  frtOld : SMap (BitVec 16)
  bad : Nat
  drop : Nat
  covf : Nat
  circ : List QCell
  spray : List QCell
  p7 : Nat
  links : Vector Link 4
  tlb : List TlbEntry
  locks : List (Nat × Lock)
  jobs : List Job
  route : Option RouteJob
  permits : List Permit
  posts : List PostedReq
  mbs : List MicroBatch
  ran : Option Ran
  layers : SMap (List Nat)
  group : List Nat
  islots : SMap (List Nat)
  ientries : SMap WorkEntry
  staged : List Chunk
  iturn : Nat
deriving DecidableEq, Repr

/-- What a program's store, over bytes that a unit works on, leaves undefined at the end of that work (R6): bytes of tile
memory stored to and written during a core's routine (R150), a routine whose words were stored over, and the bytes of its
core's microprogram store that were (R139, R400), bytes of a job's
regions stored to (R135). `val` holds the free value that takes their place. -/
inductive Clash
  | tile (core pa len val : Nat)
  | wrote (core pa len : Nat)
  | words (core val : Nat)
  | mstored (core off len : Nat)
  | job (id pa len val : Nat)
deriving DecidableEq, Repr

/-- The address space an access is made in: identifier, table, translation on, privilege, the TLBs
that serve it (R86, R91), the core whose L1 does, and the range that a Chamois thread reaches directly (R241). -/
structure Space where
  asid : Nat
  base : Nat
  en : Bool
  priv : Nat
  die : Nat
  clu : Option Nat
  core : Option Nat := none
  lo : Nat := 0
  hi : Nat := 0
deriving DecidableEq, Repr

/-- A sparse region in use (R169): the local address of its descriptor, `NNODES`, the virtual address of node 0, the address
space of the last operation that named it, and the local ranges of its pool as that space maps them, with those of them that
it may write. It is in use from its first operation until a program stores to it what R169 names (DESIGN CHOICE, log 39). -/
structure RegionUse where
  desc : Nat
  nnodes : Nat
  base : Nat
  space : Space
  pool : List Range
  own : List Range
deriving DecidableEq, Repr

/-- A store of a job of a die to local HBM that waits at its home for a mode switch or a lease (R100, R101): the local
address and the bytes. -/
structure HeldStore where
  die : Nat
  job : Nat
  addr : Nat
  size : Nat
  data : Nat
deriving DecidableEq, Repr

/-- A completion word that waits to be written (R101, R110, R136): the address space, privilege and die it is written in, its
virtual address and value, and the job it is of (0: none). -/
structure HeldWord where
  root : Nat
  priv : Nat
  die : Nat
  addr : Nat
  val : Nat
  job : Nat
deriving DecidableEq, Repr

/-- What leaves the device: link cells, MSI-X vectors, management interrupts (R193, R214, R293) and
engine packets to dies of other devices (log 9). -/
inductive OutMsg
  | link (die port : Nat) (c : LinkCell)
  | msix (vector : Nat)
  | mgmt (code : Nat)
  | engine (dev die kind : Nat) (args : List Nat)
deriving DecidableEq, Repr

/-- A modifying step that an Oryx unit has not answered (R173, R190): the strand, the operation, the descriptor's
virtual address, key and value, the cycle in which the unit takes it, and the tag of its request. -/
structure OryxReq where
  sid : Nat
  op : OryxOp
  desc : Nat
  key : Nat
  val : Nat
  at_ : Nat
  tag : Nat
deriving DecidableEq, Repr

/-- The operation in issue (R305): its strand, own offset and length, issue cycle, and what the
bundle's branch operations have done so far, with STATUS, EPC, SBCHECK.BCTRAP, DBGCTL.EN and SELQUANT.YHEN as they stood before
the bundle (R356). `ahead` holds, while a bundle's obstacles are looked for, the stores that its earlier operations will make. `checked` marks an operation of a bundle whose
conditions have been decided before any of it acts; with `probe` an operation only tells in `found` what stands in its
way. -/
structure Issue where
  checked : Bool
  yhen : Bool
  ahead : List PStore
  off : BitVec 18
  len : Nat
  cycle : Nat
  seq : Nat
  sq : Bool
  spec : Option (BitVec 4 × Bool × Nat)
  target : Option (BitVec 18)
  after : Option Trap
  system : Option Nat
  status : Word
  epc : BitVec 18
  bctrap : Bool
  dbgEn : Bool
  probe : Bool
  found : Option Obstacle
deriving DecidableEq, Repr

/-- Start-up state (R295 to R297). -/
structure Boot where
  reason : BitVec 8
  fails : Nat
  min : Bool
  stage : BitVec 4
  image : List Host.Cell
  deadline : Nat
deriving DecidableEq, Repr

/-- The state of the device. `inbox` holds the events the outside and time have decided, taken
first by the step (log 8); `outbox` what has left; `free` counts the free values used (log 5), `clashes` the stores over bytes in use (log 21), `regions` the sparse regions in
use (R169), `ways` the caches of the clusters (R95) and `l2` the lines of the L2 slices by number (R96), oldest first,
`hostHeld` the host's accesses, `heldWords` completion words, `heldStores` stores of engines and `heldEvents` responses
to engines that wait for a mode switch, a flip or a lease (R100, R101, R110), `nextTag` the tags of answers;
`lost` the readiness bits that have fallen and `passed` those whose function has passed its self-test (R298), `cur` the strand in issue, `mcore` the core whose matrix unit acts, `answer` the last value an MMIO
or host read returned (log 9). -/
structure State where
  now : Nat
  slotFrac : Nat
  strands : SMap Strand
  cores : SMap Core
  dies : Vector Die 4
  mem : List Host.Cell
  stale : List Host.Cell
  poison : List Nat
  banks : SMap Bank
  ctlb : SMap (List TlbEntry)
  dir : SMap (Nat × Nat × Nat)
  ways : SMap (List WayLine)
  l2 : SMap (List L2Line)
  hostHeld : List HostAcc
  heldWords : List HeldWord
  heldStores : List HeldStore
  heldEvents : List Instr
  leases : SMap Nat
  devid : BitVec 13
  lease : BitVec 16
  pass : Bool
  l2busy : Bool
  l2mode : Bool
  fimport : Word
  ackto : BitVec 16
  rtxlim : BitVec 4
  rnrlim : BitVec 4
  txflows : List TxFlow
  rxflows : List RxFlow
  circuits : SMap (Nat × Nat × Bool × Nat)
  chans : SMap Chan
  frz : BitVec 32
  thaw : BitVec 32
  haltall : BitVec 32
  lnq : SMap LaunchQueue
  tasks : List Task
  nextTask : Nat
  nextJob : Nat
  rot : SMap Nat
  plkva : Word
  plklen : Word
  plkctl : Word
  plkroot : Word
  biasAck : Bool
  biasTgt : Bool
  biasRegion : BitVec 19
  biasBusy : Bool
  hostbias : List Nat
  boot : Boot
  ready : Vector Word 15
  lost : Vector Word 15
  passed : Vector Word 15
  secnt : SMap Nat
  inbox : List Instr
  outbox : List OutMsg
  answer : Nat
  free : Nat
  clashes : List Clash
  regions : List RegionUse
  nextTag : Nat
  oryx : List OryxReq
  cur : Nat
  mcore : Nat
  issue : Issue
deriving DecidableEq, Repr

/-- An inactive loop level with every field 0. -/
def Loop.init : Loop := ⟨0, 0, 0, false, Vector.replicate 16 0⟩

/-- Every register 0 and every level inactive (R265). -/
def Regs.init : Regs :=
  { s := Vector.replicate 64 0, a := Vector.replicate 16 0, g := 0, vm := Vector.replicate 8 0
    m := Vector.replicate 8 0, x := Vector.replicate 16 0, k := Vector.replicate 6 0
    loops := Vector.replicate 6 Loop.init }

/-- No mark. -/
def Mark.init : Mark := ⟨false, Regs.init, 0, [], [], 0, 0⟩

/-- A strand at reset: OFF, control registers at their reset values (R66, R71, R275, R276, R285) and
every other register 0 (log 1). -/
def Strand.init : Strand :=
  { run := .off, wait := .none, pc := 0, regs := Regs.init, v := Vector.replicate 64 0
    flight := [], mark := Mark.init, replay := [], reinject := [], gated := [], storeQ := [], passed := [], loadQ := []
    aq := [], dq := [], nextSlot := 0, card := Vector.replicate 32 0
    status := 0, cause := 0, epc := 0, tval := 0, tvec := 0, scratch := 0, fpctl := 0, rng := 1
    sbcheck := 0, ptroot := 0, banksel := 0, ipend := 0, ienable := 0, tcmp := BitVec.allOnes 64
    dbgEn := false, lnqsel := 0, sebsel := 0, lksel := 0, stsel := 0, frtsel := 0, bundles := 0
    pend := 0, tags := Vector.replicate 32 0, depth := 0, qcount := 0, holdFrom := none
    request := none, stash := [], stopAt := none, nextIssue := 0, lastIssue := 0, lastStall := 0, seq := 0, relSeq := 0, fenceSeq := 0, forceMark := true
    halting := false, reports := [] }

/-- An unbound link queue. -/
def Lq.init : Lq :=
  { role := .unbound, owner := 0, peer := 0, fcirc := 0, rcirc := 0, stepl := 0, phase := 0
    count := 0, f := 0, out := [], got := [], spaceDue := false, spaceSlot := 0, down := false
    closing := false, via := none, unTags := [] }

/-- A core at reset (R18, R24, R28, R38, R72, R105, R147, R217). -/
def Core.init : Core :=
  { dictbase := 0, dictlen := 0, slen := 0, cur := 0, yhen := true, lastIssue := 0, wake := 0
    bmemb0 := 0, bmemb1 := 0, bmembQ := [], stage := 0, org := Vector.replicate 4 0, ext := Vector.replicate 4 1
    rxbase := 3, ubind := false, lq := Vector.replicate 16 Lq.init, wscfg := 0, half := false, rtsel := 0
    rtent := [], mrng := 1, calls := [], mstart := 0, routine := none, acc := [], psum := [], gdone := 0, sends := 0
    fsub := 0, lent := none, fq := [], overflow := none, commit := [], l1 := [], started := 0
    task := none, cw := none }

/-- A bank at reset: cache mode (R104). -/
def Bank.init : Bank := ⟨.cache, .cache, false, 0, false, false, false, false, []⟩

/-- A channel at reset (R29). -/
def Chan.init : Chan := ⟨0, [], false, false, []⟩

/-- A launch queue at reset (R263). -/
def LaunchQueue.init : LaunchQueue := ⟨0, 0, false, false, false, false, false, [], 0, [], none⟩

/-- A link at reset: not trained (R211). -/
def Link.init : Link :=
  { trained := false, down := false, ldly := 0, lseq := 0, expect := 1, nak := false, sent := []
    marker := none, authlim := 8, authcnt := 0, txen := false, rxen := false, txOn := false
    rxOn := false, txslot := false, rxslot := false, oldfree := true, warn := false, spent := false
    authDown := false, keys := Vector.replicate 16 0, salts := Vector.replicate 4 0
    ctrs := Vector.replicate 4 0, line := [], nakDue := false, wire := none }

/-- A die at reset: HOLD 4,096, TOKENS 4 with the tokens at clusters 0 to 3 (log 1), clock full. -/
def Die.init : Die :=
  { cycle := 0, frac := 0, hold := 4096, tokens := 4
    ring := [(0, 1, false), (1, 1, false), (2, 1, false), (3, 1, false)], mpwr := []
    droops := 0, thstep := 0, dstep := 0, calm := 0, slot := 0, sent := [], tabA := [], tabB := []
    act := false, armed := false, late := false, swapat := 0, swapPeriod := 0, frt := [], frtOld := []
    bad := 0, drop := 0, covf := 0, circ := [], spray := [], p7 := 0, links := Vector.replicate 4 Link.init
    tlb := [], locks := [], jobs := [], route := none, permits := [], posts := [], mbs := [], ran := none, layers := [], group := [], islots := [], ientries := [], staged := [], iturn := 0 }

/-- No operation in issue. -/
def Issue.init : Issue :=
  { checked := false, yhen := true, ahead := [], off := 0, len := 1, cycle := 0, seq := 0, sq := false, spec := none
    target := none, after := none, system := none, status := 0, epc := 0
    bctrap := false, dbgEn := false, probe := false, found := none }

/-- The machine right after power-on reset (R295): every strand OFF, memory with nothing listed
(log 3), the loader's ROM running (STAGE 0), every register at the reset value of its field map or at
0 where the manual gives none (log 1). -/
def State.reset : State :=
  { now := 0, slotFrac := 0, strands := [], cores := [], dies := Vector.replicate 4 Die.init
    mem := [], stale := [], poison := [], banks := [], ctlb := [], dir := [], ways := [], l2 := [], hostHeld := [], heldWords := [], heldStores := [], heldEvents := [], leases := []
    devid := 0, lease := 256, pass := false, l2busy := false, l2mode := true, fimport := 0
    ackto := 8192, rtxlim := 8, rnrlim := 4, txflows := [], rxflows := [], circuits := []
    chans := [], frz := 0, thaw := 0, haltall := 0, lnq := [], tasks := [], nextTask := 1, nextJob := 1
    rot := [], plkva := 0, plklen := 0, plkctl := 0, plkroot := 0, biasAck := false
    biasTgt := false, biasRegion := 0, biasBusy := false, hostbias := []
    boot := ⟨0, 0, false, 0, [], 0⟩, ready := Vector.replicate 15 0, lost := Vector.replicate 15 0, passed := Vector.replicate 15 0, secnt := []
    inbox := [], outbox := [], answer := 0, free := 0, clashes := [], regions := [], nextTag := 1, oryx := [], cur := 0, mcore := 0, issue := Issue.init }

end Sys2Proof.Machine
end

