-- ==== Sys2Proof/Machine/Ops.lean ====
section
/-! DEFINITION. The named operations over the state: strands, cores and dies by number, bytes of
memory, registers and results in flight (R42, R43, R46), free values (R6), restart marks and rollback
(R53, R55), and taking a trap and returning from one (R279 to R281). -/

namespace Sys2Proof.Machine

/-! ### Numbers of the parts (R11) -/

/-- The core device index of a strand; a Chamois core follows the 512 cores. -/
def coreOf (sid : Nat) : Nat := if sid < 2048 then sid / 4 else 512 + (sid - 2048) / 8

/-- The strand's number within its core. -/
def strandIn (sid : Nat) : Nat := if sid < 2048 then sid % 4 else (sid - 2048) % 8

/-- Is it a Chamois thread (R240)? -/
def isThread (sid : Nat) : Bool := 2048 ≤ sid

/-- The die of a core, a Chamois core included (R11, R299). -/
def dieOfCore (n : Nat) : Nat := if n < 512 then n / 128 else (n - 512) / 16

/-- The die of a strand. -/
def dieOf (sid : Nat) : Nat := dieOfCore (coreOf sid)

/-- The cluster device index of a core (R11). -/
def clusterOf (core : Nat) : Nat := core / 8

/-- The strands that share an issue path (R21, R240). -/
def pathStrands (path : Nat) : List Nat :=
  if path < 512 then (List.range 4).map (fun i => path * 4 + i)
  else (List.range 8).map (fun i => 2048 + (path - 512) * 8 + i)

/-- The number under which the calls and queues of a strand's saved context are kept, by task (R287, log 25). -/
def savedId (task sid : Nat) : Nat := sid + 2 ^ 20 * task

/-- The owner's number of a strand among the strands of its core, that of a saved context included. -/
def ownerOf (sid : Nat) : Nat := strandIn (sid % 2 ^ 20) + 8 * (sid / 2 ^ 20)
/-- The strand, or saved context, of an owner on a core. -/
def ownerSid (core o : Nat) : Nat := core * 4 + o % 8 + 2 ^ 20 * (o / 8)

/-- Do two physical ranges share a byte (R134)? -/
def Range.overlaps (a b : Range) : Bool := decide (a.pa < b.pa + b.len) && decide (b.pa < a.pa + a.len)

/-- Do two lists of ranges share a byte? -/
def overlap (a b : List Range) : Bool := a.any (fun x => b.any x.overlaps)

namespace State

/-- A strand by number. -/
def strand (s : State) (sid : Nat) : Strand := s.strands.getD sid Strand.init
/-- The state with a strand replaced; a strand as at reset is not listed. -/
def setStrand (s : State) (sid : Nat) (st : Strand) : State :=
  { s with strands := s.strands.setD sid Strand.init st }
/-- The state with a strand changed. -/
def updStrand (s : State) (sid : Nat) (f : Strand → Strand) : State := s.setStrand sid (f (s.strand sid))
/-- The strand in issue. -/
def me (s : State) : Strand := s.strand s.cur
/-- The state with the strand in issue changed. -/
def updMe (s : State) (f : Strand → Strand) : State := s.updStrand s.cur f

/-- A core by device index. -/
def core (s : State) (n : Nat) : Core := s.cores.getD n Core.init
/-- The state with a core replaced. -/
def setCore (s : State) (n : Nat) (c : Core) : State :=
  { s with cores := s.cores.setD n Core.init c }
/-- The state with a core changed. -/
def updCore (s : State) (n : Nat) (f : Core → Core) : State := s.setCore n (f (s.core n))
/-- The core of the strand in issue. -/
def myCore (s : State) : Core := s.core (coreOf s.cur)

/-- A die by number, modulo 4. -/
def die (s : State) (d : Nat) : Die := s.dies[d % 4]'(Nat.mod_lt _ (by decide))
/-- The state with a die replaced. -/
def setDie (s : State) (d : Nat) (x : Die) : State :=
  { s with dies := s.dies.set (d % 4) x (Nat.mod_lt _ (by decide)) }
/-- The state with a die changed. -/
def updDie (s : State) (d : Nat) (f : Die → Die) : State := s.setDie d (f (s.die d))

/-- The current cycle of the die of a strand (R2, R319). -/
def cycleOf (s : State) (sid : Nat) : Nat := (s.die (dieOf sid)).cycle

/-- A Huddle channel. -/
def chan (s : State) (ch : Nat) : Chan := s.chans.getD ch Chan.init
/-- The state with a channel replaced. -/
def setChan (s : State) (ch : Nat) (c : Chan) : State := { s with chans := s.chans.setD ch Chan.init c }

/-- A launch queue. -/
def queue (s : State) (q : Nat) : LaunchQueue := s.lnq.getD q LaunchQueue.init
/-- The state with a launch queue replaced. -/
def setQueue (s : State) (q : Nat) (x : LaunchQueue) : State :=
  { s with lnq := s.lnq.setD q LaunchQueue.init x }

/-- A cluster SRAM bank by cluster and number. -/
def bank (s : State) (clu b : Nat) : Bank := s.banks.getD (clu * 64 + b) Bank.init
/-- The state with a bank replaced. -/
def setBank (s : State) (clu b : Nat) (x : Bank) : State :=
  { s with banks := s.banks.setD (clu * 64 + b) Bank.init x }

/-- The next free value (R6, log 5), and the state that has used it. -/
def takeFree (s : State) : Nat × State := (Config.freeValue s.free, { s with free := s.free + 1 })

/-- A value, or the next free one where it is undefined. -/
def orFree (s : State) (undef : Bool) (v : Nat) : Nat × State := if undef then s.takeFree else (v, s)

/-- The state with a message sent. -/
def send (s : State) (m : OutMsg) : State := { s with outbox := s.outbox ++ [m] }

/-- The state with events to come, after those already waiting. -/
def post (s : State) (l : List Instr) : State := { s with inbox := s.inbox ++ l }

end State

/-! ### Bytes of memory (R82, R83, R1: little-endian) -/

/-- The byte at an address; one not listed reads as 0 (log 3). -/
def byteAt : List Host.Cell → Nat → Byte
  | [], _ => 0
  | (i, b) :: rest, a => if i = a then b else byteAt rest a

/-- Memory with a byte written, keeping addresses rising and no zero byte listed. -/
def setByte (m : List Host.Cell) (a : Nat) (b : Byte) : List Host.Cell := SMap.setD (α := Byte) m a 0 b

/-- The canonical form: addresses strictly rising, and no zero byte listed. -/
def Memory.wf : List Host.Cell → Bool
  | [] => true
  | [(_, b)] => b != 0
  | (i, b) :: (j, c) :: rest => b != 0 && decide (i < j) && Memory.wf ((j, c) :: rest)

/-- n bytes from an address as a number, the first byte the lowest. -/
def readBytes (m : List Host.Cell) (a : Nat) : Nat → Nat
  | 0 => 0
  | n + 1 => (byteAt m a).toNat + 256 * readBytes m (a + 1) n

/-- Is the local address in HBM (R83)? -/
def inHbm (a : Nat) : Bool := a < 0xC000000000

namespace State

/-- The state with one byte of memory written. A byte of HBM leaves its old value behind, as what HBM
holds until the line is written back (R97, R351). -/
def writeByte (s : State) (a : Nat) (b : Byte) : State :=
  { s with
    mem := setByte s.mem a b
    stale := if inHbm a && (SMap.find (α := Byte) s.stale a).isNone
      then SMap.insert (α := Byte) s.stale a (byteAt s.mem a) else s.stale }

/-- The state with the bytes of `v` written whose bit in `bmask` is 1, n bytes from an address. -/
def writeBytes (s : State) (a : Nat) (v bmask : Nat) : Nat → State
  | 0 => s
  | n + 1 =>
    let s' := if bmask % 2 = 1 then s.writeByte a (BitVec.ofNat 8 v) else s
    writeBytes s' (a + 1) (v / 256) (bmask / 2) n

/-- The home slice of a line of HBM on the device (R96): 24 on each die, by the die that owns its stack. -/
def sliceOf (line : Nat) : Nat := line / 2 ^ 30 / 3 * 24 + line % 24

/-- What memory holds of a line beside the caches is up to date: the line has been written back to HBM (R97, R350). -/
def cleanLine (s : State) (line : Nat) : State :=
  { s with stale := s.stale.filter (fun c => c.1 / 64 != line) }

/-- The state after a line has come to its home slice of L2: the newest of its lines, and dirty if it was or is now. A full
slice gives up its oldest line, which is written to HBM unless a cluster owns newer data (R10, R97, log 16). -/
def l2Touch (s : State) (line : Nat) (dirty : Bool) : State :=
  let k := sliceOf line
  let l := s.l2.getD k []
  let was := l.any (fun x => x.pline == line && x.dirty)
  let l := l.filter (fun x => x.pline != line) ++ [⟨line, dirty || was⟩]
  match (if 65536 < l.length then l else []) with
  | [] => { s with l2 := s.l2.setD k [] l }
  | x :: rest =>
    let s := { s with l2 := s.l2.setD k [] rest }
    if x.dirty && (SMap.getD s.dir x.pline (0, 0, 0)).1 < 3 then s.cleanLine x.pline else s

/-- n bytes of local memory as a number. -/
def readMem (s : State) (a n : Nat) : Nat := readBytes s.mem a n

/-- The state with n bytes of local memory written. -/
def writeMem (s : State) (a n v : Nat) : State := s.writeBytes a v (2 ^ n - 1) n

end State

/-! ### Registers (R307) -/

/-- s[r]; s0 reads 0 (R306). -/
def Regs.rs (r : Regs) (i : BitVec 6) : Word := if i = 0 then 0 else r.s[i.toNat]'(i.isLt)
/-- a[r]. -/
def Regs.ra (r : Regs) (i : BitVec 4) : Word := r.a[i.toNat]'(i.isLt)
/-- g[r]; index 0 is always true (R304). -/
def Regs.rg (r : Regs) (i : BitVec 4) : Bool := i == 0 || r.g.getLsbD i.toNat
/-- vm[r]. -/
def Regs.rvm (r : Regs) (i : BitVec 3) : MWord := r.vm[i.toNat]'(i.isLt)
/-- m[r]. -/
def Regs.rm (r : Regs) (i : BitVec 3) : Word := r.m[i.toNat]'(i.isLt)
/-- x[r]. -/
def Regs.rx (r : Regs) (i : BitVec 4) : XWord := r.x[i.toNat]'(i.isLt)
/-- k[l], zero for the unassigned numbers 6 and 7. -/
def Regs.rk (r : Regs) (l : BitVec 3) : BitVec 32 := r.k.getD l.toNat 0
/-- A loop level. -/
def Regs.loop (r : Regs) (l : Nat) : Loop := r.loops.getD l Loop.init
/-- The registers with a loop level replaced. -/
def Regs.setLoop (r : Regs) (l : Nat) (x : Loop) : Regs := { r with loops := r.loops.setIfInBounds l x }

/-- v[r]. -/
def Strand.rv (st : Strand) (i : BitVec 6) : VWord := st.v[i.toNat]'(i.isLt)

/-- The bits of `new` where `mask` is 1, of `old` elsewhere. -/
def mergeBits {n : Nat} (old new mask : BitVec n) : BitVec n := (old &&& ~~~mask) ||| (new &&& mask)

/-- The registers with one of them written under a mask; a write to s0 or g0 is ignored (R306), and a
vector register is none of them. -/
def Regs.write (r : Regs) (d : RegName) (val mask : VWord) : Regs :=
  let m64 : Word := mask.setWidth 64
  let v64 : Word := val.setWidth 64
  match d with
  | .s i => if i = 0 then r else { r with s := r.s.set i.toNat (mergeBits (r.rs i) v64 m64) i.isLt }
  | .a i => { r with a := r.a.set i.toNat (mergeBits (r.ra i) v64 m64) i.isLt }
  | .g i =>
    if i = 0 then r
    else if val.getLsbD 0 then { r with g := r.g ||| (1#16 <<< i.toNat) }
    else { r with g := r.g &&& ~~~(1#16 <<< i.toNat) }
  | .vm i =>
    let w := mergeBits (r.rvm i) (val.setWidth 256) (mask.setWidth 256)
    { r with vm := r.vm.set i.toNat w i.isLt }
  | .v _ => r
  | .m i => { r with m := r.m.set i.toNat (mergeBits (r.rm i) v64 m64) i.isLt }
  | .x i =>
    let w := mergeBits (r.rx i) (val.setWidth 1024) (mask.setWidth 1024)
    { r with x := r.x.set i.toNat w i.isLt }
  | .k i => { r with k := r.k.setIfInBounds i.toNat (val.setWidth 32) }

/-- The strand with a register written under a mask (R306). -/
def Strand.write (st : Strand) (d : RegName) (val mask : VWord) : Strand :=
  match d with
  | .v r => { st with v := st.v.set r.toNat (mergeBits (st.rv r) val mask) r.isLt }
  | _ => { st with regs := st.regs.write d val mask }

/-! ### Results in flight (R42, R43, R46) -/

/-- Insertion by visible cycle; equal cycles keep the order of issue (R42). -/
def insertByDue (r : Result) : List Result → List Result
  | [] => [r]
  | x :: rest => if x.due.getD 0 < r.due.getD 0 then x :: insertByDue r rest else r :: x :: rest

/-- Is the result visible to a bundle that issues in cycle t? -/
def Result.ready (t : Nat) (r : Result) : Bool :=
  match r.due with
  | some d => d ≤ t
  | none => false

/-- The strand with one result written, and its flags set in FPCTL (R42, R363). -/
def Strand.land (st : Strand) (r : Result) : Strand :=
  let st := st.write r.dst r.val r.mask
  { st with fpctl := st.fpctl ||| BitVec.ofNat 64 (r.flags * 256) }

/-- Are two requests of one bundle the same one (R305)? A load may be asked again at other addresses; no other request of a
bundle is made twice. -/
def Req.same : Req → Req → Bool
  | .load a, .load b => a == b
  | .atomic _ _ _ _ _ _, .atomic _ _ _ _ _ _ => true
  | .oryx _ _ _ _, .oryx _ _ _ _ => true
  | .tlbinv _ _ _, .tlbinv _ _ _ => true
  | .drops _ _, .drops _ _ => true
  | _, _ => false

/-- Have all answers of a request come, without a failure? -/
def Pend.complete (p : Pend) : Bool := decide (p.want ≤ p.got.length) && p.fail.isNone

/-- What a bundle's requests have been answered with, the latest first (R305). -/
def Pend.answers (p : Pend) : List Answer :=
  if p.complete then ⟨p.req, p.got, p.own⟩ :: p.past else p.past

/-- The answer to one request of a bundle, if it is all there. -/
def Pend.answerTo (p : Pend) (r : Req) : Option Answer := p.answers.find? (fun x => x.req.same r)

/-- Has everything that a request waits for come, or its failure? -/
def Pend.answeredYet (p : Pend) : Bool := decide (p.want ≤ p.got.length) || p.fail.isSome

/-- A read of FPCTL with the flags that some results of its bundle or an earlier one set (R363). -/
def Result.gain (l : List Result) (x : Result) : Result :=
  if x.fpctl then { x with val := l.foldl (fun a r =>
    if r.seq ≤ x.seq then a ||| BitVec.ofNat 2048 (r.flags * 256) else a) x.val }
  else x

/-- The strand with every result visible by cycle t written, in the order in which they become
visible (R42). -/
def Strand.settle (st : Strand) (t : Nat) : Strand :=
  let now := (st.flight.filter (Result.ready t)).foldr insertByDue []
  (now.map (Result.gain now)).foldl Strand.land
    { st with flight := (st.flight.filter (fun r => !r.ready t)).map (Result.gain now) }

/-- The strand without the squash-flagged results of bundles before `seq` not written by the end of
cycle t, and without the cursor store of an SPNEXT so cancelled (R46). -/
def Strand.squash (st : Strand) (t seq : Nat) : Strand :=
  { st with
    flight := st.flight.filter (fun r => !(r.sq && r.seq < seq && !r.ready t))
    gated := st.gated.filter (fun p => !(p.sq && p.seq < seq &&
      st.flight.any (fun r => r.sq && r.lock && r.seq == p.seq && !r.ready t)))
    loadQ := st.loadQ.filter (fun l => !(l.sq && l.seq < seq)) }

namespace State

/-- The state with a result of the operation in issue put in flight: latency `lat` from the issue
cycle (R42), interlocked or not (R43), with the flags a floating operation sets (R363). -/
def emit (s : State) (d : RegName) (val mask : VWord) (lat : Nat) (lock : Bool) (flags : Nat) : State :=
  s.updMe (fun st => { st with flight := st.flight ++
    [{ dst := d, val, mask, due := some (s.issue.cycle + lat), lock, sq := s.issue.sq, fpctl := false, flags
       replay := false, seq := s.issue.seq, tag := 0 }] })

/-- The state with a result in flight that waits for the answers with a tag, part of its value known (R132, R451). -/
def awaitRest (s : State) (d : RegName) (val mask : VWord) (tag : Nat) : State :=
  s.updMe (fun st => { st with flight := st.flight ++
    [{ dst := d, val, mask, due := none, lock := true, sq := s.issue.sq, fpctl := false, flags := 0
       replay := false, seq := s.issue.seq, tag }] })

/-- The state with a result in flight that waits for the answer with a tag (R132). -/
def await (s : State) (d : RegName) (mask : VWord) (tag : Nat) : State := s.awaitRest d 0 mask tag

/-- The state with the guards resolved of a strand's commands in the commit buffer, from the cycle on in which they are
visible (R273). -/
def resolveGuards (s : State) (sid : Nat) : State :=
  let st := s.strand sid
  let t := s.cycleOf sid
  if (s.core (coreOf sid)).commit.all (fun e => e.sid != sid || e.settled.isSome) then s
  else s.updCore (coreOf sid) (fun c => { c with commit := c.commit.map (fun e =>
    if e.sid == sid && e.settled.isNone && e.guardDue ≤ t
    then { e with settled := some ((st.settle e.guardDue).regs.rg e.guardIdx != e.guardInv) } else e) })

/-- A fresh tag. -/
def takeTag (s : State) : Nat × State := (s.nextTag, { s with nextTag := s.nextTag + 1 })

/-- The state with the results that wait for a tag given their value, visible in a cycle; a guard takes
the flag. -/
def answerTag (s : State) (sid tag : Nat) (val : VWord) (flag : Bool) (due : Nat) : State :=
  s.updStrand sid (fun st => { st with flight := st.flight.map (fun r =>
    if r.tag == tag && tag != 0 then
      { r with due := some due, val := match r.dst with
        | .g _ => BitVec.ofNat 2048 (b2n flag)
        | _ => val }
    else r) })

/-- The state with bytes added to a result that waits for several answers with a tag, visible in a cycle once the last has come
(R451). -/
def answerPart (s : State) (sid tag : Nat) (val : VWord) (last : Bool) (due : Nat) : State :=
  s.updStrand sid (fun st => { st with flight := st.flight.map (fun r =>
    if r.tag == tag && tag != 0 then
      { r with val := r.val ||| val, due := if last then some (max due (r.due.getD 0)) else none }
    else r) })

/-- A 64-bit result to a scalar register. -/
def putS (s : State) (d : BitVec 6) (v : Word) (lat : Nat) : State :=
  s.emit (.s d) (v.setWidth 2048) (BitVec.allOnes 2048) lat false 0

/-- An interlocked 64-bit result to a scalar register (R43). -/
def putSLock (s : State) (d : BitVec 6) (v : Word) (lat : Nat) : State :=
  s.emit (.s d) (v.setWidth 2048) (BitVec.allOnes 2048) lat true 0

/-- FPCTL as a result, once every earlier floating operation of the strand has set its flags (R355, R363). -/
def putFpctl (s : State) (d : BitVec 6) (lat : Nat) : State :=
  s.updMe (fun st =>
    let due := st.flight.foldl (fun a r => if r.flags = 0 then a else max a (r.due.getD 0)) (s.issue.cycle + lat)
    { st with flight := st.flight ++
      [{ dst := .s d, val := st.fpctl.setWidth 2048, mask := BitVec.allOnes 2048, due := some due, lock := true
         sq := s.issue.sq, fpctl := true, flags := 0, replay := false, seq := s.issue.seq, tag := 0 }] })

/-- A result to a guard. -/
def putG (s : State) (d : BitVec 4) (v : Bool) (lat : Nat) (lock : Bool) : State :=
  s.emit (.g d) (BitVec.ofNat 2048 (b2n v)) (BitVec.allOnes 2048) lat lock 0

end State

/-- The rounding mode of an operation (R67): its field, or `FPCTL.RM`. -/
def effMode (rnd : Rnd) (fpctl : Word) : Mode :=
  match rnd with
  | .dyn => modeOfCode (bitsN fpctl.toNat 0 3)
  | .rne => .rne | .rtz => .rtz | .rup => .rup | .rdn => .rdn | .rs => .rs

/-- FPCTL.FZ (R66). -/
def fzOf (fpctl : Word) : Bool := fpctl.getLsbD 3

/-! ### Fields of the status register (R275) -/

/-- STATUS.PRIV: 0 user, 1 kernel, 2 firmware. -/
def Strand.priv (st : Strand) : Nat := (st.status.extractLsb' 0 2).toNat
/-- STATUS.IE. -/
def Strand.ie (st : Strand) : Bool := st.status.getLsbD 4
/-- STATUS.INH. -/
def Strand.inh (st : Strand) : Bool := st.status.getLsbD 10

/-- A word with bits lo + len - 1 : lo replaced. -/
def setField (w : Word) (lo len v : Nat) : Word :=
  let m : Word := BitVec.ofNat 64 ((2 ^ len - 1) * 2 ^ lo)
  (w &&& ~~~m) ||| BitVec.ofNat 64 (v % 2 ^ len * 2 ^ lo)

/-- The place of a report among those that meet at a boundary (R278). -/
def Trap.rank (t : Trap) : Nat :=
  if t.code = 0x3F then 0 else if t.fq then 3 else if t.code = 0x13 then 2 else if t.code = 0x16 then 4 else 1

/-- The reports that a strand may take: a parked element's fault is not raised inside a handler (R281, log 26). -/
def Strand.takeable (st : Strand) : List Trap := st.reports.filter (fun r => !(r.fq && st.inh))

/-- The report that a strand takes first at a boundary (R278). -/
def Strand.report (st : Strand) : Option Trap :=
  (List.range 5).findSome? (fun n => st.takeable.find? (fun r => r.rank == n))

/-- A bit as a word, shifted to position i. -/
def bitWord (b : Bool) (i : Nat) : Word := BitVec.ofNat 64 (b2n b * 2 ^ i)

/-! ### Gated stores, marks and rollback (R53, R55, R119) -/

/-- The gated stores leave for the store queue in program order (R119), and with them what the commit buffer holds
of the bundles up to now (R273). -/
def Strand.release (st : Strand) : Strand :=
  { st with storeQ := st.storeQ ++ st.gated, gated := [], relSeq := st.seq }

/-- A replay entry with its distance from a cycle (R58). -/
def Result.distance (t : Nat) (r : Result) : Result := { r with due := r.due.map (· - t) }

/-- The strand with the mark of the bundle at `off`, which issues in cycle t (R53, R58): registers,
offset, and each replay entry not yet written with its remaining distance. -/
def Strand.saveMark (st : Strand) (off : BitVec 18) (t seq : Nat) : Strand :=
  { st.release with
    mark := { valid := true, regs := st.regs, off
              replay := (st.flight.filter (fun r => r.replay)).map (Result.distance t)
              popped := [], seq, cycle := t } }

/-- Does a queued load outlive a rollback to the mark of bundle `seq` (R55, R369): one of a vector register, or an element
pushed before the mark? -/
def PLoad.stays (seq : Nat) (l : PLoad) : Bool :=
  match l.dst with
  | .reg _ line => line.isSome
  | .elem _ => decide (l.seq < seq)

/-- The strand rolled back to its mark (R55, R58, R369): gated stores and in-flight results to marked
registers discarded, registers and loop levels restored, the data queue as it stood, and the replay
entries kept for the mark's next issue. -/
def Strand.rollback (st : Strand) : Strand :=
  let keep := st.mark.popped ++ st.dq
  { st with
    gated := []
    flight := st.flight.filter (fun r => (match r.dst with | .v _ => true | _ => false) && !r.replay)
    loadQ := st.loadQ.filter (PLoad.stays st.mark.seq)
    regs := st.mark.regs
    reinject := (st.depth, st.mark.off, st.mark.replay) :: st.reinject
    replay := []
    aq := st.aq.filter (fun e => e.seq < st.mark.seq)
    dq := keep.filter (fun d => d.seq < st.mark.seq)
    mark := { st.mark with popped := [] } }

/-- What a strand's bundle at an offset puts in flight as it issues (R58): the replay entries of a restored context, and those
that a rollback to a mark at this offset has left. -/
def Strand.toInject (st : Strand) (off : BitVec 18) : List Result :=
  st.replay ++ (match st.reinject with
    | x :: _ => if x.1 = st.depth && x.2.1 = off then x.2.2 else []
    | [] => [])

/-- The core without what a strand's rolled-back region left in it: parked elements (R369), and commands that are
to be discarded (R273). -/
def Core.rollback (c : Core) (sid seq : Nat) : Core :=
  { c with
    fq := c.fq.filter (fun e => !(e.sid == sid && e.seq ≥ seq))
    overflow := c.overflow.filter (fun e => !(e.sid == sid && e.seq ≥ seq))
    commit := c.commit.map (fun e =>
      if e.sid == sid && e.seq ≥ seq then { e with settled := some false } else e) }

/-! ### Traps (R279 to R281) -/

/-- The trap with nothing set in CAUSE but its code. -/
def Trap.of (code tval : Nat) : Trap := ⟨code, tval, false, false⟩

/-- The requests of a strand that a trap leaves to come back to (R23): an atomic that has left for its home, and a TLBINV whose
bundle's stores have acted, so that they take effect once. -/
def Strand.stashed (st : Strand) : List (Nat × Pend) :=
  match st.request with
  | some p => match p.req with
    | .atomic _ _ _ _ _ _ => if p.sent then (st.depth, p) :: st.stash else st.stash
    | .tlbinv _ _ _ => if p.stored then (st.depth, { p with sent := false, got := [], want := 0 }) :: st.stash else st.stash
    | _ => st.stash
  | none => st.stash

/-- The registers after a trap entry (R279): EPC, TVAL, CAUSE and STATUS saved and changed, and the pc at
the handler's offset. -/
def Strand.enter (st : Strand) (t : Trap) (epc : BitVec 18) : Strand :=
  let up := t.code = 0x3F || st.priv = 2
  let status := setField (setField (setField (setField (setField st.status 8 2 st.priv)
    5 1 (b2n st.ie)) 4 1 0) 10 1 1) 0 2 (if up then 2 else 1)
  { st with
    epc, halting := false, tval := BitVec.ofNat 64 t.tval
    cause := bitWord t.intr 63 ||| bitWord t.fq 62 ||| BitVec.ofNat 64 (t.code % 256)
    status
    pc := if up then st.tvec.extractLsb' 32 18 else st.tvec.extractLsb' 0 18
    depth := st.depth + 1
    holdFrom := none
    request := none
    stash := st.stashed
    stopAt := none
    nextIssue := max (st.lastIssue + 2) (st.lastIssue + 1 + st.lastStall) }

namespace State

/-- The failure value of a cause and its TVAL (R268). -/
def failValue (code tval : Nat) : Nat := 2 ^ 63 + code % 2 ^ 8 * 2 ^ 48 + tval % 2 ^ 48

/-- The state with a link queue of a core let go (R218, R280, R372): a tx queue whose strips have not all left is
closing, any other is unbound and its circuit released. -/
def letGoLq (s : State) (core q : Nat) : State :=
  let x := (s.core core).lq.getD q Lq.init
  let put (s : State) (y : Lq) : State := s.updCore core (fun c => { c with lq := c.lq.setIfInBounds q y })
  match x.role with
  | .unbound => s
  | .tx => if x.out.isEmpty then put { s with circuits := s.circuits.erase x.rcirc } Lq.init else put s { x with closing := true }
  | .rx => put { s with circuits := s.circuits.erase x.fcirc } Lq.init

/-- The state with a link queue of a core let go, but one of a saved context, which stays (R287). -/
def closeLq (s : State) (core q : Nat) : State :=
  if 8 ≤ ((s.core core).lq.getD q Lq.init).owner then s else s.letGoLq core q

/-- The state with the queues and the lent bank let go that a task's saved contexts hold on a core (R280). -/
def closeSaved (s : State) (task core : Nat) : State :=
  let s := (List.range 16).foldl (fun s q =>
    let x := (s.core core).lq.getD q Lq.init
    if x.role != .unbound && 8 ≤ x.owner && x.owner / 8 == task then s.letGoLq core q else s) s
  s.updCore core (fun c => { c with lent := c.lent.filter (fun x => x.1 < 8 || x.1 / 8 != task) })

/-- The cores of a launch packet, in increasing index (R15, R264). -/
def pktCores (pkt : Nat) : List Nat := (List.range 512).filter (bitN pkt)

/-- Every strand of some cores is off without a save, its elements and queues go, and a completion word of a core takes a
failure value (R274, R280). -/
def stopCores (s : State) (cores : List Nat) (v : Nat) : State :=
  cores.foldl (fun s c =>
    let s := (pathStrands c).foldl (fun s i => s.updStrand i (fun st =>
      { st with run := .off, wait := .none, gated := [], loadQ := [], aq := [], dq := [], request := none
                holdFrom := none, stopAt := none, halting := false })) s
    let s := s.updCore c (fun x => { x with
      started := 0
      fq := []
      overflow := none
      commit := x.commit.map (fun e => { e with settled := some false })
      cw := x.cw.map (fun w => { w with val := v }) })
    (List.range 16).foldl (fun s q => s.closeLq c q) s) s

/-- The state with a task to end with a failure value, its strands stopped, and what its saved contexts hold let go (R274,
R280). -/
def doomTask (s : State) (t : Task) (v : Nat) : State :=
  let s := s.stopCores ((pktCores t.pkt).filter (fun c => (s.core c).task == some t.id)) v
  let s := (pktCores t.pkt).foldl (fun s c => s.closeSaved t.id c) s
  { s with tasks := s.tasks.map (fun x => if x.id == t.id then { x with doomed := some v, pending := [] } else x) }

/-- The task or KSTART code that a core runs ends with the failure value and bit 61 set (R280). -/
def stopTask (s : State) (core : Nat) (tr : Trap) : State :=
  let v := failValue tr.code tr.tval + 2 ^ 61
  match s.tasks.find? (fun x => some x.id == (s.core core).task) with
  | some t => s.doomTask t v
  | none => s.stopCores [core] v

/-- A trap of a Chamois thread fails its routing job (R240). -/
def failRoute (s : State) (d : Nat) (t : Trap) : State :=
  s.updDie d (fun x => match x.route with
    | some r => { x with jobs := x.jobs.map (fun j =>
        if j.id == r.job then { j with failed := some (failValue t.code t.tval) } else j) }
    | none => x)

/-- Is a strand a member of a channel (R28)? -/
def member (s : State) (sid ch : Nat) : Bool :=
  let c := s.core (coreOf sid)
  let w := if ch < 16 then c.bmemb0 else c.bmemb1
  !isThread sid && w.getLsbD (ch % 16 * 4 + strandIn sid)

/-- The state with a strand's results that are visible by now written (R42). -/
def settleNow (s : State) (sid : Nat) : State :=
  (s.resolveGuards sid).updStrand sid (fun st => st.settle (s.cycleOf sid))

/-- A strand is in DEBUG (R20, R225): its visible results are written, and its gated stores leave. -/
def stopDebug (s : State) (sid : Nat) : State := (s.settleNow sid).updStrand sid (fun st =>
  if st.run = .off then st
  else { st.release with run := .debug, wait := .none, holdFrom := none, forceMark := true, stopAt := none })

/-- The strands that enter DEBUG with some of them, at most n channels further on (R289): the members of each channel with
`DBGCHAN.HALTALL` of which one of them is a member. -/
def debugPeers (s : State) (l : List Nat) : Nat → List Nat
  | 0 => l
  | n + 1 =>
    let chs := (List.range 32).filter (fun ch => s.haltall.getLsbD ch && l.any (fun i => s.member i ch))
    let more := (s.strands.map (·.1)).filter (fun i => !l.contains i && (s.strand i).run != .off && chs.any (s.member i))
    if more.isEmpty then l else debugPeers s (l ++ more) n

/-- A strand enters DEBUG, and with it every strand that `DBGCHAN.HALTALL` halts (R20, R225, R289). -/
def enterDebug (s : State) (sid : Nat) : State :=
  if s.haltall = 0 then s.stopDebug sid else (s.debugPeers [sid] 32).foldl stopDebug s

/-- A trap inside a handler (R280). -/
def doubleTrap (s : State) (sid : Nat) (t : Trap) : State :=
  if (s.strand sid).dbgEn then s.enterDebug sid else s.stopTask (coreOf sid) t

/-- The regions that a job on die 0 declares, and the physical ranges of its lock at an address. -/
def launchRanges (s : State) (job va : Nat) : List Range × List Range :=
  let d := s.die 0
  let locks := (d.locks.filter (fun l => l.2.job == job && l.2.va == va)).flatMap (fun l => l.2.phys)
  match d.jobs.find? (fun j => j.id == job) with
  | some j => (j.reads ++ j.writes ++ locks, j.writes)
  | none => (locks, [])

/-- The state after a trap on a core to a handler: a preload for the cores of the running task whose footprint or image
overlaps that task's write footprint is discarded, but for a breakpoint, a software trap or a service call (R274). -/
def dropPreloads (s : State) (core code : Nat) : State :=
  match s.tasks.find? (fun t => some t.id == (s.core core).task) with
  | none => s
  | some t =>
    if 0x30 ≤ code && code ≤ 0x32 then s
    else { s with tasks := s.tasks.map (fun u =>
      if u.preloaded && u.pkt % 2 ^ 512 == t.pkt % 2 ^ 512 &&
          overlap (s.launchRanges u.id (bitsN u.pkt 512 64)).1 (s.launchRanges t.id 0).2
      then { u with preloaded := false, redo := true } else u) }

/-- A strand takes a trap with the given return offset (R279); inside a handler it is a double trap
(R280), and in a Chamois thread it fails the job (R240). -/
def takeTrap (s : State) (sid : Nat) (t : Trap) (epc : BitVec 18) : State :=
  if isThread sid then
    (s.updStrand sid (fun st => { st with run := .off, request := none })).failRoute (dieOf sid) t
  else if (s.strand sid).inh && t.code != 0x3F then s.doubleTrap sid t
  else (s.updStrand sid (fun st =>
    let st := st.enter t epc
    { st with run := if st.run = .waiting then .ready else st.run, wait := .none })).dropPreloads (coreOf sid) t.code

/-- The strand in issue takes a Precise trap: the bundle has no effect and EPC is the bundle (R277).
Gated stores leave (R119). -/
def trapPrecise (s : State) (t : Trap) : State :=
  (s.updMe Strand.release).takeTrap s.cur t s.issue.off

/-- The strand in issue takes a Rollback trap: its region rolls back and EPC is the mark (R55). -/
def trapRollback (s : State) (t : Trap) : State :=
  let m := s.me.mark
  let s := s.updCore (coreOf s.cur) (fun c => c.rollback s.cur m.seq)
  (s.updMe Strand.rollback).takeTrap s.cur t (if m.valid then m.off else s.issue.off)

/-- The strand in issue takes an After trap: the bundle is complete and EPC is the bundle that would
issue next (R277). -/
def trapAfter (s : State) (t : Trap) : State :=
  (s.updMe Strand.release).takeTrap s.cur t s.me.pc

/-- A trap of an operation, by its kind (R277). -/
def raise (s : State) (k : TrapKind) (t : Trap) : State :=
  match k with
  | .precise => s.trapPrecise t
  | .rollback => s.trapRollback t
  | .after => s.trapAfter t
  | .async => s.updMe (fun st => { st with reports := st.reports ++ [t] })

/-- An After trap of an operation: taken at once by an operation alone, at the end of the bundle by an
operation of a bundle (R277, R278). The first that a bundle raises stands. -/
def afterBundle (s : State) (t : Trap) : State :=
  if s.issue.checked then
    (if s.issue.after.isSome then s else { s with issue := { s.issue with after := some t } })
  else s.trapAfter t

/-- The strand in issue enters WAIT with its bundle as the next one to issue (R478); its gated stores
leave (R119). -/
def enterWait (s : State) (w : Wait) : State :=
  s.updMe (fun st => { st.release with
    run := .waiting, wait := w, pc := s.issue.off, holdFrom := none, forceMark := true })

/-- The issue path is held: the bundle does not issue in this cycle (R23). -/
def hold (s : State) : State :=
  s.updMe (fun st => { st with
    pc := s.issue.off
    holdFrom := some (st.holdFrom.getD (s.cycleOf s.cur))
    nextIssue := s.cycleOf s.cur + 1 })

end State

/-- The stores of a strand that are not yet visible, oldest first (R100, R116). -/
def Strand.unseen (st : Strand) : List PStore := st.passed.map (·.2) ++ st.storeQ ++ st.gated

/-- The byte that the latest store of a strand not yet visible puts at a physical address, if any (R117). -/
def Strand.ownByte (st : Strand) (pa : Nat) : Option Byte :=
  st.unseen.foldl (fun b p =>
    if p.kind = .write && p.pa ≤ pa && pa < p.pa + p.size && bitN p.bmask (pa - p.pa)
    then some (BitVec.ofNat 8 (p.data / 256 ^ (pa - p.pa))) else b) none

/-- The strand with no store of a bundle after one: what a load of that bundle forwards from (R117). -/
def Strand.storesBefore (st : Strand) (seq : Nat) : Strand :=
  { st with passed := st.passed.filter (fun p => decide (p.2.seq ≤ seq))
            storeQ := st.storeQ.filter (fun p => decide (p.seq ≤ seq)), gated := st.gated.filter (fun p => decide (p.seq ≤ seq)) }

/-- A byte under the stores of a strand that are not yet visible (R117). -/
def Strand.overlay (st : Strand) (pa : Nat) (b : Byte) : Byte := (st.ownByte pa).getD b

/-- The strand's own bytes among those that the pieces of a remote load read (R117). -/
def Strand.ownPieces (st : Strand) : Req → SMap (List (Nat × Byte))
  | .load pieces => pieces.map (fun p =>
      (p.1, (List.range (2 ^ p.2.2.2)).filterMap (fun i => (st.ownByte (p.2.1 + i)).map (fun b => (i, b)))))
  | _ => []

/-- The strand with what is known of a request changed, be it the held bundle's or one that a trap has broken off (R23). -/
def Strand.onRequest (st : Strand) (f : Pend → Pend) : Strand :=
  { st with request := st.request.map f, stash := st.stash.map (fun p => (p.1, f p.2)) }

namespace State

/-- The state after an obstacle. -/
def obstruct (s : State) : Obstacle → State
  | .trap k t => s.raise k t
  | .wait w => s.enterWait w
  | .hold => s.hold
  | .ask r =>
    let past := match s.me.request with
      | some q => if q.off = s.issue.off then q.answers else []
      | none => []
    let stored := s.me.request.any (fun q => q.off == s.issue.off && q.stored)
    let p : Pend := { off := s.issue.off, req := r, sent := false, tag := 0, want := 1, got := [], fail := none
                      own := s.me.ownPieces r, past, stored }
    (s.updMe (fun st => { st with request := some p })).hold

/-- What a request that must be answered first still puts in the way of its bundle (R305): it has to leave, its
answers are not all in, or it failed. -/
def askObs (r : Req) (s : State) : Option Obstacle :=
  match s.me.request with
  | none => some (.ask r)
  | some p =>
    if p.off != s.issue.off then some (.ask r)
    else if (p.answerTo r).isSome then none
    else match p.fail with
      | some t => if p.req.same r then some (.trap .rollback t) else some .hold
      | none => if p.got.length < p.want then some .hold else some (.ask r)

/-- Has the bundle in issue made a request already? -/
def asked (s : State) (r : Req) : Bool :=
  s.me.request.any (fun p => p.off == s.issue.off && (p.req.same r || p.past.any (fun x => x.req.same r)))

/-- n bytes of answer number i to a request of the bundle in issue, under the strand's own stores (R117). -/
def answered (s : State) (r : Req) (i n : Nat) : Nat :=
  match s.me.request.bind (fun p => p.answerTo r) with
  | some x =>
    let own : List (Nat × Byte) := SMap.getD x.own i []
    let v := SMap.getD x.got i 0
    (List.range n).foldl (fun a k =>
      a + (match own.find? (fun x => x.1 == k) with | some b => b.2.toNat | none => bitsN v (8 * k) 8) * 256 ^ k) 0
  | none => 0

/-- The state with the request of an operation alone done with; a bundle's goes as the bundle ends. -/
def endRequest (s : State) : State := if s.issue.checked then s else s.updMe (fun st => { st with request := none })

/-- An operation behind its obstacle: in a bundle the obstacles of every operation have been decided
already, and the operation acts (R305); probed, it tells its own; alone it meets its own. -/
def gate (s : State) (o : State → Option Obstacle) (eff : State → State) : State :=
  if s.issue.checked then eff s
  else if s.issue.probe then { s with issue := { s.issue with found := o s } }
  else match o s with
    | some x => s.obstruct x
    | none => eff s

/-- ERET (R281, R362): the saved privilege and interrupt enable return, the handler is left, the pc is
EPC, and the bundle there carries RMARK. STATUS and EPC are read as they stood before the bundle
(R356). A remote atomic that the bundle at EPC had sent is waited for again (R23, log 27). -/
def returnFromTrap (s : State) : State :=
  let old := s.issue.status
  let epc := s.issue.epc
  s.updMe (fun st =>
    let status := setField (setField (setField st.status 0 2 (bitsN old.toNat 8 2))
      4 1 (bitsN old.toNat 5 1)) 10 1 0
    let parked := (s.myCore.fq.filter (fun e => e.sid == s.cur)).head?
    let others := st.reports.filter (fun r => !r.fq)
    let reports := match parked with
      | some e => others ++ [⟨e.cause, if e.cause = 0x15 then e.index else e.va, true, false⟩]
      | none => others
    let back := st.stash.find? (fun p => p.1 == st.depth - 1 && p.2.off == epc)
    { st with status, pc := epc, forceMark := true, depth := st.depth - 1
              request := back.map (·.2), stash := st.stash.filter (fun p => decide (p.1 < st.depth - 1)), reports })

end State

end Sys2Proof.Machine
end

