-- ==== Sys2Proof/Machine/Operands.lean ====
section
/-! DEFINITION. Operand forms: the second operand of a scalar operation (R308, R331), scalar and address
registers by class (R378, R406), address operands (R312), and the lanes of a vector register under a mask
(R440, R441). -/

namespace Sys2Proof.Machine

/-- The 64-bit value of a second scalar operand (R308, R331). -/
def Regs.srcB (r : Regs) : SrcB → Word
  | .reg i => r.rs i
  | .imm v => v.signExtend 64

/-- `Src(t, x)` of a register (R331). -/
def Regs.src (r : Regs) (t : Ty) (i : BitVec 6) : Int := intOf t (r.rs i).toNat

/-- `Opnd(t)` (R331). -/
def Regs.opnd (r : Regs) (t : Ty) (b : SrcB) : Int := intOf t (r.srcB b).toNat

/-- The w-bit pattern of a register (R331). -/
def Regs.pat (r : Regs) (t : Ty) (i : BitVec 6) : Nat := (r.rs i).toNat % 2 ^ t.width

/-- The w-bit pattern of a second operand (R331). -/
def Regs.patB (r : Regs) (t : Ty) (b : SrcB) : Nat := (r.srcB b).toNat % 2 ^ t.width

/-- A scalar or address register (R378). -/
def Regs.sa (r : Regs) : SaReg → Word
  | .s i => r.rs i
  | .a i => r.ra i

/-- The register name of a scalar or address register. -/
def saName : SaReg → RegName
  | .s i => .s i
  | .a i => .a i

/-- The index of LEA, shifted (R378). -/
def Regs.leaIdx (r : Regs) : LeaIdx → Word
  | .reg i sh => r.rs i <<< sh.toNat
  | .imm v => v.signExtend 64

/-- The source of MOV (R406). -/
def Regs.movSrc (r : Regs) : MovSrc → Word
  | .s i => r.rs i
  | .a i => r.ra i
  | .m i => r.rm i
  | .k i => (r.rk i).setWidth 64
  | .imm v => v.signExtend 64

/-- The register name of MOV's destination (R406). -/
def movName : MovDst → RegName
  | .s i => .s i
  | .a i => .a i
  | .m i => .m i

/-- The address a[AB] + SignExt64(IMM) of an L-slot operand (R312). -/
def Regs.addr (r : Regs) (ea : Addr) : Nat := (r.ra ea.ab + ea.imm.signExtend 64).toNat

/-- The address of an X-slot operand (R316). -/
def Regs.xaddr (r : Regs) (ab : BitVec 4) (imm : BitVec 14) : Nat :=
  (r.ra ab + imm.signExtend 64).toNat

namespace State

/-- `Put(t, d, v)` with a w-bit pattern and a latency (R331). -/
def put (s : State) (t : Ty) (d : BitVec 6) (v : Nat) (lat : Nat) : State :=
  s.putS d (extendTy t v) lat

/-- A 64-bit result to a register of any class. -/
def putReg (s : State) (d : RegName) (v : Word) (lat : Nat) : State :=
  s.emit d (v.setWidth 2048) (BitVec.allOnes 2048) lat false 0

end State

/-! ### Lanes (R440, R441) -/

/-- Lanes of a lane width in a vector register. -/
def laneCount (w : Nat) : Nat := 2048 / w

/-- Lane i of width w. -/
def laneAt (w : Nat) (v : VWord) (i : Nat) : Nat := bitsN v.toNat (w * i) w

/-- Lane patterns put together, lane 0 lowest. -/
def packLanes (w : Nat) : List Nat → Nat
  | [] => 0
  | x :: rest => x % 2 ^ w + 2 ^ w * packLanes w rest

/-- Is lane i of width w enabled (R441)? -/
def Regs.laneOn (r : Regs) (mk : MaskSel) (w i : Nat) : Bool :=
  !mk.men || (r.rvm mk.vm).getLsbD (i * w / 8)

/-- Which of the first n lanes are enabled. -/
def Regs.lanesOn (r : Regs) (mk : MaskSel) (w n : Nat) : List Bool :=
  (List.range n).map (r.laneOn mk w)

/-- The bit mask of enabled lanes. -/
def maskBits (w : Nat) (on : List Bool) : VWord :=
  BitVec.ofNat 2048 (packLanes w (on.map (fun b => if b then 2 ^ w - 1 else 0)))

/-- Lane i of the second source: of v[VB], or the scalar broadcast (R441). -/
def Strand.vsrc (st : Strand) (w : Nat) (b : VSrc) (i : Nat) : Nat :=
  match b with
  | .vec r => laneAt w (st.rv r) i
  | .sca r => (st.regs.rs r).toNat % 2 ^ w

/-- The vector registers a second source names. -/
def srcRegs : VSrc → List (BitVec 6)
  | .vec r => [r]
  | .sca _ => []

/-- The byte-enable mask of VLD and VST: bit j for byte j (R451). -/
def Regs.byteMask (r : Regs) (mk : MaskSel) : Nat :=
  if mk.men then (r.rvm mk.vm).toNat else 2 ^ 256 - 1

/-- A byte mask as a bit mask: each bit eight times. -/
def spreadMask : Nat → Nat → Nat
  | 0, _ => 0
  | n + 1, m => (if m % 2 = 1 then 255 else 0) + 256 * spreadMask n (m / 2)

/-- A bank of 16 vector registers as 4,096 bytes, register 16b lowest (R219). -/
def Strand.bankBits (st : Strand) (b : Nat) : Nat :=
  packLanes 2048 ((List.range 16).map (fun i => (st.v.getD (16 * b + i) 0).toNat))

/-- The bank a vector register belongs to (R159). -/
def bankOf (r : BitVec 6) : Nat := r.toNat / 16

/-- The trap of an operand in a lent bank (R443): the first named register of the strand's lent bank. -/
def lentUse (rs : List (BitVec 6)) (s : State) : Option Obstacle :=
  match s.myCore.lent with
  | some (st, b) =>
    if st = strandIn s.cur && rs.any (fun r => bankOf r == b)
    then some (.trap .precise (Trap.of 0x21 b)) else none
  | none => none

end Sys2Proof.Machine
end

