-- ==== Sys2Proof/Machine/Flags.lean ====
section
/-! DEFINITION. Flags and modes: the effective rounding mode and the draws of the stochastic generator
(R67, R71, R72), floating results with the flags they set (R66, R363), vector results under a mask
(R441, R442), and STATUS.BRCOLL (R48). -/

namespace Sys2Proof.Machine

/-- One draw of a generator: r is bits 31:8 after the step (R69, R71). -/
def drawRng (x : BitVec 32) : Nat × BitVec 32 :=
  let y := rngStep x
  (y.toNat / 256, y)

/-- One draw for each enabled element in order (R72); an element not enabled draws nothing. -/
def drawList (x : BitVec 32) : List Bool → List Nat × BitVec 32
  | [] => ([], x)
  | b :: rest =>
    let d := if b then drawRng x else (0, x)
    let r := drawList d.2 rest
    (d.1 :: r.1, r.2)

namespace State

/-- The effective rounding mode of an operation (R67). -/
def mode (s : State) (rnd : Rnd) : Mode := effMode rnd s.me.fpctl

/-- FPCTL.FZ of the strand in issue (R66). -/
def fz (s : State) : Bool := fzOf s.me.fpctl

/-- The draws of an operation for a list of elements: the strand's generator steps once for each enabled
element when the mode is RS (R72). -/
def draws (s : State) (m : Mode) (on : List Bool) : List Nat × State :=
  if m = .rs then
    let d := drawList s.me.rng on
    (d.1, s.updMe (fun st => { st with rng := d.2 }))
  else (on.map (fun _ => 0), s)

/-- One draw. -/
def draw1 (s : State) (m : Mode) : Nat × State :=
  let d := s.draws m [true]
  (d.1.headD 0, d.2)

/-- A floating result to a scalar register, with its flags (R363). -/
def putF (s : State) (d : BitVec 6) (v : Nat × Nat) (lat : Nat) : State :=
  s.emit (.s d) (BitVec.ofNat 2048 v.1) (BitVec.allOnes 2048) lat false v.2

/-- A result to a vector register: lanes of width w, written where enabled (R441). -/
def putV (s : State) (d : BitVec 6) (w : Nat) (on : List Bool) (lanes : List Nat) (lat : Nat)
    (flags : Nat) : State :=
  s.emit (.v d) (BitVec.ofNat 2048 (packLanes w lanes)) (maskBits w on) lat false flags

/-- An element-wise operation without rounding: lane i of the result is f i (R444). -/
def vecInt (s : State) (t : Ty) (vd : BitVec 6) (mk : MaskSel) (lat : Nat) (f : Nat → Nat) : State :=
  let n := laneCount t.width
  s.putV vd t.width (s.me.regs.lanesOn mk t.width n) ((List.range n).map f) lat 0

/-- A floating operation by lanes: lane i of the result is f with mode, flush bit and draw, for each
enabled lane; its flags are those of every enabled lane (R442). -/
def vecF (s : State) (t : Ty) (rnd : Rnd) (vd : BitVec 6) (mk : MaskSel) (lat : Nat)
    (f : Mode → Bool → Nat → Nat → Nat × Nat) : State :=
  let n := laneCount t.width
  let on := s.me.regs.lanesOn mk t.width n
  let m := s.mode rnd
  let fz := s.fz
  let d := s.draws m on
  let rs := (List.range n).map (fun i =>
    if on.getD i false then f m fz (d.1.getD i 0) i else (0, 0))
  d.2.putV vd t.width on (rs.map (·.1)) lat (rs.foldl (fun a x => a ||| x.2) 0)

/-- A branch collision sets STATUS.BRCOLL (R48). -/
def setBrcoll (s : State) : State :=
  s.updMe (fun st => { st with status := setField st.status 11 1 1 })

end State

end Sys2Proof.Machine
end

