-- ==== Sys2Proof/Machine/Context.lean ====
section
/-! DEFINITION. The context of a strand as the 47,168 bytes of the save area (R286), written and read
back; pre-emption, restore and the debugger's window use it (R287, R288). -/

namespace Sys2Proof.Machine

/-- A field of an image given as a number: n bytes from a byte offset. -/
def fieldN (img off n : Nat) : Nat := bitsN img (8 * off) (8 * n)

/-- An image from its fields: byte offset, bytes, value. -/
def packImage (l : List (Nat × Nat × Nat)) : Nat :=
  l.foldl (fun a f => a + f.2.2 % 256 ^ f.2.1 * 256 ^ f.1) 0

/-- Fields of equal size, one after another from an offset. -/
def fieldRow (off n : Nat) (l : List Nat) : List (Nat × Nat × Nat) :=
  l.zipIdx.map (fun p => (off + n * p.2, n, p.1))

/-- Bytes of the save area (R286). -/
def saveBytes : Nat := 47168

/-- The class of a register name (R45). -/
def regClass : RegName → Nat × Nat
  | .s r => (0, r.toNat) | .a r => (1, r.toNat) | .g r => (2, r.toNat) | .vm r => (3, r.toNat)
  | .v r => (4, r.toNat) | .m r => (5, r.toNat) | .x r => (6, r.toNat) | .k r => (7, r.toNat)

/-- The register name of a class and number (R45). -/
def regOfClass (c n : Nat) : RegName :=
  match c with
  | 0 => .s (BitVec.ofNat 6 n) | 1 => .a (BitVec.ofNat 4 n) | 2 => .g (BitVec.ofNat 4 n)
  | 3 => .vm (BitVec.ofNat 3 n) | 4 => .v (BitVec.ofNat 6 n) | 5 => .m (BitVec.ofNat 3 n)
  | 6 => .x (BitVec.ofNat 4 n) | _ => .k (BitVec.ofNat 3 n)

/-- The value of a register of any class, as 2,048 bits. -/
def Strand.regVal (st : Strand) : RegName → VWord
  | .s r => (st.regs.rs r).setWidth 2048
  | .a r => (st.regs.ra r).setWidth 2048
  | .g r => BitVec.ofNat 2048 (b2n (st.regs.g.getLsbD r.toNat))
  | .vm r => (st.regs.rvm r).setWidth 2048
  | .v r => st.rv r
  | .m r => (st.regs.rm r).setWidth 2048
  | .x r => (st.regs.rx r).setWidth 2048
  | .k r => (st.regs.rk r).setWidth 2048

/-- The queues a strand owns on its core, as bits (R286). -/
def Core.ownedBy (c : Core) (strand : Nat) : Nat :=
  (List.range 16).foldl (fun a q =>
    let x := c.lq.getD q Lq.init
    a + (if x.role != .unbound && x.owner == strand then 2 ^ q else 0)) 0

/-- Calls of a strand queued or running (R149). -/
def Core.own (c : Core) (sid : Nat) : Nat := (c.calls.filter (fun k => k.sid == sid)).length

/-- Is the context pinned (R287)? -/
def State.pinned (s : State) (sid : Nat) : Bool :=
  let c := s.core (coreOf sid)
  c.ownedBy (strandIn sid) != 0 || c.own sid != 0 ||
    (match c.lent with | some (st, _) => st == strandIn sid | none => false)

/-- The loop levels as fields of 96 bytes each (R286). -/
def loopFields (r : Regs) : List (Nat × Nat × Nat) :=
  (List.range 6).flatMap (fun l =>
    let x := r.loop l
    let o := 1152 + 96 * l
    [(o, 4, x.cnt.toNat), (o + 4, 4, x.beg.toNat), (o + 8, 4, x.fin.toNat), (o + 12, 4, b2n x.active)]
      ++ fieldRow (o + 16) 4 (x.strides.toList.map BitVec.toNat))

/-- The elements parked for a strand, oldest first (R282). -/
def Core.parked (c : Core) (sid : Nat) : List Elem := c.fq.filter (fun e => e.sid == sid)

/-- A parked element as a field (R286): its data-queue slot is the place in the saved queue, or 0xFFFF
for a scatter. -/
def elemField (st : Strand) (e : Elem) (i : Nat) : List (Nat × Nat × Nat) :=
  let o := 5184 + 32 * i
  let slot := if e.scatter then 0xFFFF else st.dq.findIdx (fun d => d.id == e.slot)
  [(o, 8, e.va), (o + 8, 8, e.data), (o + 16, 2, slot),
   (o + 18, 1, Nat.log2 e.ty.bytes + 4 * b2n e.scatter), (o + 19, 1, e.cause), (o + 24, 8, e.index)]

/-- A replay entry as a field (R286); its distance is in `due`. -/
def replayField (r : Result) (i : Nat) : List (Nat × Nat × Nat) :=
  let o := 13376 + 272 * i
  let c := regClass r.dst
  [(o, 1, c.2), (o + 1, 1, c.1), (o + 2, 1, r.due.getD 0), (o + 3, 1, b2n r.sq + 2),
   (o + 16, 256, r.val.toNat)]

/-- The fields of a strand's context (R286). -/
def State.contextFields (s : State) (sid : Nat) : List (Nat × Nat × Nat) :=
  let st := s.strand sid
  let c := s.core (coreOf sid)
  let r := st.regs
  let lentBank := match c.lent with
    | some (o, b) => if o = strandIn sid then some b else none
    | none => none
  [(0, 4, 1), (4, 2, coreOf sid), (6, 1, b2n (s.pinned sid) + 2 * b2n lentBank.isSome),
   (7, 1, lentBank.getD 0), (8, 2, c.ownedBy (strandIn sid)), (10, 1, c.own sid),
   (11, 1, strandIn sid), (12, 1, st.dq.length), (14, 2, (c.parked sid).length)]
  ++ fieldRow 16 8 [st.pc.toNat, st.status.toNat, st.cause.toNat, st.epc.toNat, st.tval.toNat,
      st.tvec.toNat, st.scratch.toNat, st.fpctl.toNat, st.rng.toNat, st.sbcheck.toNat,
      st.ptroot.toNat, st.banksel.toNat]
  ++ [(112, 2, r.g.toNat / 2 * 2 + 1), (116, 1, st.ipend.toNat), (117, 1, st.ienable.toNat),
      (120, 8, st.tcmp.toNat)]
  ++ fieldRow 128 8 ((List.range 64).map (fun i => (r.rs (BitVec.ofNat 6 i)).toNat))
  ++ fieldRow 640 8 (r.a.toList.map BitVec.toNat)
  ++ fieldRow 768 8 (r.k.toList.map BitVec.toNat)
  ++ [(816, 1, st.lnqsel.toNat), (818, 2, st.sebsel.toNat), (820, 1, st.lksel.toNat),
      (822, 2, st.stsel.toNat), (824, 2, st.frtsel.toNat)]
  ++ fieldRow 832 8 (r.m.toList.map BitVec.toNat)
  ++ fieldRow 896 32 (r.vm.toList.map BitVec.toNat)
  ++ loopFields r
  ++ fieldRow 1728 4 ((List.range 32).map (fun ch =>
      (st.tags.getD ch 0).toNat + 65536 * b2n (st.pend.getLsbD ch)))
  ++ fieldRow 1856 8 (st.card.toList.map BitVec.toNat)
  ++ fieldRow 2112 128 (r.x.toList.map BitVec.toNat)
  ++ fieldRow 4160 16 (st.dq.map (fun d =>
      (d.data.getD 0).toNat + 2 ^ 64 * (b2n d.data.isSome + 2 * b2n d.held)))
  ++ ((c.parked sid).zipIdx.flatMap (fun p => elemField st p.1 p.2))
  ++ (st.replay.zipIdx.flatMap (fun p => replayField p.1 p.2))
  ++ fieldRow 30784 256 (st.v.toList.map BitVec.toNat)

/-- The context of a strand as a number of 47,168 bytes (R286). -/
def State.contextImage (s : State) (sid : Nat) : Nat := packImage (s.contextFields sid)

/-- n words of w bits from an offset of an image. -/
def wordRow (img off n : Nat) (w : Nat) (k : Nat) : Vector (BitVec w) k :=
  Vector.ofFn (fun i => BitVec.ofNat w (fieldN img (off + n * i.val) n))

/-- A loop level of an image. -/
def loopOf (img l : Nat) : Loop :=
  let o := 1152 + 96 * l
  { cnt := BitVec.ofNat 32 (fieldN img o 4), beg := BitVec.ofNat 32 (fieldN img (o + 4) 4)
    fin := BitVec.ofNat 32 (fieldN img (o + 8) 4), active := bitN (fieldN img (o + 12) 4) 0
    strides := wordRow img (o + 16) 4 32 16 }

/-- The integer type of a size in the save area, which keeps only the size (R286). -/
def sizeTy : Nat → Ty
  | 0 => .n8 | 1 => .n16 | 2 => .n32 | _ => .n64

/-- A parked element of an image, whose data-queue slots are numbered from `base` on. -/
def elemOf (img sid base i : Nat) : Elem :=
  let o := 5184 + 32 * i
  { sid, va := fieldN img o 8, index := fieldN img (o + 24) 8, ty := sizeTy (fieldN img (o + 18) 1 % 4)
    scatter := bitN (fieldN img (o + 18) 1) 2, data := fieldN img (o + 8) 8
    slot := base + fieldN img (o + 16) 2, seq := 0, cause := fieldN img (o + 19) 1, ready := 0, done := true }

/-- The parked elements of an image (R286). -/
def parkedOf (img sid base : Nat) : List Elem := (List.range (min 256 (fieldN img 14 2))).map (elemOf img sid base)

/-- A replay entry of an image, if valid. -/
def replayOf (img i : Nat) : Option Result :=
  let o := 13376 + 272 * i
  let f := fieldN img (o + 3) 1
  if bitN f 1 then
    some { dst := regOfClass (fieldN img (o + 1) 1) (fieldN img o 1)
           val := BitVec.ofNat 2048 (fieldN img (o + 16) 256), mask := BitVec.allOnes 2048
           due := some (fieldN img (o + 2) 1), lock := false, sq := bitN f 0, fpctl := false, flags := 0
           replay := true, seq := 0, tag := 0 }
  else none

/-- STATUS from an image (R275): the fields it has, with PRIV and PPRIV as they were for the value 3, which is never held
(log 19). -/
def statusOf (old : Word) (img : Nat) : Word :=
  let v := BitVec.ofNat 64 img &&& 0xF33#64
  let v := if img % 4 = 3 then setField v 0 2 (bitsN old.toNat 0 2) else v
  if bitsN img 8 2 = 3 then setField v 8 2 (bitsN old.toNat 8 2) else v

/-- FPCTL from an image (R66): the fields it has, and RM as it was for the values 5 to 7. -/
def fpctlOf (old : Word) (img : Nat) : Word :=
  let v := BitVec.ofNat 64 img &&& 0x1F0F#64
  if 5 ≤ img % 8 then setField v 0 3 old.toNat else v

/-- The strand with its context taken from an image; its state, its debug enable and its bundle count stay
(R286, R288, R319). Reserved bits stay 0 (R4), and a generator given 0 holds 1 (R71). -/
def Strand.ofImage (st : Strand) (img : Nat) : Strand :=
  let w (o m : Nat) : Word := BitVec.ofNat 64 (fieldN img o 8 &&& m)
  let all := 2 ^ 64 - 1
  { st with
    pc := BitVec.ofNat 18 (fieldN img 16 8), status := statusOf st.status (fieldN img 24 8)
    cause := w 32 0xC0000000000000FF
    epc := BitVec.ofNat 18 (fieldN img 40 8), tval := w 48 all, tvec := w 56 0x3FFFF0003FFFF, scratch := w 64 all
    fpctl := fpctlOf st.fpctl (fieldN img 72 8), rng := if fieldN img 80 4 = 0 then 1 else BitVec.ofNat 32 (fieldN img 80 4), sbcheck := w 88 3
    ptroot := w 96 0xFFFFFFFFFFFF8001
    banksel := BitVec.ofNat 6 (fieldN img 104 8), ipend := BitVec.ofNat 5 (fieldN img 116 1)
    ienable := BitVec.ofNat 5 (fieldN img 117 1), tcmp := w 120 all
    lnqsel := BitVec.ofNat 6 (fieldN img 816 1), sebsel := BitVec.ofNat 10 (fieldN img 818 2)
    lksel := BitVec.ofNat 4 (fieldN img 820 1), stsel := BitVec.ofNat 9 (fieldN img 822 2)
    frtsel := BitVec.ofNat 12 (fieldN img 824 2)
    regs := { s := wordRow img 128 8 64 64, a := wordRow img 640 8 64 16
              g := BitVec.ofNat 16 (fieldN img 112 2), vm := wordRow img 896 32 256 8
              m := wordRow img 832 8 64 8, x := wordRow img 2112 128 1024 16
              k := wordRow img 768 8 32 6, loops := Vector.ofFn (fun i => loopOf img i.val) }
    v := wordRow img 30784 256 2048 64
    tags := Vector.ofFn (fun i => BitVec.ofNat 16 (fieldN img (1728 + 4 * i.val) 2))
    pend := BitVec.ofNat 32 ((List.range 32).foldl (fun a ch =>
      a + b2n (bitN (fieldN img (1728 + 4 * ch) 4) 16) * 2 ^ ch) 0)
    card := wordRow img 1856 8 64 32
    dq := (List.range (min 64 (fieldN img 12 1))).map (fun i =>
      let f := fieldN img (4168 + 16 * i) 1
      { id := st.nextSlot + i, data := if bitN f 0 then some (w (4160 + 16 * i) all) else none, held := bitN f 1, seq := 0 })
    nextSlot := st.nextSlot + min 64 (fieldN img 12 1)
    replay := (List.range 64).filterMap (replayOf img) }

/-- The state with the context of a strand as the debugger has written it (R288): its parked elements are in the core's fault
queue, as far as that has room, and its elements in flight keep their places in the data queue. `STATUS.PRIV` stays, as only a trap
entry and ERET change it (R275), and a HALT that waited no more does where another PC is written. -/
def State.loadContext (s : State) (sid img : Nat) : State :=
  let st := s.strand sid
  let slot (n : Nat) : Nat := st.nextSlot + st.dq.findIdx (fun d => d.id == n)
  let move (e : Elem) : Elem := if e.sid = sid then { e with slot := slot e.slot } else e
  let s := s.updStrand sid (fun st => { st.ofImage img with
    status := setField (st.ofImage img).status 0 2 (bitsN st.status.toNat 0 2)
    halting := st.halting && (st.ofImage img).pc == st.pc
    aq := st.aq.map move
    loadQ := st.loadQ.map (fun l => match l.dst with | .elem n => { l with dst := .elem (slot n) } | _ => l) })
  s.updCore (coreOf sid) (fun c =>
    let others := c.fq.filter (fun e => e.sid != sid)
    { c with fq := others ++ (parkedOf img sid st.nextSlot).take (256 - others.length), overflow := c.overflow.map move })

end Sys2Proof.Machine
end

