-- ==== Sys2Proof/Machine/Images.lean ====
section
/-! DEFINITION. What the control registers read as (R319 and the rules that define each), and what the
device reads as over MMIO (R292, R479, R480). -/

namespace Sys2Proof.Machine

/-- A word from fields: low bit and value. -/
def fields (l : List (Nat × Nat)) : Nat := l.foldl (fun a f => a + f.2 * 2 ^ f.1) 0

/-- The clock of a die in eighths (R300). -/
def Die.clk (d : Die) : Nat := max 4 (8 - min 4 d.thstep.toNat - d.dstep)

/-- PWRCFG (R161). -/
def Die.pwrcfg (d : Die) : Nat := fields [(16, d.hold.toNat), (0, d.tokens.toNat)]
/-- PWRSTAT (R300). -/
def Die.pwrstat (d : Die) : Nat :=
  fields [(32, d.droops), (12, d.thstep.toNat), (8, d.dstep), (0, d.clk)]
/-- The table period of a router (R195). -/
def Die.period (d : Die) : Nat := d.slot / 256 % 65536
/-- STCTL (R198). -/
def Die.stctl (d : Die) : Nat :=
  fields [(48, d.swapat.toNat), (32, d.period), (2, b2n d.late), (1, b2n d.armed), (0, b2n d.act)]
/-- FABSTAT of a port (R200). -/
def Die.fabstat (d : Die) (port : Nat) : Nat :=
  let l := d.links.getD port Link.init
  fields [(48, d.bad), (32, d.drop), (16, d.covf), (0, if l.trained then l.ldly % 4096 else 0)]
/-- A slot-table entry (R196). -/
def Die.stent (d : Die) (tab : Bool) (e : Nat) : Nat :=
  ((if tab then d.tabB else d.tabA).getD e 0).toNat
/-- An FRT entry (R199). -/
def Die.frtent (d : Die) (i : Nat) : Nat := (d.frt.getD i 0).toNat
/-- The entry that routes a cell in the current slot: a write applies from the next slot on (R201). -/
def Die.routeEnt (d : Die) (i : Nat) : Nat := (d.frtOld.getD i (d.frt.getD i 0)).toNat
/-- LKSEC (R211). -/
def Link.lksec (l : Link) : Nat :=
  fields [(56, l.authlim.toNat), (48, min 255 l.authcnt), (6, b2n l.txen), (5, b2n l.rxen),
    (4, b2n l.txslot), (3, b2n l.rxslot), (2, b2n l.oldfree), (1, b2n l.warn), (0, b2n l.authDown)]
/-- The number of a bank mode (R103). -/
def BankMode.num : BankMode → Nat
  | .cache => 0 | .scratchpad => 1 | .fifo => 2
/-- BANKSTAT (R104). -/
def Bank.bankstat (b : Bank) : Nat :=
  fields [(19, if b.mode == .fifo && (!b.busy || b.target == .fifo) then b.fifo.length else 0), (8, b2n b.nrdy), (7, b2n b.eng),
    (6, b2n b.ovf), (5, b2n b.rej), (4, b2n b.busy), (0, (if b.busy then b.target else b.mode).num)]
/-- LQCFG (R217). -/
def Core.lqcfg (c : Core) : Nat :=
  fields [(32, c.rxbase.toNat), (31, b2n c.ubind),
    (0, (List.range 16).foldl (fun a q =>
      a + if (c.lq.getD q Lq.init).role != .unbound then 2 ^ q else 0) 0)]
/-- SELQUANT (R24). -/
def Core.selquant (c : Core) : Nat := fields [(14, c.cur.toNat), (13, b2n c.yhen), (0, 256)]
/-- LNQCTL (R263). -/
def LaunchQueue.ctl (q : LaunchQueue) : Nat :=
  fields [(56, q.cause.toNat), (40, q.packets.length), (9, q.prio.toNat), (8, b2n q.err),
    (3, b2n q.kern), (2, b2n q.dev), (1, b2n q.stop), (0, b2n q.en)]

/-- Are all 32 cells of strip n in a queue's buffers (R220)? -/
def Lq.complete (q : Lq) (n : Nat) : Bool := q.got.find n == some (2 ^ 32 - 1)

/-- Strips of a tx queue that may start now, or complete strips of an rx queue (R385). -/
def Lq.avail (q : Lq) : Nat :=
  match q.role with
  | .tx => 8 - (q.count + 65536 - q.f) % 65536
  | .rx => (q.got.filter (fun p => q.complete p.1)).length
  | .unbound => 0

namespace State

/-- L2CTL (R99). -/
def l2ctl (s : State) : Nat :=
  fields [(16, s.lease.toNat), (2, b2n s.pass), (1, b2n s.l2busy), (0, b2n s.l2mode)]
/-- FABCFG (R205). -/
def fabcfg (s : State) : Nat :=
  fields [(16, s.ackto.toNat), (8, s.rtxlim.toNat), (0, s.rnrlim.toNat)]
/-- DBGCHAN (R289). -/
def dbgchan (s : State) : Nat := fields [(32, s.haltall.toNat), (0, s.frz.toNat)]
/-- BIASCTL (R110). -/
def biasctl (s : State) : Nat :=
  fields [(31, b2n s.biasBusy), (30, b2n s.biasAck), (29, b2n s.biasTgt), (0, s.biasRegion.toNat)]
/-- BOOTSTAT (R297). -/
def bootstat (s : State) : Nat :=
  fields [(56, s.boot.reason.toNat), (48, s.boot.fails), (4, b2n s.boot.min), (0, s.boot.stage.toNat)]
/-- A READY word (R297, R298). -/
def readyWord (s : State) (w : Nat) : Nat :=
  let v := (s.ready.getD w 0).toNat
  if s.boot.min then (if w = 9 then v / 2 ^ 52 % 4 * 2 ^ 52 else 0) else v
/-- An entry of the circuit table (R216). -/
def circuitWord (s : State) (c : Nat) : Nat :=
  match s.circuits.find c with
  | some (core, lq, rev, peer) =>
    fields [(31, 1), (30, b2n rev), (16, core), (12, lq), (0, peer)]
  | none => 0
/-- SECNT of the selected unit (R291). -/
def secntOf (s : State) (unit : Nat) : Nat :=
  fields [(48, unit), (0, s.secnt.getD unit 0 % 2 ^ 32)]

/-- IPEND of a strand, TIMER being 1 while CYCLE has reached TCMP (R285). -/
def ipendOf (s : State) (sid : Nat) : BitVec 5 :=
  let st := s.strand sid
  let timer : BitVec 5 := if st.tcmp.toNat ≤ s.cycleOf sid then 2 else 0
  (st.ipend &&& 0b11101#5) ||| timer

/-- Is a link queue paused (R225): its owner OFF, in DEBUG or inside a trap handler, or its context saved (R287)? -/
def lqPaused (s : State) (core : Nat) (q : Lq) : Bool :=
  let st := s.strand (core * 4 + q.owner)
  decide (8 ≤ q.owner) || st.run == .off || st.run == .debug || st.depth != 0

/-- The generation of a channel as a die has observed it: 32 cycles of the die after each completion
(R29). -/
def observed (s : State) (die ch : Nat) : BitVec 16 :=
  let c := s.chan ch
  c.gen - BitVec.ofNat 16 (c.obs.filter (fun o => o.1 == die)).length

/-- The link that LKSEL selects: die and port (R319). -/
def lkOf (s : State) (sid : Nat) : Link :=
  let n := (s.strand sid).lksel.toNat
  (s.die (n / 4)).links.getD (n % 4) Link.init

/-- A control register as CTLRD reads it (R355): write-only and reserved fields read 0. LKSALT and LKCTR,
whose reads the manual does not give, are not here (log 14). -/
def ctlImage (s : State) (sid : Nat) (cr : Nat) : Nat :=
  let st := s.strand sid
  let n := coreOf sid
  let c := s.core n
  let th := isThread sid
  let d := s.die (dieOf sid)
  if cr = 0x000 then st.status.toNat
  else if cr = 0x001 then st.cause.toNat
  else if cr = 0x002 then st.epc.toNat
  else if cr = 0x003 then st.tval.toNat
  else if cr = 0x004 then st.tvec.toNat
  else if cr = 0x005 then st.scratch.toNat
  else if cr = 0x006 then st.fpctl.toNat
  else if cr = 0x007 then st.rng.toNat
  else if cr = 0x008 then st.sbcheck.toNat
  else if cr = 0x009 then st.ptroot.toNat
  else if cr = 0x00A then st.banksel.toNat
  else if cr = 0x00B then (s.ipendOf sid).toNat
  else if cr = 0x00C then st.ienable.toNat
  else if cr = 0x00D then st.tcmp.toNat
  else if cr = 0x00E then b2n st.dbgEn
  else if cr = 0x00F then st.lnqsel.toNat
  else if cr = 0x010 then st.sebsel.toNat
  else if cr = 0x011 then st.lksel.toNat
  else if cr = 0x020 then dieOf sid
  else if cr = 0x021 then (if th then 0 else n / 8 % 16)
  else if cr = 0x022 then (if th then 0 else n % 8)
  else if cr = 0x023 then (if th then 0 else strandIn sid)
  else if cr = 0x024 then (if th then 0 else c.stage.toNat)
  else if 0x028 ≤ cr && cr < 0x02C then (if th then 0 else (c.org.getD (cr - 0x028) 0).toNat)
  else if 0x02C ≤ cr && cr < 0x030 then (if th then 1 else (c.ext.getD (cr - 0x02C) 0).toNat)
  else if cr = 0x030 then d.cycle % 2 ^ 64
  else if cr = 0x031 then st.bundles.toNat
  else if cr = 0x040 then c.dictbase.toNat * 16
  else if cr = 0x041 then c.dictlen.toNat
  else if cr = 0x042 then c.selquant
  else if cr = 0x043 then c.lqcfg
  else if cr = 0x044 then c.bmemb0.toNat
  else if cr = 0x045 then c.bmemb1.toNat
  else if cr = 0x046 then c.wscfg.toNat
  else if cr = 0x047 then c.rtsel.toNat
  else if cr = 0x048 then (c.rtent.getD c.rtsel.toNat 0).toNat
  else if cr = 0x049 then c.mrng.toNat
  else if cr = 0x060 then (s.bank (clusterOf n) st.banksel.toNat).bankstat
  else if cr = 0x080 then d.pwrcfg
  else if cr = 0x081 then d.pwrstat
  else if cr = 0x082 then d.stctl
  else if cr = 0x083 then (s.die (st.lksel.toNat / 4)).fabstat (st.lksel.toNat % 4)
  else if cr = 0x084 then st.stsel.toNat
  else if cr = 0x085 then d.stent (st.stsel.getLsbD 8) (st.stsel.toNat % 256)
  else if cr = 0x086 then st.frtsel.toNat
  else if cr = 0x087 then d.frtent st.frtsel.toNat
  else if cr = 0x0A0 then s.devid.toNat
  else if cr = 0x0A1 then s.l2ctl
  else if cr = 0x0A2 then s.fabcfg
  else if cr = 0x0A3 then s.fimport.toNat
  else if cr = 0x0A4 then s.dbgchan
  else if cr = 0x0A5 then (s.queue st.lnqsel.toNat).ctl
  else if cr = 0x0A6 then s.secntOf st.sebsel.toNat
  else if cr = 0x0A7 then s.plkva.toNat
  else if cr = 0x0A8 then s.plklen.toNat
  else if cr = 0x0A9 then s.plkctl.toNat
  else if cr = 0x0AA then s.plkroot.toNat
  else if cr = 0x0C0 then (s.lkOf sid).lksec
  else 0

/-- The 8 bytes of the device block at an offset (R479). -/
def deviceWord (s : State) (o : Nat) : Nat :=
  if o = 0x00 then s.devid.toNat
  else if o = 0x08 then s.bootstat
  else if 0x18 ≤ o && o < 0x90 then s.readyWord ((o - 0x18) / 8)
  else if o = 0x90 then s.l2ctl
  else if o = 0x98 then s.dbgchan
  else if o = 0xA0 then s.fabcfg
  else 0

/-- The 8 bytes of a die block at an offset (R201). -/
def dieWord (d : Die) (o : Nat) : Nat :=
  if o = 0x00 then d.pwrcfg
  else if o = 0x08 then d.pwrstat
  else if o = 0x10 then d.stctl
  else if 0x20 ≤ o && o < 0x40 then d.fabstat ((o - 0x20) / 8)
  else if 0x10000 ≤ o && o < 0x10800 then
    let e := (o - 0x10000) / 4
    let f (e : Nat) : Nat := d.stent (decide (256 ≤ e)) (e % 256)
    f e + f (e + 1) * 2 ^ 32
  else if 0x20000 ≤ o && o < 0x22000 then
    let i := (o - 0x20000) / 2
    (List.range 4).foldl (fun a k => a + d.frtent (i + k) * 2 ^ (16 * k)) 0
  else 0

/-- The 8 bytes of MMIO space at an aligned offset (R292). The strand block holds DBGCTL at 0 and the
DBGADDR window at 0x10000 (log 15), which reads only while the strand is in DEBUG (R288). -/
def mmioWord (s : State) (o : Nat) : Nat :=
  if o < 0x1000 then s.deviceWord o
  else if 0x10000 ≤ o && o < 0x14000 then
    bitsN (s.queue ((o - 0x10000) / 256)).window (8 * ((o - 0x10000) % 256)) 64
  else if 0x14000 ≤ o && o < 0x14200 then (s.queue ((o - 0x14000) / 8)).ctl
  else if o = 0x20000 then s.biasctl
  else if o = 0x20008 then s.plkva.toNat
  else if o = 0x20010 then s.plklen.toNat
  else if o = 0x20018 then s.plkctl.toNat
  else if o = 0x20020 then s.plkroot.toNat
  else if 0x30000 ≤ o && o < 0x30400 then
    s.circuitWord ((o - 0x30000) / 4) + s.circuitWord ((o - 0x30000) / 4 + 1) * 2 ^ 32
  else if 0x1000000 ≤ o && o < 0x1800000 then readBytes s.boot.image (o - 0x1000000) 8
  else if 0x10000000 ≤ o && o < 0x20000000 then
    dieWord (s.die ((o - 0x10000000) / 0x4000000)) ((o - 0x10000000) % 0x4000000)
  else if 0x20000000 ≤ o && o < 0x30000000 then
    let sid := (o - 0x20000000) / 0x80000 * 4 + (o - 0x20000000) % 0x80000 / 0x20000
    let w := o % 0x20000
    if w = 0 then b2n (s.strand sid).dbgEn
    else if 0x10000 ≤ w && w < 0x10000 + saveBytes && (s.strand sid).run == .debug then
      bitsN ((s.settleNow sid).contextImage sid) (8 * (w - 0x10000)) 64
    else 0
  else 0

/-- A read over MMIO of 1, 2, 4 or 8 bytes (R480): a read not naturally aligned reads 0. -/
def mmioRead (s : State) (o n : Nat) : Nat :=
  if (n = 1 || n = 2 || n = 4 || n = 8) && o % n == 0 then
    bitsN (s.mmioWord (o / 8 * 8)) (8 * (o % 8)) (8 * n)
  else 0

/-- n words of MMIO from an offset, as an engine reads them (R480). -/
def mmioWords (s : State) (o : Nat) : Nat → Nat
  | 0 => 0
  | n + 1 => s.mmioRead o 8 + 2 ^ 64 * s.mmioWords (o + 8) n

/-- n bytes that an engine reads over MMIO: one access up to 8 bytes, words above. -/
def mmioBytes (s : State) (o n : Nat) : Nat := if n ≤ 8 then s.mmioRead o n else s.mmioWords o (n / 8)

end State

/-- The least privilege that may read a control register; a register whose definition gives none is read
by all (R276, R285, R288). -/
def ctlReadPriv (cr : Nat) : Nat :=
  if 1 ≤ cr && cr ≤ 5 then 1
  else if 0x00B ≤ cr && cr ≤ 0x00D then 1
  else if cr = 0x00E then 2
  else if cr = 0x082 then 1
  else 0

/-- The least privilege that may write a control register (R24, R28, R38, R44, R72, R82, R86, R99, R104,
R105, R147, R161, R198 to R201, R205, R211, R217, R263, R276, R285, R288, R289, R291, R294, R319). -/
def ctlWritePriv (cr : Nat) : Nat :=
  if 1 ≤ cr && cr ≤ 5 then 1
  else if cr = 0x008 || cr = 0x009 then 1
  else if 0x00B ≤ cr && cr ≤ 0x00D then 1
  else if cr = 0x00E || cr = 0x011 then 2
  else if cr = 0x031 then 1
  else if 0x040 ≤ cr && cr ≤ 0x04A then 1
  else if cr = 0x060 then 1
  else if cr = 0x080 || cr = 0x081 then 2
  else if cr = 0x082 || cr = 0x083 || cr = 0x085 || cr = 0x087 then 1
  else if cr = 0x0A0 || cr = 0x0A1 || cr = 0x0A3 || cr = 0x0A4 || cr = 0x0A6 then 2
  else if cr = 0x0A2 || cr = 0x0A5 then 1
  else if 0x0A7 ≤ cr && cr ≤ 0x0AA then 1
  else if cr = 0x0C0 then 2
  else 0

end Sys2Proof.Machine
end

