-- ==== Sys2Proof/Machine/Translate.lean ====
section
/-! DEFINITION. The address map (R82, R83), virtual addresses and the page-table walk (R85 to R90), the
TLBs (R91), and what an access meets at its physical address (R84, R86, R98, R102, R111, R128, R138). -/

namespace Sys2Proof.Machine

/-- What covers a local physical address (R83). -/
inductive Region
  | hbm
  | weight (core off : Nat)
  | sram (clu bank off : Nat)
  | tile (core off : Nat)
  | istore (core off : Nat)
  | mstore (core off : Nat)
  | gate (die off : Nat)
  | mmio (off : Nat)
  | imports (off : Nat)
  | host
  | hole
deriving DecidableEq, Repr

def weightBase : Nat := 0x10000000000
def sramBase : Nat := 0x20000000000
def tileBase : Nat := 0x30000000000
def istoreBase : Nat := 0x40000000000
def mstoreBase : Nat := 0x41000000000
def gateBase : Nat := 0x50000000000
def mmioBase : Nat := 0xF0000000000
def importBase : Nat := 0x4000000000000
def hostBase : Nat := 0x8000000000000

/-- The row of R83 that covers a local physical address. -/
def regionOf (a : Nat) : Region :=
  if a < 0xC000000000 then .hbm
  else if weightBase ≤ a && a < weightBase + 2 ^ 32 then
    .weight ((a - weightBase) / 2 ^ 23) ((a - weightBase) % 2 ^ 23)
  else if sramBase ≤ a && a < sramBase + 2 ^ 31 then
    .sram ((a - sramBase) / 2 ^ 25) ((a - sramBase) / 2 ^ 19 % 64) ((a - sramBase) % 2 ^ 19)
  else if tileBase ≤ a && a < tileBase + 2 ^ 30 then
    .tile ((a - tileBase) / 2 ^ 21) ((a - tileBase) % 2 ^ 21)
  else if istoreBase ≤ a && a < istoreBase + 2 ^ 28 then
    .istore ((a - istoreBase) / 2 ^ 19) ((a - istoreBase) % 2 ^ 19)
  else if mstoreBase ≤ a && a < mstoreBase + 2 ^ 24 then
    .mstore ((a - mstoreBase) / 2 ^ 15) ((a - mstoreBase) % 2 ^ 15)
  else if gateBase ≤ a && a < gateBase + 2 ^ 25 then
    .gate ((a - gateBase) / 2 ^ 23) ((a - gateBase) % 2 ^ 23)
  else if mmioBase ≤ a && a < mmioBase + 2 ^ 30 then .mmio (a - mmioBase)
  else if importBase ≤ a && a < hostBase then .imports (a - importBase)
  else if hostBase ≤ a then .host
  else .hole

/-- The bytes from a local address to the end of its row of R83, or of its bank of cluster SRAM. -/
def regionRest (a : Nat) : Nat :=
  match regionOf a with
  | .hbm => 0xC000000000 - a
  | .weight _ _ => weightBase + 2 ^ 32 - a
  | .sram _ _ off => 2 ^ 19 - off
  | .tile _ _ => tileBase + 2 ^ 30 - a
  | .istore _ off => 2 ^ 19 - off
  | .mstore _ _ => mstoreBase + 2 ^ 24 - a
  | .gate _ _ => gateBase + 2 ^ 25 - a
  | .mmio off => 2 ^ 30 - off
  | .imports off => hostBase - importBase - off
  | .host => 2 ^ 52 - a % 2 ^ 52
  | .hole => 1

/-- The die that owns the stack of an HBM address (R83). -/
def homeDie (a : Nat) : Nat := a / 2 ^ 36 / 3

/-- The kind of an access for the checks of R90. -/
inductive Acc
  | read | write | atomic | sparseR | sparseW
deriving DecidableEq, Repr

/-- Does the access write (R90)? -/
def Acc.writes : Acc → Bool
  | .read | .sparseR => false
  | .write | .atomic | .sparseW => true

/-- An atomic or sparse-region access (R90). -/
def Acc.special : Acc → Bool
  | .atomic | .sparseR | .sparseW => true
  | _ => false

/-- Bits 63:57 equal bit 56 (R85). -/
def canonical (va : Nat) : Bool :=
  let hi := bitsN va 56 8
  hi == 0 || hi == 255

/-- The result of a translation: a cause, or the physical address with its type, the translation used
and whether it was walked for. -/
inductive Xlat
  | fault (code : Nat)
  | ok (pa ty : Nat) (e : Option TlbEntry) (fresh : Bool)
deriving DecidableEq, Repr

/-- Page bytes of a SIZE value, as a power of two (R88). -/
def pageBits : Nat → Nat
  | 0 => 16 | 1 => 21 | 2 => 24 | 3 => 29 | _ => 34

/-- Is the SIZE allowed at the level (R87)? -/
def sizeOk (level size : Nat) : Bool :=
  match level with
  | 2 => size == 4
  | 1 => size == 2 || size == 3
  | 0 => size == 0 || size == 1
  | _ => false

/-- A level of the walk: its number, the low bit and width of its index, and the width of its table in
address bits (R87). -/
def walkLevels : List (Nat × Nat × Nat × Nat) :=
  [(3, 45, 12, 15), (2, 34, 11, 14), (1, 24, 10, 13), (0, 16, 8, 11)]

/-- Is the HBM stack of an address not ready, or an L2 slice of its die (R14, R298, R299)? It serves nothing (log 40). -/
def State.stackOff (s : State) (a : Nat) : Bool := !(s.ready.getD 9 0).getLsbD (4 + a / 2 ^ 36)

/-- A walk from a table through the levels left: the leaf entry with its address, or none for a page
fault (R87, R90). A table address outside local HBM, or in a host-bias region, reads the bytes that memory lists there, and one
in a stack that is not ready has no valid entry (DESIGN CHOICE, log 42). -/
def walk (s : State) (va : Nat) : List (Nat × Nat × Nat × Nat) → Nat → Option (Nat × Nat × Nat)
  | [], _ => none
  | (level, lo, n, tbits) :: rest, table =>
    let a := table / 2 ^ tbits * 2 ^ tbits + 8 * bitsN va lo n
    let e := s.readMem a 8
    if !bitN e 0 || (inHbm a && s.stackOff a) then none
    else if bitN e 1 then
      (if sizeOk level (bitsN e 2 3) then some (a, e, pageBits (bitsN e 2 3)) else none)
    else if level = 0 then none
    else walk s va rest (bitsN e 11 41 * 2 ^ 11)

/-- The TLB entry of a leaf for an address (R88). -/
def mkEntry (asid va : Nat) (leaf : Nat × Nat × Nat) : TlbEntry :=
  let (a, e, bits) := leaf
  { asid, glob := bitN e 11, va := va / 2 ^ bits * 2 ^ bits, size := 2 ^ bits
    pa := e / 2 ^ bits * 2 ^ bits, user := bitN e 10, type := bitsN e 8 2, r := bitN e 5
    w := bitN e 6, dirty := bitN e 13, pteAddr := a }

/-- Does an entry hold the translation of an address under an identifier (R88)? -/
def TlbEntry.hits (e : TlbEntry) (asid va : Nat) : Bool :=
  (e.glob || e.asid == asid) && decide (e.va ≤ va) && decide (va < e.va + e.size)

/-- The check of R90 on an entry: the cause 0x12, if any. -/
def permFault (e : TlbEntry) (acc : Acc) (priv : Nat) : Bool :=
  (!acc.writes && !e.r) || (acc.writes && !e.w) || ((acc == .atomic || acc == .sparseW) && !e.r) ||
  (priv == 0 && !e.user) || e.type == 3 || (acc.special && e.type == 2)

/-- The local addresses of the sorter banks of a routing job of a die (R229, R237): from bank `SBANK`, 2b + 1 banks. -/
def sorterOf (die cfg card : Nat) : Nat × Nat :=
  let b := (bitsN card 192 32 * bitsN cfg 16 4 * 16 + 524287) / 524288
  let base := sramBase + (die * 16 + bitsN cfg 74 4) * 2 ^ 25 + bitsN cfg 68 6 * 2 ^ 19
  (base, base + (2 * b + 1) * 2 ^ 19)

namespace State

/-- The space of a strand (R86); that of a Chamois thread has its job's sorter banks (R241). -/
def spaceOf (s : State) (sid : Nat) : Space :=
  let st := s.strand sid
  let own := match (s.die (dieOf sid)).route with
    | some r => if isThread sid then sorterOf (dieOf sid) r.cfg r.card else (0, 0)
    | none => (0, 0)
  { lo := own.1, hi := own.2
    asid := bitsN st.ptroot.toNat 52 12, base := bitsN st.ptroot.toNat 15 37 * 2 ^ 15
    en := st.ptroot.getLsbD 0, priv := st.priv, die := dieOf sid
    clu := if isThread sid then none else some (clusterOf (coreOf sid))
    core := if isThread sid then none else some (coreOf sid) }

/-- The cycle of the home die of an HBM address. -/
def homeCycle (s : State) (a : Nat) : Nat := (s.die (homeDie a)).cycle

/-- The translation under which a core's L1 holds the line of an address, if it does and no lease on it has run out: an access
that hits uses no TLB (R91, R93, R100). -/
def l1Find (s : State) (c : Space) (va : Nat) : Option TlbEntry :=
  match c.core with
  | none => none
  | some n => ((s.core n).l1.find? (fun l => l.asid == c.asid && l.vline == va / 64 &&
      (!s.l2mode || decide (s.homeCycle (l.pline * 64) ≤ l.leaseEnd)))).map (·.page)

/-- The translation held in the TLBs that serve a space (R91). -/
def tlbFind (s : State) (c : Space) (va : Nat) : Option TlbEntry :=
  let own := match c.clu with
    | some k => List.find? (fun e => TlbEntry.hits e c.asid va) (s.ctlb.getD k [])
    | none => none
  own.or (List.find? (fun e => TlbEntry.hits e c.asid va) (s.die c.die).tlb)

/-- The type an access without translation has: that of its target (R86). -/
def flatType (a : Nat) : Nat :=
  match regionOf a with
  | .hbm | .imports _ | .host | .hole => 1
  | _ => 2

/-- The translation of one address (R85, R86, R90): pure; `commitXlat` makes its effects. With EN = 0 below firmware privilege
every access raises 0x12, whatever its address (R86). -/
def xlat (s : State) (c : Space) (acc : Acc) (va : Nat) : Xlat :=
  let pf := if acc.writes then 0x11 else 0x10
  if c.lo ≤ va && va < c.hi then
    (if acc.special then .fault 0x12 else .ok (s.devid.toNat % 4096 * 2 ^ 52 + va) 2 none false)
  else if !c.en then
    if c.priv = 2 then
      if !canonical va then .fault pf else
      let a := va % 2 ^ 52
      if acc.special && flatType a == 2 then .fault 0x12
      else .ok (s.devid.toNat % 4096 * 2 ^ 52 + a) (flatType a) none false
    else .fault 0x12
  else if !canonical va then .fault pf
  else
    let v := va % 2 ^ 57
    let held := if acc == .sparseR || acc == .sparseW then none else s.l1Find c va
    let found := match held.or (s.tlbFind c v) with
      | some e => some (e, false)
      | none => (walk s v walkLevels c.base).map (fun l => (mkEntry c.asid v l, true))
    match found with
    | none => .fault pf
    | some (e, fresh) =>
      if permFault e acc c.priv then .fault 0x12
      else .ok (e.pa + (v - e.va)) e.type (some e) fresh

/-- The state with a bit of a page-table entry's byte 1 set: an atomic OR (R90). -/
def orPte (s : State) (a bit : Nat) : State :=
  let s := s.writeByte (a + 1) (byteAt s.mem (a + 1) ||| BitVec.ofNat 8 (2 ^ bit))
  if inHbm a then s.l2Touch (a / 64) true else s

/-- The state after an access through a translation: a walked one is installed with A set, and the first
write sets D (R90, R91). -/
def commitXlat (s : State) (c : Space) (acc : Acc) (x : Xlat) : State :=
  match x with
  | .ok _ _ (some e) fresh =>
    let first := acc.writes && !e.dirty
    let e' := { e with dirty := e.dirty || acc.writes }
    let put (n : Nat) (l : List TlbEntry) : List TlbEntry :=
      if fresh then (l ++ [e']).drop (l.length + 1 - n) else l.map (fun x => if x = e then e' else x)
    let s := if fresh then s.orPte e.pteAddr 4 else s
    let s := if first then s.orPte e.pteAddr 5 else s
    if fresh || first then
      let s := match c.clu with
        | some k => { s with ctlb := s.ctlb.setD k [] (put 2048 (s.ctlb.getD k [])) }
        | none => s
      let s := s.updDie c.die (fun d => { d with tlb := put 49152 d.tlb })
      if first then { s with cores := s.cores.map (fun p =>
        (p.1, { p.2 with l1 := p.2.l1.map (fun l => if l.page = e then { l with page := e' } else l) })) }
      else s
    else s
  | _ => s

end State

/-! ### What stands at a physical address -/

/-- Where an access goes: to memory at a local address, to a FIFO port of a bank, to a register of the
device, or to another device (R82, R83, R102). -/
inductive Dest
  | mem (a : Nat)
  | push (clu b : Nat)
  | pop (clu b : Nat)
  | mmio (off : Nat)
  | remote
deriving DecidableEq, Repr

/-- Is the region of an HBM address in host bias (R110)? -/
def State.hostBiased (s : State) (a : Nat) : Bool := s.hostbias.contains (a / 2 ^ 21)

/-- Bytes of the dictionary and stream of the launch running on a core, as instruction-store offsets
(R138). -/
def Core.codeRanges (c : Core) : List (Nat × Nat) :=
  let base := c.dictbase.toNat * 16
  let n := c.dictlen.toNat * 48
  [(base, n), (base + n, c.slen * 2)]

/-- Does a store of n bytes at an instruction-store offset touch the running launch (R138)? -/
def Core.codeHit (c : Core) (off n : Nat) : Bool :=
  c.started != 0 && c.codeRanges.any (fun r => decide (off < r.1 + r.2) && decide (r.1 < off + n))

/-- Does a physical address lie on another device, or in this device's import window (R82)? -/
def State.isRemote (s : State) (pa : Nat) : Bool :=
  pa / 2 ^ 52 != s.devid.toNat % 4096 ||
    (match regionOf (pa % 2 ^ 52) with | .imports _ => true | _ => false)

/-- What an access of n bytes meets at a local address: a cause, or where it goes (R83, R102, R111,
R128, R138). -/
def State.reachLocal (s : State) (acc : Acc) (n a : Nat) : Except Nat Dest :=
  match regionOf a with
  | .hole => .error 0x12
  | .hbm => if s.hostBiased a || s.stackOff a then .error 0x12 else .ok (.mem a)
  | .host => if acc.special then .error 0x12 else .ok (.mem a)
  | .imports _ => .ok .remote
  | .sram clu b off =>
    let k := s.bank clu b
    if acc.special || k.busy || k.nrdy then .error 0x12
    else match k.mode with
      | .cache => .error 0x12
      | .scratchpad => .ok (.mem a)
      | .fifo =>
        if n = 8 && off = 0 && acc == .write then .ok (.push clu b)
        else if n = 8 && off = 8 && acc == .read then .ok (.pop clu b)
        else .error 0x12
  | .istore core off =>
    if acc.special || (acc.writes && (s.core core).codeHit off n) then .error 0x12 else .ok (.mem a)
  | .mmio off => if acc.special then .error 0x12 else .ok (.mmio off)
  | _ => if acc.special then .error 0x12 else .ok (.mem a)

/-- Is the router of a die ready (R299)? -/
def State.routerReady (s : State) (die : Nat) : Bool := (s.ready.getD 12 0).getLsbD (52 + die)

/-- Has a core failed, or its cluster or die (R14)? -/
def State.coreOff (s : State) (n : Nat) : Bool :=
  (if n < 512 then (s.lost.getD (n / 64) 0).getLsbD (n % 64) || (s.lost.getD 8 0).getLsbD (clusterOf n)
   else (s.lost.getD 10 0).getLsbD (n - 512)) || (s.lost.getD 9 0).getLsbD (dieOfCore n)

/-- What an access of a strand or engine of a die meets at a physical address (R82, R182, R299). -/
def State.reach (s : State) (die : Nat) (acc : Acc) (n pa : Nat) : Except Nat Dest :=
  if s.isRemote pa then
    if acc == .sparseR || acc == .sparseW || !s.routerReady die then .error 0x12
    else if (match regionOf (pa % 2 ^ 52) with | .host => acc.special | _ => false) then .error 0x12
    else .ok .remote
  else s.reachLocal acc n (pa % 2 ^ 52)

/-- Is the destination a port of a FIFO bank? -/
def Dest.isPort : Dest → Bool
  | .push _ _ | .pop _ _ => true
  | _ => false

/-- Translation and reach of one access of n bytes: a cause, or the physical address, its type, where it
goes, and the translation. No SCR access reaches a FIFO bank (R102). -/
def State.access (s : State) (c : Space) (acc : Acc) (n va : Nat) :
    Except Nat (Nat × Nat × Dest × Xlat) :=
  match s.xlat c acc va with
  | .fault code => .error code
  | .ok pa ty e fresh =>
    match s.reach c.die acc n pa with
    | .error code => .error code
    | .ok d => if ty = 2 && d.isPort then .error 0x12 else .ok (pa, ty, d, .ok pa ty e fresh)

end Sys2Proof.Machine
end

