-- ==== Sys2Proof/Machine/Caches.lean ====
section
/-! DEFINITION. The L1s (R93, R94), the cluster caches (R95), the L2 slices and directories (R96, R97) and leases (R100). No
copy of a line holds data of its own: the current bytes live in memory, what HBM still holds of a dirty line in `stale`, and
the caches decide times, waits and when a line is written back. -/

namespace Sys2Proof.Machine

/-- The line of a local address (R96). -/
def lineOf (a : Nat) : Nat := a / 64

/-- A directory entry: state 0 I, 1 S, 2 E, 3 M, 4 O; owner; sharers as bits (R97). -/
abbrev Dir := Nat × Nat × Nat

/-- A read request from a cluster (R97). -/
def dirRead (q : Nat) (d : Dir) : Dir :=
  let (st, ow, sh) := d
  if st = 0 then (2, q, 0)
  else if st = 1 then (1, 0, sh ||| 2 ^ q)
  else if st = 2 then (if ow = q then d else (1, 0, 2 ^ ow ||| 2 ^ q))
  else if st = 3 then (if ow = q then d else (4, ow, 2 ^ q))
  else (if ow = q then d else (4, ow, sh ||| 2 ^ q))

/-- A write or atomic request from a cluster (R97). -/
def dirWrite (q : Nat) (_ : Dir) : Dir := (3, q, 0)

/-- A write-back by the owner (R97). -/
def dirWriteback (q : Nat) (d : Dir) : Dir :=
  let (st, ow, sh) := d
  if ow = q && st = 3 then (0, 0, 0)
  else if ow = q && st = 4 then (if sh = 0 then (0, 0, 0) else (1, 0, sh))
  else d

/-- A clean eviction by a holder (R97). -/
def dirEvict (q : Nat) (d : Dir) : Dir :=
  let (st, ow, sh) := d
  if st = 2 && ow = q then (0, 0, 0)
  else if st = 1 then
    let sh' := if bitN sh q then sh - 2 ^ q else sh
    if sh' = 0 then (0, 0, 0) else (1, 0, sh')
  else d

namespace State

/-- The directory entry of a line. -/
def dirOf (s : State) (line : Nat) : Dir := s.dir.getD line (0, 0, 0)
/-- The state with a directory entry replaced. -/
def setDir (s : State) (line : Nat) (d : Dir) : State := { s with dir := s.dir.setD line (0, 0, 0) d }

/-- The state with the copies of a line dropped in every L1 whose core, and every cluster cache whose cluster, `keep` does
not name (R94, R97). -/
def dropCopies (s : State) (line : Nat) (keepCore keepClu : Nat → Bool) : State :=
  { s with
    cores := s.cores.map (fun p =>
      if keepCore p.1 then p
      else (p.1, { p.2 with l1 := p.2.l1.filter (fun l => l.pline != line) }))
    ways := s.ways.map (fun p => if keepClu p.1 then p else (p.1, p.2.filter (fun l => l.pline != line))) }

/-- The state with the copies of a line dropped in every cluster that `keep` does not name (R97). -/
def dropLine (s : State) (line : Nat) (keep : Nat → Bool) : State := s.dropCopies line (fun n => keep (clusterOf n)) keep

/-- The L1 lines of a cluster that hold a physical line: the reverse map (R94). -/
def clusterL1 (s : State) (clu line : Nat) : List L1Line :=
  s.cores.flatMap (fun p => if p.1 < 512 && clusterOf p.1 == clu then p.2.l1.filter (fun l => l.pline == line) else [])

/-- The line of a cluster's cache that holds a physical line. -/
def wayLine (s : State) (clu line : Nat) : Option WayLine := (s.ways.getD clu []).find? (fun w => w.pline == line)

/-- The banks of a cluster that are ways of its cache (R95, R102): those in cache mode that are ready and do not switch. -/
def wayBanks (s : State) (clu : Nat) : List Nat :=
  (List.range 64).filter (fun b => (s.bank clu b).mode == .cache && !(s.bank clu b).busy && !(s.bank clu b).nrdy)

/-- The state with a line gone from a cluster, L1s and cache: written back to its home if it is dirty there, which the
directory learns either way (R97). -/
def leaveCluster (s : State) (clu line : Nat) : State :=
  let dirty := (s.clusterL1 clu line).any (·.dirty) || (s.wayLine clu line).any (·.dirty)
  let s := s.dropLine line (fun q => q != clu)
  let s := if s.l2mode then s
    else s.setDir line (if dirty then dirWriteback clu (s.dirOf line) else dirEvict clu (s.dirOf line))
  if dirty then s.l2Touch line true else s

/-- The state with a line put in a cluster's cache (R95): in its way if it is there, else in a free way of its set, else in
that of the oldest line of the set, which leaves the cluster; nothing where no bank is a way (log 16). -/
def wayPut (s : State) (clu line leaseEnd : Nat) (dirty : Bool) : State :=
  let l := s.ways.getD clu []
  if l.any (fun w => w.pline == line) then
    { s with ways := s.ways.setD clu [] (l.map (fun w =>
        if w.pline == line then { w with leaseEnd := max leaseEnd w.leaseEnd, dirty := dirty || w.dirty } else w)) }
  else
    let banks := s.wayBanks clu
    let inSet := l.filter (fun w => w.pline % 8192 == line % 8192 && banks.contains w.bank)
    match banks.find? (fun b => inSet.all (fun w => w.bank != b)), inSet with
    | some b, _ => { s with ways := s.ways.setD clu [] (l ++ [⟨b, line, leaseEnd, dirty⟩]) }
    | none, w :: _ =>
      let s := s.leaveCluster clu w.pline
      { s with ways := s.ways.setD clu [] (s.ways.getD clu [] ++ [⟨w.bank, line, leaseEnd, dirty⟩]) }
    | none, [] => s

/-- The state after an L1 has given up a line: a dirty one goes to the cluster's cache or, with no way for it, to its home; the
home learns when the cluster holds the line no more (R93, R97). -/
def l1Evict (s : State) (core : Nat) (l : L1Line) : State :=
  let clu := clusterOf core
  if (s.wayLine clu l.pline).isSome then (if l.dirty then s.wayPut clu l.pline l.leaseEnd true else s)
  else if l.dirty then
    let s := s.wayPut clu l.pline l.leaseEnd true
    if (s.wayLine clu l.pline).isSome then s
    else
      let s := s.leaveCluster clu l.pline
      (if s.l2mode then s else s.setDir l.pline (dirWriteback clu (s.dirOf l.pline))).l2Touch l.pline true
  else if (s.clusterL1 clu l.pline).isEmpty && !s.l2mode then s.setDir l.pline (dirEvict clu (s.dirOf l.pline))
  else s

/-- The state in which a core's L1 does not hold a physical line under another tag than one: that copy has been written back and
is invalid (R94). -/
def l1Alias (s : State) (f : Fill) (line : Nat) : State :=
  match (s.core f.core).l1.find? (fun x => x.pline == line && !(x.asid == f.asid && x.vline == f.va / 64)) with
  | some x => (s.updCore f.core (fun c => { c with l1 := c.l1.erase x })).l1Evict f.core x
  | none => s

/-- The state with a line in a core's L1 as its newest; an L1 of 1,024 lines gives up its oldest (R10, R93, R94, log 16). -/
def l1Install (s : State) (f : Fill) (line leaseEnd : Nat) (dirty : Bool) : State :=
  let l := (s.core f.core).l1
  let was := l.any (fun x => x.pline == line && x.dirty)
  let l := l.filter (fun x => x.pline != line) ++ [⟨f.asid, f.va / 64, line, leaseEnd, dirty || was, f.page⟩]
  match (if 1024 < l.length then l else []) with
  | [] => s.updCore f.core (fun c => { c with l1 := l })
  | x :: rest => (s.updCore f.core (fun c => { c with l1 := rest })).l1Evict f.core x

/-- Every L1 and cluster-cache copy gone, dirty ones written back to their homes, and all directory and lease state clear
(R101). -/
def flushAll (s : State) : State :=
  let lines := (s.cores.flatMap (fun p => (p.2.l1.filter (·.dirty)).map (·.pline))) ++
    (s.ways.flatMap (fun p => (p.2.filter (·.dirty)).map (·.pline)))
  lines.foldl (fun s n => s.l2Touch n true) { s with
    cores := s.cores.map (fun p => (p.1, { p.2 with l1 := [] }))
    ways := [], dir := [], leases := [] }

/-- The lease length in force (R99). -/
def leaseLen (s : State) : Nat := max 16 (min 1024 s.lease.toNat)

/-- Has a store that passed a lease still to become visible on a line (R100)? -/
def passing (s : State) (line : Nat) : Bool :=
  s.strands.any (fun p => p.2.passed.any (fun x => lineOf (x.2.pa % 2 ^ 52) == line))

/-- Does a line lie in a core's L1 under an identifier and virtual line (R93, R100)? -/
def l1Hit (s : State) (f : Fill) (a : Nat) : Bool :=
  (s.core f.core).l1.any (fun l => l.asid == f.asid && l.vline == f.va / 64 && l.pline == lineOf a &&
    (!s.l2mode || decide (s.homeCycle a ≤ l.leaseEnd)))

/-- The state after a cached read of an HBM line that missed (R93 to R97, R100): from the cluster's cache, or from the home,
which records the reader or its lease. While a store passes a lease of the line no new lease is given (log 41). -/
def l1Fill (s : State) (f : Fill) (a : Nat) : State :=
  let line := lineOf a
  let clu := clusterOf f.core
  let s := s.l1Alias f line
  match (s.wayLine clu line).filter (fun w => !s.l2mode || decide (s.homeCycle a ≤ w.leaseEnd)) with
  | some w => s.l1Install f line w.leaseEnd false
  | none =>
    if s.l2mode && s.passing line then s
    else
      let e := s.homeCycle a + s.leaseLen
      let s := if s.l2mode then { s with leases := s.leases.insert line (max e (s.leases.getD line 0)) }
        else s.setDir line (dirRead clu (s.dirOf line))
      ((s.l2Touch line false).wayPut clu line e false).l1Install f line e false

/-- The state after a store to an HBM line has reached its home (R96, R97): no copy is left, and the slice holds it. -/
def homeWrite (s : State) (a : Nat) : State :=
  let line := lineOf a
  ((s.dropLine line (fun _ => false)).setDir line (0, 0, 0)).l2Touch line true

/-- The state with an HBM line in M in a core's cluster, and in its L1, where it is allocated on a miss (R93, R97): its owner
writes it back when it leaves, be it changed (`dirty`) or not. In lease mode a store goes to the home (R100). -/
def ownLine (s : State) (f : Fill) (a : Nat) (dirty : Bool) : State :=
  if s.l2mode then (if dirty then s.homeWrite a else s)
  else
    let line := lineOf a
    let clu := clusterOf f.core
    let s := (s.l1Alias f line).dropCopies line (fun n => n == f.core) (fun q => q == clu)
    ((s.setDir line (dirWrite clu (s.dirOf line))).l2Touch line false).l1Install f line 0 true

/-- Has the lease of an HBM line ended, so that a store may reach it (R100)? -/
def leaseOver (s : State) (a : Nat) : Bool :=
  !s.l2mode || (match s.leases.find (lineOf a) with
    | some e => decide (e < s.homeCycle a)
    | none => true)

/-- Does an access to a local address wait at its home: a mode switch, or a flip of its region to host
bias (R101, R110)? -/
def homeBusy (s : State) (a : Nat) : Bool :=
  inHbm a && (s.l2busy || (s.biasBusy && s.biasTgt && a / 2 ^ 21 == s.biasRegion.toNat))

/-- Do n bytes of HBM from a local address lie in a line whose lease has not ended, or during a mode switch (R100, R101)? -/
def writeWaits (s : State) (a n : Nat) : Bool :=
  inHbm a && (s.l2busy || (List.range ((a % 64 + n + 63) / 64)).any (fun i => !s.leaseOver (a + 64 * i)))

end State

end Sys2Proof.Machine
end

