-- ==== Sys2Proof/Machine/Flows.lean ====
section
/-! DEFINITION. The source side of flows (R202 to R206): packets and the cells that carry them, the window of
64, dependences, and requests of strands and engines. -/

namespace Sys2Proof.Machine

/-- The header of a cell of kind 2 to 4 (R192): bits 23:8 hold PSN or BASE. -/
def flowHdr (kind dst src flow mid dep : Nat) : Nat :=
  fields [(61, kind), (48, dst % 4096), (36, src % 4096), (32, 15), (24, flow % 256), (8, mid % 65536),
    (2, dep % 64)]

/-- The cell of a request or response packet (R192, R206). -/
def cellOf (dst : Nat) (p : Packet) : Cell :=
  if p.op = 0 then
    ⟨flowHdr 3 dst p.src p.flow p.psn 0, fields [(0, p.tag % 2 ^ 32), (32, p.aop), (128, p.data)]⟩
  else
    ⟨flowHdr 2 dst p.src p.flow p.psn p.dep,
      fields [(0, p.addr), (64, p.op), (72, p.size), (80, p.aop), (96, p.tag % 2 ^ 32), (128, p.data),
        (640, p.data2), (704, p.bmask)]⟩

/-- The cell of an acknowledgement (R203). -/
def ackCell (dst src flow base ackmap rnrmap : Nat) : Cell :=
  ⟨flowHdr 4 dst src flow base 0, fields [(0, ackmap), (64, rnrmap)]⟩

/-- The request packet of a cell (R206), arriving at a die. -/
def packetOf (die : Nat) (c : Cell) : Packet :=
  { src := bitsN c.hdr 36 12, flow := bitsN c.hdr 24 8, psn := bitsN c.hdr 8 16, dep := bitsN c.hdr 2 6
    die, addr := bitsN c.payload 0 52, op := bitsN c.payload 64 8, size := bitsN c.payload 72 8
    aop := bitsN c.payload 80 16, tag := bitsN c.payload 96 32, data := bitsN c.payload 128 512
    data2 := bitsN c.payload 640 64, bmask := bitsN c.payload 704 64 }

/-- The response of a cell (R206), arriving at a die. -/
def respOf (die : Nat) (c : Cell) : RespPkt :=
  { die, src := bitsN c.hdr 36 12, flow := bitsN c.hdr 24 8, psn := bitsN c.hdr 8 16
    tag := bitsN c.payload 0 32, status := bitsN c.payload 32 8, data := bitsN c.payload 128 512 }

/-- The acknowledgement of a cell (R203). -/
def ackOf (c : Cell) : AckPkt :=
  { src := bitsN c.hdr 36 12, flow := bitsN c.hdr 24 8, base := bitsN c.hdr 8 16
    ackmap := bitsN c.payload 0 64, rnrmap := bitsN c.payload 64 64 }

/-- The distance from b up to a, modulo 65,536. -/
def psnDist (a b : Nat) : Nat := (a + 65536 - b % 65536) % 65536

/-- DEP (R204): the distance to the latest earlier unacknowledged request of the flow to the same line. -/
def depOf (f : TxFlow) (p : TxPkt) : Nat :=
  if p.pkt.op = 0 then 0
  else match (f.pkts.filter (fun q => !q.acked && q.pkt.addr / 64 == p.pkt.addr / 64 &&
      decide (0 < psnDist p.psn q.psn) && decide (psnDist p.psn q.psn < 64))).getLast? with
    | some q => psnDist p.psn q.psn
    | none => 0

/-- May a packet not yet sent be sent (R202)? -/
def sendable (f : TxFlow) (p : TxPkt) : Bool := p.sent == 0 && decide (psnDist p.psn f.base < 64)

namespace State

/-- A flow of this device by destination and number. -/
def txflow (s : State) (dst flow : Nat) : TxFlow :=
  (s.txflows.find? (fun f => f.dst == dst && f.flow == flow)).getD ⟨dst, flow, 0, 0, []⟩

/-- The state with a flow of this device replaced. -/
def setTxflow (s : State) (f : TxFlow) : State :=
  if s.txflows.any (fun g => g.dst == f.dst && g.flow == f.flow) then
    { s with txflows := s.txflows.map (fun g => if g.dst == f.dst && g.flow == f.flow then f else g) }
  else { s with txflows := s.txflows ++ [f] }

/-- The state with the packets of a flow sent that its window admits (R202). -/
def pump (s : State) (dst flow : Nat) : State :=
  let f := s.txflow dst flow
  let go (p : TxPkt) : TxPkt :=
    { p with sent := (s.die p.pkt.die).cycle + 1, pkt := { p.pkt with dep := depOf f p } }
  let out := (f.pkts.filter (sendable f)).map go
  (s.setTxflow { f with pkts := f.pkts.map (fun p => if sendable f p then go p else p) }).post
    (out.map (fun p => .packetRoute p.pkt.die (cellOf dst p.pkt)))

/-- The state with a packet added to a flow of this device and sent when the window admits it. -/
def enqueue (s : State) (dst owner va : Nat) (ty : Ty) (p : Packet) (waits : Bool) : State :=
  let f := s.txflow dst p.flow
  let t : TxPkt :=
    { psn := f.next, pkt := { p with psn := f.next, src := s.devid.toNat % 4096 }, owner, va, ty, sent := 0
      timeouts := 0, rnrs := 0, rnrUntil := none, cancelled := false, acked := false, waits }
  (s.setTxflow { f with next := (f.next + 1) % 65536, pkts := f.pkts ++ [t] }).pump dst p.flow

/-- The cluster a strand's requests name; a Chamois thread names the first cluster of its die (log 17). -/
def flowCluster (sid : Nat) : Nat :=
  if isThread sid then dieOf sid * 16 else clusterOf (coreOf sid)

/-- A request of a strand to a remote physical address (R206). -/
def strandRequest (s : State) (sid pa va op size aop tag data data2 bmask : Nat) (ty : Ty) : State :=
  s.enqueue (pa / 2 ^ 52) sid va ty
    { src := 0, flow := flowCluster sid, psn := 0, dep := 0, die := dieOf sid, addr := pa % 2 ^ 52, op
      size, aop, tag, data, data2, bmask } (op != 2)

/-- A request of an engine's job to a remote physical address (R202, R206): class 1, the first cluster of the
die. -/
def engineRequest (s : State) (die job pa place op size data bmask : Nat) : State :=
  let tag := s.nextTag
  { s with nextTag := tag + 1 }.enqueue (pa / 2 ^ 52) (4096 + job) place .n64
    { src := 0, flow := 64 + die * 16, psn := 0, dep := 0, die, addr := pa % 2 ^ 52, op, size, aop := 0
      tag := tag % 2 ^ 32, data, data2 := 0, bmask } (op != 2)

/-- Has an engine's job requests that are not acknowledged or answered (R136), or stores that still wait at their homes (R100)? -/
def jobOut (s : State) (job : Nat) : Bool :=
  s.txflows.any (fun f => f.pkts.any (fun p => p.owner == 4096 + job)) || s.heldStores.any (fun h => h.job == job)

/-- Has a strand posted stores that their homes have not acknowledged (R130)? -/
def postedOut (s : State) (sid : Nat) : Bool :=
  s.txflows.any (fun f => f.pkts.any (fun p => p.owner == sid && p.pkt.op == 2 && !p.acked))

end State

end Sys2Proof.Machine
end

