-- ==== Sys2Proof/Machine/Channels.lean ====
section
/-! DEFINITION. What a release waits for (R114, R121), and Huddle's channels: members, arrivals that count, and the
completion of a generation (R28 to R35, R284, R289). -/

namespace Sys2Proof.Machine

/-- The strand's oldest parked element: in the fault queue, or in the overflow register (R282, R283). -/
def Core.oldestParked (c : Core) (sid : Nat) : Option Elem :=
  (c.parked sid).head?.or (match c.overflow with
    | some e => if e.sid = sid then some e else none
    | none => none)

namespace State

/-- Does a scope cover a physical address (R114): local memory every one, remote memory from fabric scope on, host memory
system scope alone? -/
def covers (s : State) (sc : Scope) (pa : Nat) : Bool :=
  if s.isRemote pa then sc == .fab || sc == .sys
  else regionOf (pa % 2 ^ 52) != .host || sc == .sys

/-- Has a strand accesses of the bundles up to one that a scope covers and that have not performed or are not visible at it
(R114, R121, R124, R130, R426)? -/
def releaseOut (s : State) (sid : Nat) (sc : Scope) (seq : Nat) : Bool :=
  let st := s.strand sid
  st.unseen.any (fun p => decide (p.seq ≤ seq) && s.covers sc p.pa) ||
    st.aq.any (fun e => decide (e.seq ≤ seq)) ||
    st.loadQ.any (fun l => decide (l.seq ≤ seq) && s.covers sc l.pa) ||
    ((sc == .fab || sc == .sys) && s.postedOut sid)

/-- Does a release at a scope wait (R121, R130)? -/
def releaseHeld (s : State) (sid : Nat) (sc : Scope) : Bool :=
  let st := s.strand sid
  st.unseen.any (fun p => s.covers sc p.pa) || !st.aq.isEmpty || st.loadQ.any (fun l => s.covers sc l.pa) ||
    ((sc == .fab || sc == .sys) && s.postedOut sid)

/-- The member strands of a channel on the whole device (R28). -/
def members (s : State) (ch : Nat) : List Nat :=
  s.cores.flatMap (fun p => if p.1 < 512 then (pathStrands p.1).filter (fun i => s.member i ch) else [])

/-- Does a recorded arrival count (R33, R284): no element of its strand parked, in the fault queue or with the saved context that
has made the arrival, none of an earlier push in flight, and no store of the bundle of an `ARRIVE.rel` still to become visible (R32, log 27)? -/
def counts (s : State) (sid seq : Nat) (rel : Option Scope) : Bool :=
  ((s.core (coreOf sid)).oldestParked sid).isNone && !(s.strand sid).aq.any (fun e => decide (e.seq ≤ seq)) &&
    s.tasks.all (fun t => t.kept.all (fun k => k.1 != sid || k.2.2.1 == 0 || decide (k.2.2.2 < seq))) &&
    (match rel with
     | some sc => !s.releaseOut sid sc seq
     | none => true)

/-- Has every member of a channel arrived, counting, while the channel is not frozen, and was
not when this cycle began (R29, R30, R289)? -/
def complete (s : State) (ch : Nat) : Bool :=
  let m := s.members ch
  !m.isEmpty && !(s.frz ||| s.thaw).getLsbD ch &&
    m.all (fun i => (s.chan ch).arrived.any (fun a => a.1 == i && s.counts i a.2.1 a.2.2.2.2))

/-- The state with a channel's generation completed if it can be: the AND and OR of its inputs are kept, and
every die observes it 32 of its cycles later (R29, R454). -/
def tryComplete (s : State) (ch : Nat) : State :=
  if s.complete ch then
    let c := s.chan ch
    let g := c.gen + 1
    s.setChan ch { c with
      gen := g, arrived := []
      lastAnd := c.arrived.all (fun a => a.2.2.1), lastOr := c.arrived.any (fun a => a.2.2.2.1)
      obs := c.obs ++ (List.range 4).map (fun d => (d, g, (s.die d).cycle + 32)) }
  else s

/-- The state with every generation completed that can be. -/
def settleChans (s : State) : State := (s.chans.map (·.1)).foldl tryComplete s

/-- The state at the end of a cycle: every generation is completed whose last arrival has begun to count in it (R29), and
what froze a channel in it no longer does in the next (R289). -/
def endCycle (s : State) : State :=
  let s := if s.chans.any (fun p => !p.2.arrived.isEmpty) then s.settleChans else s
  { s with thaw := s.frz }

/-- The state with an arrival of a strand recorded (R31): tag, pending bit and inputs, and the scope of its release. -/
def recordArrival (s : State) (sid ch seq : Nat) (a o : Bool) (rel : Option Scope) : State :=
  let c := s.chan ch
  let s := s.updStrand sid (fun st => { st with
    tags := st.tags.setIfInBounds ch c.gen, pend := st.pend ||| (1#32 <<< ch) })
  (s.setChan ch { c with arrived := c.arrived ++ [(sid, seq, a, o, rel)] }).tryComplete ch

/-- The state with a strand's arrival on a channel withdrawn (R30, R35). -/
def withdraw (s : State) (sid ch : Nat) : State :=
  let c := s.chan ch
  s.setChan ch { c with arrived := c.arrived.filter (fun a => a.1 != sid) }

/-- Has a strand observed the completion of the generation of its arrival (R29, R31)? -/
def sawCompletion (s : State) (sid ch : Nat) : Bool :=
  s.observed (dieOf sid) ch == (s.strand sid).tags.getD ch 0 + 1

/-- The state with a membership register of a core written (R28, R30): strands that lose membership are no
longer counted and their pending bits are cleared. -/
def writeBmemb (s : State) (core : Nat) (hi : Bool) (v : Word) : State :=
  let old := if hi then (s.core core).bmemb1 else (s.core core).bmemb0
  let lost := old &&& ~~~v
  let s := s.updCore core (fun c => if hi then { c with bmemb1 := v } else { c with bmemb0 := v })
  let gone := (List.range 64).filter (fun i => lost.getLsbD i)
  let s := gone.foldl (fun s i =>
    let sid := core * 4 + i % 4
    let ch := i / 4 + (if hi then 16 else 0)
    (s.withdraw sid ch).updStrand sid (fun st => { st with pend := st.pend &&& ~~~(1#32 <<< ch) })) s
  s.settleChans

/-- The state with a strand's channels as at a start (R35): pending bits cleared, tags 0, arrivals withdrawn. -/
def clearChannels (s : State) (sid : Nat) : State :=
  let s := (s.chans.map (·.1)).foldl (fun s ch => s.withdraw sid ch) s
  s.updStrand sid (fun st => { st with pend := 0, tags := Vector.replicate 32 0 })

end State

end Sys2Proof.Machine
end

