-- ==== Sys2Proof/Machine/Clash.lean ====
section
/-! DEFINITION. Program stores over bytes that a unit works on (R135, R139, R150, R231, R390, chapter 10): what R6 leaves
undefined takes a free value (log 5, log 21). -/

namespace Sys2Proof.Machine

/-- Who makes a store visible: a strand here, a program elsewhere (on another device, or on the host), or an engine. -/
inductive Writer where
  | strand (sid : Nat)
  | program
  | engine
deriving DecidableEq, Repr

/-- Is it a program? -/
def Writer.prog : Writer → Bool
  | .engine => false
  | _ => true

/-- Do the n bytes at a share one with the k bytes at b? -/
def meets (a n b k : Nat) : Bool := decide (a < b + k) && decide (b < a + n)

/-- The n bytes v at an address, those in one of the ranges replaced by the range's own (address, length, bytes). -/
def overlaid (l : List (Nat × Nat × Nat)) (a n v : Nat) : Nat :=
  if l.any (fun r => meets a n r.1 r.2.1) then
    (List.range n).foldr (fun i acc =>
      l.foldl (fun y r => if decide (r.1 ≤ a + i) && decide (a + i < r.1 + r.2.1) then bitsN r.2.2 (8 * (a + i - r.1)) 8 else y)
        (bitsN v (8 * i) 8) + 256 * acc) 0
  else v

/-- The runs of enabled bytes among the n from an offset on, by a byte mask: offset and length (R459). -/
def maskRuns (mask : Nat) : Nat → Nat → List (Nat × Nat)
  | _, 0 => []
  | at_, n + 1 =>
    if mask % 2 = 0 then maskRuns (mask / 2) (at_ + 1) n
    else match maskRuns (mask / 2) (at_ + 1) n with
      | (a, k) :: rest => if a = at_ + 1 then (at_, k + 1) :: rest else (at_, 1) :: (a, k) :: rest
      | [] => [(at_, 1)]

/-- The runs of a store of n bytes: one where all are enabled. -/
def storeRuns (mask n : Nat) : List (Nat × Nat) := if mask % 2 ^ n = 2 ^ n - 1 then [(0, n)] else maskRuns mask 0 n

/-- The keys lo to lo + n - 1 of a map given anew; a default value is not listed. -/
def setRange {α : Type} [DecidableEq α] (m : SMap α) (lo n : Nat) (d : α) (f : Nat → α) : SMap α :=
  m.filter (fun p => decide (p.1 < lo)) ++
    (((List.range n).map (fun i => (lo + i, f i))).filter (fun p => p.2 != d)) ++
    m.filter (fun p => decide (lo + n ≤ p.1))

namespace State

/-- A link queue of a core. -/
def lqOf (s : State) (core q : Nat) : Lq := (s.core core).lq.getD q Lq.init

/-- The local address of the buffer that strip n of a queue takes in tile memory (R217, R220). -/
def lqBuf (s : State) (core q n : Nat) : Nat :=
  tileBase + core * 2 ^ 21 + (s.core core).rxbase.toNat * 2 ^ 19 + q * 2 ^ 15 + n % 8 * 4096

/-- The bytes of tile memory that stores have met while a core's routine runs (R150). -/
def tileStored (s : State) (core : Nat) : List (Nat × Nat × Nat) :=
  s.clashes.filterMap (fun x => match x with
    | .tile c a n v => if c = core then some (a, n, v) else none
    | _ => none)

/-- The bytes of tile memory that a core's routine has written. -/
def tileWrote (s : State) (core : Nat) : List (Nat × Nat) :=
  s.clashes.filterMap (fun x => match x with
    | .wrote c a n => if c = core then some (a, n) else none
    | _ => none)

/-- The free value of a core's routine whose words were stored over while it ran (R139). -/
def wordsStored (s : State) (core : Nat) : Option Nat :=
  s.clashes.findSome? (fun x => match x with
    | .words c v => if c = core then some v else none
    | _ => none)

/-- The bytes of a job's regions that stores have met while it was unretired (R135). -/
def jobStored (s : State) (id : Nat) : List (Nat × Nat × Nat) :=
  s.clashes.filterMap (fun x => match x with
    | .job i a n v => if i = id then some (a, n, v) else none
    | _ => none)

/-- The state that keeps a clash, with the next free value. -/
def addClash (s : State) (f : Nat → Clash) : State :=
  let r := s.takeFree
  { r.2 with clashes := f r.1 :: s.clashes }

/-- A store of n bytes at an offset of a core's tile memory: a running routine's results, where a strand stores (R150), and
strips that an rx queue holds there (chapter 10). -/
def clashTile (s : State) (prog : Bool) (core a n : Nat) : State :=
  let s := if prog && (s.core core).routine.isSome then s.addClash (.tile core a n) else s
  (List.range 16).foldl (fun s q =>
    let x := s.lqOf core q
    if x.role == .rx then
      x.got.foldl (fun s g =>
        let b := s.lqBuf core q g.1
        if meets a n b 4096 then
          let r := s.takeFree
          r.2.writeMem b 4096 r.1
        else s) s
    else s) s

/-- A store of n bytes at a byte offset of a core's microprogram store, over the words of its running routine or of a
select map that the routine has had on (R139, R400); it is kept for a map that the routine turns on later. -/
def clashWords (s : State) (core off n : Nat) : State :=
  match (s.core core).routine with
  | none => s
  | some r =>
    let first := bitsN r.entry.toNat 0 12
    let len := bitsN r.entry.toNat 16 12
    let hits := meets off n (8 * first) (8 * (if len = 0 then 4096 else len)) ||
      r.maps.any (fun m => meets off n (8 * m.1) (8 * m.2))
    let s := if hits then s.addClash (.words core) else s
    { s with clashes := .mstored core off n :: s.clashes }

/-- The state after a core's routine has turned on a select map of n words from a word (R400): words of it may have been stored
to while the routine ran. -/
def clashMap (s : State) (core word n : Nat) : State :=
  if s.clashes.any (fun x => match x with
      | .mstored c off k => c == core && meets off k (8 * word) (8 * n)
      | _ => false)
  then s.addClash (.words core) else s

/-- A store of n bytes at an offset of a core's weight slice, over the bytes that a load of a B tile in progress reads: those
of the back buffer are undefined (R390). -/
def clashSlice (s : State) (core off n : Nat) : State :=
  match (s.core core).routine with
  | none => s
  | some r =>
    match r.back with
    | none => s
    | some t =>
      if r.bld != 0 && meets off n t.addr t.len then
        let f := s.takeFree
        f.2.updCore core (fun c => { c with routine := some { r with
          back := some { t with data := overlaid [(off, n, f.1)] t.addr t.len t.data } } })
      else s

/-- The gate rows that a routing job uses (R231): local address and bytes. -/
def gateRows (j : Job) : Nat × Nat :=
  let cfg := j.card.getD 1 0
  (gateBase + j.die * 2 ^ 23 + bitsN cfg 32 17 * 64, bitsN cfg 21 11 * ((bitsN cfg 50 14 + 63) / 64 * 64))

/-- Is a job of a kind, and a work entry in a state, whose regions R135 governs? -/
def governedKind (s : State) (j : Job) : Bool :=
  match j.kind with
  | .task => false
  | .impala => (s.die j.die).ientries.any (fun e => e.2.job == j.id && e.2.pc.isSome)
  | _ => true

/-- Is a writer the strand that has submitted a job which has not committed? What it stores is earlier in program order
(R133, R273), and the job reads it. -/
def writesBefore (w : Writer) (j : Job) : Bool :=
  match w with
  | .strand sid => j.phase == .spec && j.sid == sid
  | _ => false

/-- Does R135 govern a writer's stores to a job's regions: while it is unretired, or for a work entry while a run is active
(R257)? A launch packet is no submitted job (R133). -/
def governed (s : State) (w : Writer) (j : Job) : Bool := w.prog && !writesBefore w j && s.governedKind j

/-- Does a job use bytes that a store meets: for a program's store its declared regions (R135), and for any store the gate
rows of a routing job (R231)? -/
def jobMeets (s : State) (w : Writer) (j : Job) (a n : Nat) : Bool :=
  (s.governed w j && (j.reads ++ j.writes).any (fun r => !s.isRemote r.pa && meets a n (r.pa % 2 ^ 52) r.len)) ||
    (j.kind == .route && !writesBefore w j && meets a n (gateRows j).1 (gateRows j).2)

/-- A store of n bytes at a local address, by the memory it lies in. -/
def clashPlace (s : State) (prog : Bool) (a n : Nat) : State :=
  match regionOf a with
  | .tile c _ => s.clashTile prog c a n
  | .mstore c off => s.clashWords c off n
  | .weight c off => s.clashSlice c off n
  | _ => s

/-- The pages in local HBM of a node pool as a space maps them, from a virtual address on, at most `fuel`: whether the space may
write them, and the local range (R178). A page that is not mapped holds no node. -/
def poolPages (s : State) (c : Space) : Nat → Nat → Nat → List (Bool × Range)
  | 0, _, _ => []
  | fuel + 1, va, len =>
    if len = 0 || 2 ^ 64 ≤ va then []
    else match s.xlat c .sparseR va with
      | .fault _ =>
        let n := min len (2 ^ 16 - va % 2 ^ 16)
        poolPages s c fuel (va + n) (len - n)
      | .ok pa _ e _ =>
        let a := pa % 2 ^ 52
        let n := min len (match e with
          | some e => e.va + e.size - va % 2 ^ 57
          | none => 2 ^ 52 - a)
        let w := match s.xlat c .sparseW va with
          | .ok _ _ _ _ => true
          | .fault _ => false
        let rest := poolPages s c fuel (va + n) (len - n)
        if !s.isRemote pa && inHbm a then (w, ⟨a, n⟩) :: rest else rest

/-- The state with a region in use (R169): its descriptor, `NNODES`, node 0, the space that names it, and its pool. -/
def watchRegion (s : State) (desc nnodes base : Nat) (c : Space) : State :=
  let l := s.poolPages c (nnodes / 2 ^ 8 + 16) base (nnodes * 256)
  { s with regions := s.regions.filter (fun r => r.desc != desc) ++
      [⟨desc, nnodes, base, c, l.map (·.2), (l.filter (·.1)).map (·.2)⟩] }

/-- Do n bytes lie in the descriptor or the pool of a region in use? -/
def regionMeets (r : RegionUse) (a n : Nat) : Bool :=
  meets a n r.desc 64 || r.pool.any (fun p => meets a n p.pa p.len)

/-- Are n bytes ones of a region's descriptor that a program may store to while the region is in use: `NNODES` and the reserved
bytes (R4, R164, R169)? -/
def freeFields (desc a n : Nat) : Bool :=
  (List.range n).all (fun i =>
    decide (desc ≤ a + i) && (let k := a + i - desc; k == 8 || (decide (16 ≤ k) && decide (k < 24)) || (decide (60 ≤ k) && decide (k < 64))))

/-- The state after a program's store of n bytes has met a region in use (R169): one that does not lower `NNODES`, and writes
no other field, leaves the region as it is, with the nodes that it adds; after any other the nodes that the region's operations
may write and the fields that Oryx keeps are free. -/
def clashRegion (s : State) (r : RegionUse) (a n : Nat) : State :=
  let now := bitsN (s.readMem r.desc 64) 128 32
  if freeFields r.desc a n && decide (r.nnodes ≤ now) then
    (if r.nnodes = now then s else s.watchRegion r.desc now r.base r.space)
  else
    let f := s.takeFree
    let s := r.own.foldl (fun s p => s.writeMem p.pa p.len (f.1 / 2 ^ (8 * p.pa))) f.2
    { s.writeMem (r.desc + 24) 40 f.1 with regions := s.regions.filter (fun x => x.desc != r.desc) }

/-- The state after a store of n bytes has met a job: over the gate rows of a routing job that is scored, its scores are
undefined from then on (R231). -/
def clashJob (s : State) (j : Job) (a n : Nat) : State :=
  (s.addClash (.job j.id a n)).updDie j.die (fun d => { d with route := d.route.map (fun r =>
    if r.job == j.id && !r.place.isEmpty && meets a n (gateRows j).1 (gateRows j).2 then { r with blind := true } else r) })

/-- The state after a store of n bytes at a local address, by a program or by an engine: what it leaves undefined (R6) is
marked, or takes its free value at once. -/
def clash (s : State) (w : Writer) (a n : Nat) : State :=
  let s := s.clashPlace w.prog a n
  let s := if w.prog then (s.regions.filter (fun r => regionMeets r a n)).foldl (fun s r => s.clashRegion r a n) s else s
  (s.dies.toList.flatMap (fun d => d.jobs)).foldl (fun s j =>
    if s.jobMeets w j a n then s.clashJob j a n else s) s

/-- Does no unit work on the n bytes at a local address that a program stores? -/
def unclashed (s : State) (a n : Nat) : Bool :=
  (match regionOf a with
   | .tile c _ => (s.core c).routine.isNone && (List.range 16).all (fun q => (s.lqOf c q).role != .rx ||
       (s.lqOf c q).got.all (fun g => !meets a n (s.lqBuf c q g.1) 4096))
   | .mstore c _ => (s.core c).routine.isNone
   | .weight c _ => (s.core c).routine.isNone
   | _ => true) &&
    s.regions.all (fun r => !regionMeets r a n) && s.dies.toList.all (fun d => d.jobs.all (fun j => !s.jobMeets .program j a n))

/-- The state with bytes written over with free ones, for each range of a list (address, length, bytes). -/
def fillRanges (s : State) (l : List (Nat × Nat × Nat)) : State := l.foldl (fun s r => s.writeMem r.1 r.2.1 r.2.2) s

/-- The part of stored ranges (address, length, bytes) that lies in a range. -/
def cutRanges (l : List (Nat × Nat × Nat)) (b k : Nat) : List (Nat × Nat × Nat) :=
  l.filterMap (fun r =>
    let lo := max r.1 b
    let hi := min (r.1 + r.2.1) (b + k)
    if lo < hi then some (lo, hi - lo, r.2.2 / 256 ^ (lo - r.1)) else none)

/-- The state at the end of a core's routine: the bytes of its results that stores have met are free (R150), and all its
destinations are where its words were stored over (R139). -/
def settleRoutine (s : State) (core : Nat) : State :=
  let wrote := s.tileWrote core
  let stored := s.tileStored core
  let s1 := match s.wordsStored core with
    | none => s.fillRanges (wrote.flatMap (fun (w : Nat × Nat) => cutRanges stored w.1 w.2))
    | some v =>
      let s1 := s.fillRanges (wrote.zipIdx.map (fun (w : (Nat × Nat) × Nat) => (w.1.1, w.1.2, v / 2 ^ (8192 * w.2))))
      s1.updCore core (fun c => { c with
        acc := match c.routine with
          | some r => r.done.foldl (fun (m : SMap (BitVec 32)) (b : Nat × Nat) => setRange m (b.1 * 16384) 16384 0 (fun j => BitVec.ofNat 32 (v / 2 ^ (32 * j)))) c.acc
          | none => c.acc })
  { s1 with clashes := s.clashes.filter (fun x => match x with
    | .tile c _ _ _ => c != core
    | .wrote c _ _ => c != core
    | .words c _ => c != core
    | .mstored c _ _ => c != core
    | .job _ _ _ _ => true) }

/-- The state with the result bytes of a job that stores have met taken as free (R135), as the job retires. -/
def settleJob (s : State) (j : Job) : State :=
  let l := s.jobStored j.id
  if l.isEmpty then s
  else
    let s1 := s.fillRanges (j.writes.flatMap (fun r => if s.isRemote r.pa then [] else cutRanges l (r.pa % 2 ^ 52) r.len))
    { s1 with clashes := s.clashes.filter (fun x => match x with
      | .job i _ _ _ => i != j.id
      | _ => true) }

end State

end Sys2Proof.Machine
end

