-- ==== Sys2Proof/Machine/Memory.lean ====
section
/-! DEFINITION. Loads, stores, fences and line operations of the L slot and the scale loads and stores of the
X slot (R113 to R126, R137, R350, R351, R367, R377, R402, R421, R422, R433, R451, R459, R460). A load that hits
performs at issue, any other when its data arrives, in program order, under the strand's own stores (R116, R117,
log 36); a store waits in the gated buffer (R55). -/

namespace Sys2Proof.Machine

/-! ### What a load reads -/

/-- n bytes read at a physical address, given as a number, under a strand's own stores (R117). -/
def Strand.overlayVal (st : Strand) (pa v : Nat) : Nat → Nat
  | 0 => 0
  | n + 1 => (st.overlay pa (BitVec.ofNat 8 v)).toNat + 256 * st.overlayVal (pa + 1) (v / 256) n

/-- A strand with the stores of its bundle in issue that stand before the operation that is judged among its own (R305). -/
def State.withAhead (s : State) (sid : Nat) : Strand :=
  let st := s.strand sid
  if sid = s.cur && !s.issue.ahead.isEmpty then { st with gated := st.gated ++ s.issue.ahead } else st

/-- n bytes at a local address as a strand reads them, its own stores included (R117). -/
def State.readOwn (s : State) (sid pa n : Nat) : Nat :=
  (s.withAhead sid).overlayVal pa (s.readMem (pa % 2 ^ 52) n) n

/-- Has a strand an atomic that waits for its earlier stores (R127)? -/
def Strand.atomicWaits (st : Strand) : Bool :=
  st.storeQ.any (fun p => match p.kind with | .atomic _ _ _ => true | _ => false)

/-- Has a strand stores to local memory that are not yet visible, or elements still in flight, of the bundles up to one? Posted
remote stores and host stores do not count (R118). -/
def State.storesUpTo (s : State) (sid seq : Nat) : Bool :=
  (s.strand sid).unseen.any (fun p => decide (p.seq ≤ seq) && s.covers .dev p.pa) ||
    (s.strand sid).aq.any (fun e => decide (e.seq ≤ seq))

/-- May a queued load of a strand not perform yet: for an atomic before it (R116, R127), for the stores before a MARK
(R118), or for its home (R101, R110)? -/
def State.queueHeld (s : State) (sid : Nat) (l : PLoad) : Bool :=
  let st := s.strand sid
  st.storeQ.any (fun p => decide (p.seq < l.seq) && (match p.kind with | .atomic _ _ _ => true | _ => false)) ||
    (l.after != 0 && s.storesUpTo sid l.after) || s.homeBusy (l.pa % 2 ^ 52)

/-- May a load of the strand in issue not perform in this cycle: for an atomic before it (R116, R127), for the stores
before a MARK (R118), for the home of a local address (R101, R110), or for a load before it? -/
def State.loadHeld (s : State) (pa : Nat) : Bool :=
  s.me.atomicWaits || (s.me.fenceSeq != 0 && s.storesUpTo s.cur s.me.fenceSeq) ||
    (!s.isRemote pa && s.homeBusy (pa % 2 ^ 52)) || s.me.loadQ.any (s.queueHeld s.cur)

/-- What an access through a WB page to local HBM brings its line into its core's L1 under; nothing for any other, which
bypasses the caches (R93, R98). -/
def State.fillOf (s : State) (c : Space) (va pa : Nat) (w : Bool) : Xlat → Option Fill
  | .ok _ ty (some e) _ =>
    if ty = 0 && !s.isRemote pa && inHbm (pa % 2 ^ 52) then
      c.core.map (fun n => ⟨n, c.asid, va, { e with dirty := e.dirty || w }⟩)
    else none
  | _ => none

/-- The cache and lease effects of a read (R93, R97, R100), and whether it hit in its L1. -/
def State.cacheRead (s : State) (pa : Nat) : Option Fill → Bool × State
  | some f => if s.l1Hit f (pa % 2 ^ 52) then (true, s) else (false, s.l1Fill f (pa % 2 ^ 52))
  | none => (false, s)

/-- Is a local address in a core's own tile memory (R106)? -/
def ownTile (core a : Nat) : Bool :=
  match regionOf a with
  | .tile c _ => c == core
  | _ => false

/-- The latency of a load (R377, R451): on an L1 hit, from the core's own tile memory through an SCR page, and
otherwise when the data arrives (log 6). -/
def State.loadLat (s : State) (hit : Bool) (pa ty onHit onTile : Nat) : Nat :=
  if hit then onHit
  else if ty = 2 && ownTile (coreOf s.cur) (pa % 2 ^ 52) then onTile
  else Config.missLatency

/-- The report of poisoned data among n bytes at a local address, by its physical address (R82, R290). -/
def State.poisonReport (s : State) (sid pa n : Nat) : State :=
  match s.poison.find? (fun a => decide (pa % 2 ^ 52 ≤ a) && decide (a < pa % 2 ^ 52 + n)) with
  | some a => s.updStrand sid (fun st => { st with
      reports := st.reports ++ [Trap.of 0x3F (s.devid.toNat % 4096 * 2 ^ 52 + a)] })
  | none => s

/-- The report of poisoned data among the enabled bytes of n at a local address (R290, R451). -/
def State.poisonMasked (s : State) (sid pa n mask : Nat) : State :=
  (storeRuns mask n).foldl (fun s r => s.poisonReport sid (pa + r.1) r.2) s

/-! ### The load queue (R116 to R118, R122, R125) -/

/-- n bytes at a local address as a load reads them, with the stores of its strand's bundles up to one (R117). -/
def State.readUpTo (s : State) (sid pa n seq : Nat) : Nat :=
  ((s.strand sid).storesBefore seq).overlayVal pa (s.readMem (pa % 2 ^ 52) n) n

/-- What a load of n bytes at a local address gives, and the caches after it. -/
def State.loadBytes (s : State) (sid : Nat) (l : PLoad) : Nat × State :=
  match regionOf (l.pa % 2 ^ 52) with
  | .mmio off => (s.mmioRead off l.size, s)
  | _ => (s.readUpTo sid l.pa l.size l.upTo, (s.cacheRead l.pa l.fill).2.poisonMasked sid l.pa l.size l.bmask)

/-- The state after a queued load of a strand has performed: its value is fixed, and its data is there in the cycle in
which it arrives, or now (R112). -/
def State.performLoad (s : State) (sid : Nat) (l : PLoad) : State :=
  let r := s.loadBytes sid l
  let t := max l.ready (s.cycleOf sid)
  match l.dst with
  | .reg tag line =>
    (match line with
      | none => r.2.answerTag sid tag ((extendTy l.ty r.1).setWidth 2048) false t
      | some i => r.2.answerPart sid tag (BitVec.ofNat 2048 (r.1 * 2 ^ (512 * i)))
          ((s.strand sid).loadQ.all (fun x => match x.dst with | .reg k _ => k != tag | .elem _ => true)) t)
  | .elem slot =>
    r.2.updStrand sid (fun st => { st with aq := st.aq.map (fun e =>
      if !e.scatter && e.slot == slot then { e with data := (extendTy l.ty r.1).toNat, done := true, ready := t } else e) })

/-- May the load at the head of a strand's queue perform in this cycle (R116)? -/
def State.loadReady (s : State) (sid : Nat) : Bool :=
  match (s.strand sid).loadQ with
  | l :: _ => decide (l.ready ≤ s.cycleOf sid) && !s.queueHeld sid l
  | [] => false

/-- The state after the load at the head of a strand's queue has performed. -/
def State.performHead (s : State) (sid : Nat) : State :=
  match (s.strand sid).loadQ with
  | l :: rest => (s.updStrand sid (fun st => { st with loadQ := rest })).performLoad sid l
  | [] => s

/-- The state after every queued load of a strand has performed, in order, so that an operation that reads in this cycle
comes after them (R116). -/
def State.flushLoads (s : State) (sid : Nat) : State :=
  (s.strand sid).loadQ.foldl (fun s l => s.performLoad sid l) (s.updStrand sid (fun st => { st with loadQ := [] }))

/-- The state with a load of the operation in issue in its strand's load queue (R125), its data `lat` cycles away. -/
def State.queueLoad (s : State) (dst : LoadDst) (ty : Ty) (pa va n bmask : Nat) (fill : Option Fill) (acq : Bool) (lat : Nat) : State :=
  s.updMe (fun st => { st with loadQ := st.loadQ ++
    [{ dst, ty, pa, va, size := n, fill, acq, bmask, after := st.fenceSeq, upTo := s.issue.seq - 1, seq := s.issue.seq
       ready := s.issue.cycle + lat, sq := s.issue.sq }] })

/-- Does a load of the operation in issue perform in its issue cycle (log 36): one that hits in L1 or reads the core's own
tile memory, with nothing before it to wait for? -/
def State.performsNow (s : State) (hit : Bool) (pa page : Nat) : Bool :=
  (hit || (page == 2 && ownTile (coreOf s.cur) (pa % 2 ^ 52))) && s.me.loadQ.isEmpty && !s.loadHeld pa

/-- Would a cached read of the strand in issue hit in its L1 (R93)? -/
def State.wouldHit (s : State) (pa : Nat) (f : Option Fill) : Bool := f.any (fun f => s.l1Hit f (pa % 2 ^ 52))

/-! ### Obstacles of an access -/

/-- A Rollback trap. -/
def rollTrap (code tval : Nat) : Option Obstacle := some (.trap .rollback (Trap.of code tval))

/-- What stands in the way of a load of n bytes (R102, R377) but the answer of a remote home: alignment,
translation and reach, an empty FIFO, and, for a pop or a remote load, what must perform before it. Any other load
waits in its queue (R118). -/
def loadPre (n va : Nat) (s : State) : Option Obstacle :=
  if va % n != 0 then rollTrap 0x08 va
  else match s.access (s.spaceOf s.cur) .read n va with
    | .error c => rollTrap c va
    | .ok (pa, _, d, _) =>
      match d with
      | .pop clu b =>
        if s.loadHeld pa then some .hold else if (s.bank clu b).fifo.isEmpty then rollTrap 0x07 va else none
      | .remote => if s.loadHeld pa then some .hold else none
      | _ => none

/-- A piece of a remote load (R206): its number, physical and virtual address and log2 of its size; none for
a local one. -/
def State.remotePiece (s : State) (i n va : Nat) : List (Nat × Nat × Nat × Nat) :=
  match s.access (s.spaceOf s.cur) .read n va with
  | .ok (pa, _, .remote, _) => [(i, pa, va, Nat.log2 n)]
  | _ => []

/-- What stands in the way of a load of n bytes, a remote home's answer included (R132, R305). -/
def loadObs (n va : Nat) (s : State) : Option Obstacle :=
  (loadPre n va s).or
    (match s.remotePiece 0 n va with
     | [] => none
     | l => s.askObs (.load l))

/-- Translation and reach of a store of n bytes under a byte mask: of code that runs the enabled bytes alone count (R138, R459). -/
def State.accessMasked (s : State) (c : Space) (n va mask : Nat) : Except Nat (Nat × Nat × Dest × Xlat) :=
  match s.access c .write n va, s.xlat c .write va with
  | .ok r, _ => .ok r
  | .error e, .ok pa ty x fresh =>
    (match s.isRemote pa, regionOf (pa % 2 ^ 52) with
     | false, .istore core off =>
       if (storeRuns mask n).any (fun r => (s.core core).codeHit (off + r.1) r.2) then .error e
       else .ok (pa, ty, .mem (pa % 2 ^ 52), .ok pa ty x fresh)
     | _, _ => .error e)
  | .error e, _ => .error e

/-- What stands in the way of a store of n bytes under a byte mask (R433, R434, R459). -/
def storeObsMasked (mask n va : Nat) (s : State) : Option Obstacle :=
  if va % n != 0 then rollTrap 0x08 va
  else match s.accessMasked (s.spaceOf s.cur) n va mask with
    | .error c => rollTrap c va
    | .ok _ => none

/-- What stands in the way of a store of n bytes (R433, R434). -/
def storeObs (n va : Nat) (s : State) : Option Obstacle :=
  if va % n != 0 then rollTrap 0x08 va
  else match s.access (s.spaceOf s.cur) .write n va with
    | .error c => rollTrap c va
    | .ok _ => none

/-! ### Putting a store in the gated buffer (R55, R119) -/

/-- The state with a store of the strand in issue put in its gated buffer. -/
def State.gateStore (s : State) (kind : StoreKind) (pa va size data bmask : Nat) (rel : Option Scope) (fill : Option Fill) : State :=
  s.updMe (fun st => { st with gated := st.gated ++
    [{ kind, pa, va, size, data, bmask, rel, seq := s.issue.seq, ready := s.issue.cycle + Config.drainDelay
       after := st.fenceSeq, fill, sq := false }] })

/-- The scope of a release order, if the operation has one (R113). -/
def relScope (o : OrdSc) : Option Scope := if o.ord.hasRel then some o.scope else none

/-- A store of n bytes by the strand in issue: translated, and gated (R125). -/
def State.storeVal (s : State) (n va data bmask : Nat) (rel : Option Scope) : State :=
  let c := s.spaceOf s.cur
  match s.accessMasked c n va bmask with
  | .error _ => s
  | .ok (pa, _, d, x) =>
    let f := s.fillOf c va pa true x
    let s := s.commitXlat c .write x
    match d with
    | .push _ _ => s.gateStore .push pa va n data bmask rel none
    | _ => s.gateStore .write pa va n data bmask rel f

/-! ### Loads and stores of scalars -/

/-- LD, once nothing stands in its way (R377): it performs now, or waits in its queue. R117 leaves open when a load performs:
here one whose data is at hand performs as it issues, another when its data arrives (DESIGN CHOICE, log 36). -/
def effLd (t : Ty) (acq : Bool) (sd : BitVec 6) (ea : Addr) (s : State) : State :=
  let va := s.me.regs.addr ea
  let c := s.spaceOf s.cur
  let n := t.bytes
  match s.access c .read n va with
  | .error _ => s
  | .ok (pa, ty, d, x) =>
    let s := s.commitXlat c .read x
    match d with
    | .remote =>
      let v := s.answered (.load [(0, pa, va, Nat.log2 n)]) 0 n
      s.endRequest.putSLock sd (extendTy t v) 1
    | .pop clu b =>
      let k := s.bank clu b
      ((s.flushLoads s.cur).setBank clu b { k with fifo := k.fifo.drop 1 }).putSLock sd
        (extendTy t (k.fifo.headD 0).toNat) Config.missLatency
    | _ =>
      let f := s.fillOf c va pa false x
      let hit := s.wouldHit pa f
      if s.performsNow hit pa ty then
        ((s.cacheRead pa f).2.poisonReport s.cur pa n).putSLock sd (extendTy t (s.readOwn s.cur pa n))
          (s.loadLat hit pa ty 5 4)
      else
        let k := s.nextTag * 4
        ({ s with nextTag := s.nextTag + 1 }.await (.s sd) (BitVec.allOnes 2048) k).queueLoad (.reg k none) t pa va n
          (2 ^ n - 1) f acq (s.loadLat hit pa ty 5 4)

/-- LD (R377). -/
def execLd (t : Ty) (o : OrdSc) (sd : BitVec 6) (ea : Addr) (s : State) :
    Host.Outcome State Fault Refusal :=
  .next (s.gate (fun s => loadObs t.bytes (s.me.regs.addr ea) s) (effLd t o.ord.hasAcq sd ea))

/-- ST (R433): the low bytes of sb, gated, with its release (R121). -/
def execSt (t : Ty) (o : OrdSc) (ea : Addr) (sb : BitVec 6) (s : State) :
    Host.Outcome State Fault Refusal :=
  .next (s.gate (fun s => storeObs t.bytes (s.me.regs.addr ea) s) (fun s =>
    s.storeVal t.bytes (s.me.regs.addr ea) ((s.me.regs.rs sb).toNat % 2 ^ t.width) (2 ^ t.bytes - 1) (relScope o)))

/-! ### Vectors -/

/-- The enabled bytes of line i of a VLD or VST (R451). -/
def lineMask (mask i : Nat) : Nat := bitsN mask (64 * i) 64

/-- The lines of a VLD or VST that hold an enabled byte. -/
def activeLines (mask : Nat) : List Nat := (List.range 4).filter (fun i => lineMask mask i != 0)

/-- The first obstacle that some line of a list meets. -/
def firstObs (f : Nat → Option Obstacle) : List Nat → Option Obstacle
  | [] => none
  | i :: rest => (f i).or (firstObs f rest)

/-- What stands in the way of a VLD or VST: a lent bank, alignment, and each line that holds an enabled byte
(R443, R451, R459). -/
def vecObs (ea : Addr) (mk : MaskSel) (v : BitVec 6) (f : Nat → Nat → Nat → State → Option Obstacle) (s : State) :
    Option Obstacle :=
  (lentUse [v] s).or
    (let va := s.me.regs.addr ea
     if va % 64 != 0 then rollTrap 0x08 va
     else firstObs (fun i => f i 64 ((va + 64 * i) % 2 ^ 64) s) (activeLines (s.me.regs.byteMask mk)))

/-- What a VLD has come to after some of its lines: the state, the bytes that are known, the latency of the lines so far, and
whether loads of some are queued. -/
structure VldPart where
  state : State
  val : Nat
  lat : Nat
  queued : Bool

/-- One line more of a VLD: its bytes, or its load in the queue under a tag, its data no earlier than that of the lines before
it (R451). -/
def vldLine (acq : Bool) (va mask k : Nat) (l : List (Nat × Nat × Nat × Nat)) (p : VldPart) (i : Nat) : VldPart :=
  let s := p.state
  let c := s.spaceOf s.cur
  let a := (va + 64 * i) % 2 ^ 64
  let m := lineMask mask i
  match s.access c .read 64 a with
  | .error _ => p
  | .ok (pa, ty, d, x) =>
    let s := s.commitXlat c .read x
    match d with
    | .remote => { p with state := s, val := p.val + s.answered (.load l) i 64 * 2 ^ (512 * i) }
    | _ =>
      let f := s.fillOf c a pa false x
      let hit := s.wouldHit pa f
      let lat := max p.lat (s.loadLat hit pa ty 6 5)
      if s.performsNow hit pa ty then
        { p with state := (s.cacheRead pa f).2.poisonMasked s.cur pa 64 m, lat
                 val := p.val + s.readOwn s.cur pa 64 * 2 ^ (512 * i) }
      else { p with state := s.queueLoad (.reg k (some i)) .n64 pa a 64 m f acq lat, lat, queued := true }

/-- The remote lines of a VLD (R206, R451). -/
def State.remoteLinesOf (s : State) (va mask : Nat) : List (Nat × Nat × Nat × Nat) :=
  (activeLines mask).flatMap (fun i => s.remotePiece i 64 ((va + 64 * i) % 2 ^ 64))

/-- VLD, once nothing stands in its way (R451): its lines are read, and its result is written once, when the last has come. -/
def effVld (acq : Bool) (vd : BitVec 6) (ea : Addr) (mk : MaskSel) (s : State) : State :=
  let mask := s.me.regs.byteMask mk
  let va := s.me.regs.addr ea
  let k := s.nextTag * 4
  let p := (activeLines mask).foldl (vldLine acq va mask k (s.remoteLinesOf va mask)) ⟨s, 0, 1, false⟩
  let val := BitVec.ofNat 2048 p.val
  let m := BitVec.ofNat 2048 (spreadMask 256 mask)
  let s := p.state.endRequest
  if (activeLines mask).isEmpty then s
  else if p.queued then { s with nextTag := s.nextTag + 1 }.awaitRest (.v vd) val m k
  else s.emit (.v vd) val m p.lat true 0

/-- What stands in the way of a VLD: its lines, then the answers of its remote lines (R305, R451). -/
def vldObs (vd : BitVec 6) (ea : Addr) (mk : MaskSel) (s : State) : Option Obstacle :=
  (vecObs ea mk vd (fun _ => loadPre) s).or
    (match s.remoteLinesOf (s.me.regs.addr ea) (s.me.regs.byteMask mk) with
     | [] => none
     | l => s.askObs (.load l))

/-- VLD (R451, R452). -/
def execVld (o : OrdSc) (vd : BitVec 6) (ea : Addr) (mk : MaskSel) (s : State) :
    Host.Outcome State Fault Refusal :=
  .next (s.gate (vldObs vd ea mk) (effVld o.ord.hasAcq vd ea mk))

/-- VST, once nothing stands in its way: one store for each line that holds an enabled byte, in increasing
address order; a release stands before the first (R459). -/
def effVst (o : OrdSc) (ea : Addr) (vb : BitVec 6) (mk : MaskSel) (s : State) : State :=
  let mask := s.me.regs.byteMask mk
  let va := s.me.regs.addr ea
  let v := (s.me.rv vb).toNat
  (activeLines mask).foldl (fun s i =>
    s.storeVal 64 ((va + 64 * i) % 2 ^ 64) (bitsN v (512 * i) 512) (lineMask mask i) (relScope o)) s

/-- VST (R459). -/
def execVst (o : OrdSc) (ea : Addr) (vb : BitVec 6) (mk : MaskSel) (s : State) :
    Host.Outcome State Fault Refusal :=
  .next (s.gate (fun s => vecObs ea mk vb (fun i => storeObsMasked (lineMask (s.me.regs.byteMask mk) i)) s) (effVst o ea vb mk))

/-! ### Order -/

/-- MARK (R118, R402): later loads wait for the stores before it. -/
def execMark (s : State) : Host.Outcome State Fault Refusal :=
  .next (s.updMe (fun st => { st with fenceSeq := s.issue.seq }))

/-- FENCE's wait (R124, R367, R426): earlier loads and elements have performed, and with release order earlier
accesses that the scope covers are visible or have performed; FENCE.acqrel waits for every earlier load, as MARK orders them all. -/
def fenceObs (o : OrdSc) (s : State) : Option Obstacle :=
  if o.ord.hasRel && s.releaseHeld s.cur o.scope then some .hold
  else if o.ord.hasRel && !o.ord.hasAcq then none
  else if s.me.atomicWaits || !s.me.aq.isEmpty || !s.me.loadQ.isEmpty then some .hold
  else none

/-- FENCE (R124, R367): its wait over, it has no further effect. -/
def execFence (o : OrdSc) (s : State) : Host.Outcome State Fault Refusal :=
  .next (s.gate (fenceObs o) id)

/-- What WAITADDR meets (R137, R460): its faults, then the wait while the word equals sb. -/
def waitaddrObs (t : Ty) (ea : Addr) (sb : BitVec 6) (s : State) : Option Obstacle :=
  let va := s.me.regs.addr ea
  if va % t.bytes != 0 then rollTrap 0x08 va
  else match s.access (s.spaceOf s.cur) .read t.bytes va with
    | .error c => rollTrap c va
    | .ok (pa, _, d, _) =>
      match d with
      | .mem a =>
        if regionOf a = .host then rollTrap 0x12 va
        else if s.loadHeld pa then some (.wait (.line pa (s.cycleOf s.cur + 1)))
        else if s.readOwn s.cur pa t.bytes = (s.me.regs.rs sb).toNat % 2 ^ t.width
        then some (.wait (.line pa (s.cycleOf s.cur + 4096)))
        else none
      | .mmio off =>
        if s.mmioRead off t.bytes = (s.me.regs.rs sb).toNat % 2 ^ t.width
        then some (.wait (.line pa (s.cycleOf s.cur + 4096)))
        else none
      | _ => rollTrap 0x12 va

/-- WAITADDR, once the word differs (R137): the read that has ended the wait is the result. -/
def effWaitaddr (t : Ty) (sd : BitVec 6) (ea : Addr) (s : State) : State :=
  let va := s.me.regs.addr ea
  let c := s.spaceOf s.cur
  let n := t.bytes
  match s.access c .read n va with
  | .error _ => s
  | .ok (pa, ty, d, x) =>
    let s := (s.commitXlat c .read x).flushLoads s.cur
    match d with
    | .mmio off => s.putSLock sd (extendTy t (s.mmioRead off n)) Config.missLatency
    | _ =>
      let h := s.cacheRead pa (s.fillOf c va pa false x)
      (h.2.poisonReport s.cur pa n).putSLock sd (extendTy t (s.readOwn s.cur pa n)) (s.loadLat h.1 pa ty 5 4)

/-- WAITADDR (R137, R460): once the word differs, it is the result. -/
def execWaitaddr (t : Ty) (_ : OrdSc) (sd : BitVec 6) (ea : Addr) (sb : BitVec 6) (s : State) :
    Host.Outcome State Fault Refusal :=
  .next (s.gate (waitaddrObs t ea sb) (effWaitaddr t sd ea))

/-! ### Lines -/

/-- What a line operation meets: a translation as a read or a write, of any address (R350, R351). -/
def lineObs (acc : Acc) (ea : Addr) (s : State) : Option Obstacle :=
  let va := s.me.regs.addr ea
  match s.xlat (s.spaceOf s.cur) acc va with
  | .fault c => rollTrap c va
  | .ok pa _ _ _ =>
    if !s.isRemote pa && inHbm (pa % 2 ^ 52) && s.hostBiased (pa % 2 ^ 52) then rollTrap 0x12 va else none

/-- CFLUSH or CINV, once nothing stands in its way: on a WB page of local HBM, a gated line operation (R350,
R351). -/
def effLine (kind : StoreKind) (acc : Acc) (ea : Addr) (s : State) : State :=
  let va := s.me.regs.addr ea
  let c := s.spaceOf s.cur
  match s.xlat c acc va with
  | .fault _ => s
  | .ok pa ty e fresh =>
    let s := s.commitXlat c acc (.ok pa ty e fresh)
    if ty = 0 && !s.isRemote pa && inHbm (pa % 2 ^ 52)
    then s.gateStore kind (pa / 64 * 64) va 64 0 0 none none else s

/-- CFLUSH (R350). -/
def execCflush (ea : Addr) (s : State) : Host.Outcome State Fault Refusal :=
  .next (s.gate (lineObs .read ea) (effLine .flush .read ea))

/-- The trap of a privileged operation at user privilege (R333, R341, R351). -/
def needKernel (tval : Nat) (s : State) : Option Obstacle :=
  if s.me.priv = 0 then some (.trap .precise (Trap.of 0x04 tval)) else none

/-- CINV (R351). -/
def execCinv (ea : Addr) (s : State) : Host.Outcome State Fault Refusal :=
  .next (s.gate (fun s => (needKernel 0 s).or (lineObs .write ea s)) (effLine .inval .write ea))

/-! ### Scales -/

/-- What SCLD and SCST meet (R421, R422): alignment, translation, and a target outside the core's own tile
memory or not through an SCR page. -/
def scaleObs (acc : Acc) (ab : BitVec 4) (imm : BitVec 14) (s : State) : Option Obstacle :=
  let va := s.me.regs.xaddr ab imm
  if va % 128 != 0 then rollTrap 0x08 va
  else match s.xlat (s.spaceOf s.cur) acc va with
    | .fault c => rollTrap c va
    | .ok pa ty _ _ =>
      if ty != 2 || s.isRemote pa || !ownTile (coreOf s.cur) (pa % 2 ^ 52) then rollTrap 0x12 va
      else if acc == .read && s.loadHeld pa then some .hold
      else none

/-- SCLD (R421): 128 bytes of the core's own tile memory, 12 cycles. -/
def execScld (xd ab : BitVec 4) (imm : BitVec 14) (s : State) : Host.Outcome State Fault Refusal :=
  .next (s.gate (scaleObs .read ab imm) (fun s =>
    let va := s.me.regs.xaddr ab imm
    let c := s.spaceOf s.cur
    match s.xlat c .read va with
    | .fault _ => s
    | .ok pa ty e fresh =>
      let s := (s.commitXlat c .read (.ok pa ty e fresh)).flushLoads s.cur
      (s.poisonReport s.cur pa 128).emit (.x xd)
        (BitVec.ofNat 2048 (s.readOwn s.cur pa 128)) (BitVec.allOnes 2048) 12 false 0))

/-- SCST (R422): 128 bytes in two gated stores, unchanged. -/
def execScst (ab : BitVec 4) (imm : BitVec 14) (xs : BitVec 4) (s : State) :
    Host.Outcome State Fault Refusal :=
  .next (s.gate (scaleObs .write ab imm) (fun s =>
    let va := s.me.regs.xaddr ab imm
    let v := (s.me.regs.rx xs).toNat
    (s.storeVal 64 va (v % 2 ^ 512) (2 ^ 64 - 1) none).storeVal 64 ((va + 64) % 2 ^ 64)
      (v / 2 ^ 512) (2 ^ 64 - 1) none))

/-! ### Requests that leave -/

/-- The state with the request of a strand's held bundle sent, if it has not left (R206, R305). A TLBINV has
its own meaning for this (R437). -/
def State.sendRequest (s : State) (sid : Nat) : State :=
  match (s.strand sid).request with
  | none => s
  | some p =>
    if p.sent then s
    else
      let tag := s.nextTag
      let s := { s with nextTag := tag + 1 }
      let mark (want : Nat) (s : State) : State :=
        s.updStrand sid (fun st => { st with request := some { p with sent := true, tag, want } })
      let s := s.flushLoads sid
      match p.req with
      | .load l =>
        (mark l.length s) |> fun s => l.foldl (fun s x =>
          s.strandRequest sid x.2.1 x.2.2.1 1 x.2.2.2 0 (tag * 4 + x.1) 0 0 0 .n64) s
      | .atomic pa va size aop op1 op2 =>
        (mark 1 s).strandRequest sid pa va 3 (Nat.log2 size) aop (tag * 4) op1 op2 0 .n64
      | .oryx op desc key val =>
        { mark 1 s with oryx := s.oryx ++ [{ sid, op, desc, key, val, at_ := s.cycleOf sid, tag }] }
      | .tlbinv _ _ _ => s
      | .drops key l =>
        (mark l.length s) |> fun s => l.foldl (fun s x =>
          if x.1 = s.devid.toNat % 4096 then s.post [.combineDrop x.2.1 (.drop x.2.2 key.1 key.2 x.1 sid tag)]
          else s.send (.engine x.1 x.2.1 4 [x.2.2, key.1, key.2, s.devid.toNat % 4096, sid, tag])) s

end Sys2Proof.Machine
end

