-- ==== Sys2Proof/Machine/Gather.lean ====
section
/-! DEFINITION. Gather and scatter: the address and data queues, parked elements and their replay (R282 to R284,
R368, R369, R371, R417, R425, R426). A gather element performs as a load of the strand's queue does, in program order,
and a scatter element's store stands among the strand's stores from its push on; each completes, or parks, some cycles
later. -/

namespace Sys2Proof.Machine

/-- Where an element goes, and the cause for which it parks instead (R368, R425): 0 for none. -/
def State.elemCause (s : State) (sid : Nat) (acc : Acc) (n : Nat) (p : Int) : Nat :=
  if p < 0 || p ≥ 2 ^ 64 || !canonical p.toNat then 0x15
  else match s.access (s.spaceOf sid) acc n p.toNat with
    | .error c => c
    | .ok (_, ty, .mem a, _) => if ty = 2 || regionOf a = .host then 0x12 else 0
    | .ok _ => 0x12

/-- The address of an element (R368): exact. -/
def elemAddr (base idx : Word) (z : Nat) : Int := (base.toNat : Int) + idx.toInt * z

/-- What a push meets (R368, R425): a misaligned base; a full address queue, a data queue with no slot free
(log 18) or an overflow register in use (R282). -/
def pushObs (t : Ty) (scatter : Bool) (ea : Addr) (s : State) : Option Obstacle :=
  let base := s.me.regs.addr ea
  if base % t.bytes != 0 then rollTrap 0x08 base
  else if 64 ≤ s.me.aq.length || (!scatter && 64 ≤ s.me.dq.length) || s.myCore.overflow.isSome
  then some (.wait (.aqSpace !scatter))
  else none

/-- A push, once nothing stands in its way (R368, R425). -/
def effPush (t : Ty) (scatter : Bool) (ea : Addr) (sb sc : BitVec 6) (s : State) : State :=
  let n := t.bytes
  let r := s.me.regs
  let idx := r.rs sb
  let p := elemAddr (BitVec.ofNat 64 (r.addr ea)) idx n
  let va := (p % 2 ^ 64).toNat
  let acc : Acc := if scatter then .write else .read
  let c := s.spaceOf s.cur
  let cause := s.elemCause s.cur acc n p
  let data := (r.rs sc).toNat % 2 ^ (8 * n)
  let slot := s.me.nextSlot
  let e : Elem :=
    { sid := s.cur, va, index := idx.toNat, ty := t, scatter, data := if scatter then data else 0, slot
      seq := s.issue.seq, cause, ready := s.issue.cycle + Config.elementLatency, done := scatter || cause != 0 }
  let s : State :=
    if cause != 0 then s
    else match s.access c acc n va with
      | .error _ => s
      | .ok (pa, _, _, x) =>
        let f := s.fillOf c va pa scatter x
        let s := s.commitXlat c acc x
        if scatter then s.gateStore .write pa va n data (2 ^ n - 1) none f
        else s.queueLoad (.elem slot) t pa va n (2 ^ n - 1) f false Config.elementLatency
  s.updMe (fun st => { st with
    aq := st.aq ++ [e]
    dq := if scatter then st.dq else st.dq ++ [{ id := slot, data := none, held := false, seq := s.issue.seq }]
    nextSlot := if scatter then st.nextSlot else st.nextSlot + 1 })

/-- GIDX (R368). -/
def execGidx (t : Ty) (ea : Addr) (sb : BitVec 6) (s : State) : Host.Outcome State Fault Refusal :=
  .next (s.gate (pushObs t false ea) (effPush t false ea sb 0))

/-- SIDX (R425). -/
def execSidx (t : Ty) (ea : Addr) (sb sc : BitVec 6) (s : State) : Host.Outcome State Fault Refusal :=
  .next (s.gate (pushObs t true ea) (effPush t true ea sb sc))

/-- What GPOP meets (R371): no slot, or a slot whose data is not present. -/
def gpopObs (s : State) : Option Obstacle :=
  match s.me.dq with
  | [] => some (.trap .precise (Trap.of 0x07 0))
  | d :: _ => if d.data.isNone then some (.wait .dqData) else none

/-- GPOP (R371, R369): the oldest entry, kept for a rollback of its region. -/
def execGpop (sd : BitVec 6) (s : State) : Host.Outcome State Fault Refusal :=
  .next (s.gate gpopObs (fun s =>
    match s.me.dq with
    | [] => s
    | d :: rest =>
      (s.updMe (fun st => { st with
        dq := rest, mark := { st.mark with popped := st.mark.popped ++ [d] } })).putSLock sd (d.data.getD 0) 2))

/-- The core without an element, wherever it is held. -/
def Core.unpark (c : Core) (e : Elem) : Core :=
  { c with fq := c.fq.erase e, overflow := if c.overflow = some e then none else c.overflow }

/-- The cause of an element replayed (R283): one that is not canonical stays so. -/
def State.replayCause (s : State) (e : Elem) : Nat :=
  if e.cause = 0x15 then 0x15
  else s.elemCause e.sid (if e.scatter then .write else .read) e.ty.bytes e.va

/-- What GPOP.rp meets (R283): the element's fault, if it faults again. -/
def replayObs (s : State) : Option Obstacle :=
  match s.myCore.oldestParked s.cur with
  | none => none
  | some e =>
    let c := s.replayCause e
    if c = 0 then none else rollTrap c (if c = 0x15 then e.index else e.va)

/-- GPOP.rp (R283): the replay, and the count of the strand's elements still parked. The store of a scatter
enters the store queue, as its place among the strand's stores is gone (R426). -/
def execGpopRp (sd : BitVec 6) (s : State) : Host.Outcome State Fault Refusal :=
  .next (s.gate replayObs (fun s =>
    match s.myCore.oldestParked s.cur with
    | none => s.putSLock sd 0 Config.missLatency
    | some e =>
      let c := s.spaceOf s.cur
      let n := e.ty.bytes
      let s : State := match s.access c (if e.scatter then .write else .read) n e.va with
        | .error _ => s
        | .ok (pa, _, _, x) =>
          let f := s.fillOf c e.va pa e.scatter x
          let s := s.commitXlat c (if e.scatter then .write else .read) x
          if e.scatter then
            s.updMe (fun (st : Strand) => { st with storeQ := st.storeQ ++
              [{ kind := .write, pa, va := e.va, size := n, data := e.data, bmask := 2 ^ n - 1, rel := none
                 seq := s.issue.seq, ready := s.issue.cycle + Config.drainDelay, after := st.fenceSeq, fill := f
                 sq := false }] })
          else
            let v := extendTy e.ty (s.readOwn s.cur pa n)
            ((s.cacheRead pa f).2.poisonReport s.cur pa n).updMe (fun st => { st with
              dq := st.dq.map (fun d => if d.id = e.slot then { d with data := some v, held := false } else d) })
      let s := s.updCore (coreOf s.cur) (fun c => c.unpark e)
      let left := (s.myCore.parked s.cur).length +
        (match s.myCore.overflow with | some o => b2n (o.sid == s.cur) | none => 0)
      s.settleChans.putSLock sd (BitVec.ofNat 64 left) Config.missLatency))

/-- Consecutive slots from the head whose data is present. -/
def readySlots : List DqSlot → Nat
  | [] => 0
  | d :: rest => if d.data.isSome then 1 + readySlots rest else 0

/-- QSTAT (R417). -/
def execQstat (sd : BitVec 6) (s : State) : Host.Outcome State Fault Refusal :=
  let c := s.myCore
  let st := s.me
  .next (s.putSLock sd (BitVec.ofNat 64 (fields
    [(49, 256 - c.fq.length), (40, (c.parked s.cur).length),
     (32, match c.overflow with | some e => b2n (e.sid == s.cur) | none => 0),
     (16, readySlots st.dq), (8, st.dq.length), (0, st.aq.length)])) 3)

/-! ### Elements that complete or park -/

/-- The oldest element of a strand's address queue, when it has performed and its time has come. -/
def State.elemDue (s : State) (sid : Nat) : Option Elem :=
  match (s.strand sid).aq with
  | e :: _ => if e.done && e.ready ≤ s.cycleOf sid then some e else none
  | [] => none

/-- GATHER_DATA_ARRIVAL (R368): the data of the oldest element fills its slot. -/
def execGatherDataArrival (sid : Nat) (s : State) : Host.Outcome State Fault Refusal :=
  match s.elemDue sid with
  | none => .next s
  | some e =>
    if e.scatter || e.cause != 0 then .next s
    else .next (s.updStrand sid (fun st => { st with
      aq := st.aq.drop 1
      dq := st.dq.map (fun d => if d.id = e.slot then { d with data := some (BitVec.ofNat 64 e.data) } else d) })).settleChans

/-- SCATTER_ELEMENT_COMPLETE (R286): the store of the oldest element is in the strand's stores. -/
def execScatterElementComplete (sid : Nat) (s : State) : Host.Outcome State Fault Refusal :=
  match s.elemDue sid with
  | none => .next s
  | some e =>
    if !e.scatter || e.cause != 0 then .next s
    else .next (s.updStrand sid (fun st => { st with aq := st.aq.drop 1 })).settleChans

/-- The state with an element parked (R282): its slot held, and the owner's fault reported with the oldest parked
element's address, or its index for 0x15. -/
def State.park (s : State) (e : Elem) : State :=
  let n := coreOf e.sid
  let s := s.updCore n (fun c => { c with fq := c.fq ++ [e] })
  let oldest := ((s.core n).parked e.sid).headD e
  s.updStrand e.sid (fun st => { st with
    dq := if e.scatter then st.dq else st.dq.map (fun d => if d.id = e.slot then { d with held := true } else d)
    reports := if st.reports.any (fun r => r.fq) then st.reports
      else st.reports ++ [⟨oldest.cause, if oldest.cause = 0x15 then oldest.index else oldest.va, true, false⟩] })

/-- ELEMENT_FAULT (R282): the element parks; when the fault queue is full it goes to the overflow register and
raises 0x16; the overflow register's element parks once there is room. -/
def execElementFault (sid : Nat) (s : State) : Host.Outcome State Fault Refusal :=
  let n := coreOf sid
  let c := s.core n
  match c.overflow with
  | some o =>
    if o.sid = sid && c.fq.length < 256
    then .next ((s.updCore n (fun c => { c with overflow := none })).park o)
    else .next s
  | none =>
    match s.elemDue sid with
    | none => .next s
    | some e =>
      if e.cause = 0 then .next s
      else
        let s := s.updStrand sid (fun st => { st with aq := st.aq.drop 1 })
        if c.fq.length < 256 then .next (s.park e)
        else .next ((s.updCore n (fun c => { c with overflow := some e })).updStrand sid (fun st => { st with
          dq := if e.scatter then st.dq
            else st.dq.map (fun d => if d.id = e.slot then { d with held := true } else d)
          reports := st.reports ++ [Trap.of 0x16 e.va] }))

end Sys2Proof.Machine
end

