-- ==== Sys2Proof/Machine/Selector.lean ====
section
/-! DEFINITION. The selector of an issue path (R21 to R23), the waits of a strand (R19, R20, R478), and leases
that run out (R100). -/

namespace Sys2Proof.Machine

/-- The issue path of a strand. -/
def pathOf (sid : Nat) : Nat := coreOf sid

/-- The strands of a path in the order of choice after one of them (R22). -/
def rotation (sid : Nat) : List Nat :=
  let l := pathStrands (pathOf sid)
  (l.filter (fun i => decide (sid < i))) ++ (l.filter (fun i => decide (i ≤ sid)))

namespace State

/-- Is another strand of the path READY? -/
def otherReady (s : State) (sid : Nat) : Bool :=
  (pathStrands (pathOf sid)).any (fun i => i != sid && (s.strand i).run == .ready)

/-- The strand in RUN on a path, if any. -/
def running (s : State) (path : Nat) : Option Nat :=
  (pathStrands path).find? (fun i => (s.strand i).run == .run)

/-- The state after the selector has chosen, when no strand of the path is in RUN: the first READY strand in
rotation, whose first bundle issues two cycles after `base` (R22). -/
def reselect (s : State) (sid base : Nat) : State :=
  match s.running (pathOf sid) with
  | some _ => s
  | none =>
    match (rotation sid).find? (fun i => (s.strand i).run == .ready) with
    | none => s
    | some i =>
      (s.updStrand i (fun st =>
        { st with run := .run, qcount := 0, nextIssue := max st.nextIssue (base + 2) })).updCore (pathOf sid)
        (fun c => { c with cur := BitVec.ofNat 2 (strandIn i), wake := 0 })

/-- The state after a strand has left RUN: its gated stores leave, its next bundle carries RMARK (R119). -/
def leave (s : State) (sid : Nat) (r : Run) (w : Wait) : State :=
  s.updStrand sid (fun st => { st.release with run := r, wait := w, forceMark := true, qcount := 0 })

/-- A switch point (R21): the strand gives the path up if another strand is READY. -/
def switch (s : State) (sid : Nat) : State :=
  let st := s.strand sid
  if st.run = .run && s.otherReady sid
  then (s.leave sid .ready .none).reselect sid (st.lastIssue + st.lastStall)
  else s

/-- The state with a strand that has become READY in RUN on an idle core (R22): its first bundle issues 2 cycles later. -/
def chooseIdle (s : State) (sid : Nat) : State :=
  let t := s.cycleOf sid
  (s.updStrand sid (fun st => { st with run := .run, qcount := 0, nextIssue := max st.nextIssue (t + 2) })).updCore
    (pathOf sid) (fun c => { c with cur := BitVec.ofNat 2 (strandIn sid), wake := t + 1 })

/-- A strand becomes READY (R20). On an idle core it is chosen, and of several that become READY in one cycle the
lowest-numbered (R22). -/
def wake (s : State) (sid : Nat) : State :=
  let s := s.updStrand sid (fun st => { st with run := .ready, wait := .none })
  match s.running (pathOf sid) with
  | none => s.chooseIdle sid
  | some r =>
    if sid < r && (s.core (pathOf sid)).wake == s.cycleOf sid + 1
    then (s.updStrand r (fun st => { st with run := .ready })).chooseIdle sid
    else s

/-- An interrupt that a strand may take (R285): the lowest pending and enabled number. -/
def interruptOf (s : State) (sid : Nat) : Option Nat :=
  let st := s.strand sid
  if st.ie && !st.inh && !isThread sid then
    (List.range 5).find? (fun i => (s.ipendOf sid &&& st.ienable).getLsbD i)
  else none

/-- Is what a strand waits for the case (R20)? A hold ends by itself (R23). -/
def waitMet (s : State) (sid : Nat) : Bool :=
  let st := s.strand sid
  let c := s.core (coreOf sid)
  match st.wait with
  | .none => false
  | .aqSpace gather => decide (st.aq.length < 64) && (!gather || decide (st.dq.length < 64)) && c.overflow.isNone
  | .dqData => match st.dq with
    | d :: _ => d.data.isSome
    | [] => true
  | .chan ch =>
    s.observed (dieOf sid) ch == st.tags.getD ch 0 + 1 || !st.pend.getLsbD ch
  | .calls n => decide (c.own sid ≤ n)
  | .line _ d => decide (d ≤ s.cycleOf sid)
  | .lqSpace q =>
    let x := c.lq.getD q Lq.init
    x.role != .tx || x.down || (x.avail != 0 && !s.lqPaused (coreOf sid) x)
  | .lqData q =>
    let x := c.lq.getD q Lq.init
    x.role != .rx || x.down || x.complete x.count
  | .hold => false

/-- May the hold of a strand be broken by a trap or an interrupt (R23)? Not that of SPST or SPADD, from when its request has
left until its bundle has issued. -/
def breakable (s : State) (sid : Nat) : Bool :=
  match (s.strand sid).request with
  | some p => !p.sent || (match p.req with | .oryx _ _ _ _ => false | _ => true)
  | none => true

/-- A strand in WAIT may become READY: its condition is met, a report waits, or an enabled interrupt is
pending (R20, R282). -/
def wakeDue (s : State) (sid : Nat) : Bool :=
  let st := s.strand sid
  st.run == .waiting && (s.waitMet sid ||
    (s.breakable sid && (!st.takeable.isEmpty || (s.interruptOf sid).isSome)))

/-- A strand that has ended its part of a launch (R372): its unpopped entries go, its state is HALTED. -/
def halted (s : State) (sid : Nat) : State :=
  let st := s.strand sid
  let s := (s.leave sid .halted .none).updStrand sid (fun st => { st with
    dq := [], halting := false, mark := { st.mark with popped := [] } })
  let s := if isThread sid then s.post [.chreqEnd sid] else s
  s.reselect sid (st.lastIssue + st.lastStall)

end State

/-- QUANTUM_EXPIRY (R21): after 256 bundles the selector switches, or the count restarts. -/
def execQuantumExpiry (path : Nat) (s : State) : Host.Outcome State Fault Refusal :=
  match s.running path with
  | none => .next s
  | some sid =>
    if (s.strand sid).qcount < 256 then .next s
    else if s.otherReady sid then .next (s.switch sid)
    else .next (s.updStrand sid (fun st => { st with qcount := 0 }))

/-- HOLD_TIMEOUT (R23): a hold of 64 cycles while another strand is READY puts the strand in WAIT, and its gated stores leave
(R119); those of the held bundle are not among them, since it has not acted. -/
def execHoldTimeout (path : Nat) (s : State) : Host.Outcome State Fault Refusal :=
  match s.running path with
  | none => .next s
  | some sid =>
    match (s.strand sid).holdFrom with
    | some t =>
      if t + 64 ≤ s.cycleOf sid && s.otherReady sid
      then .next ((s.leave sid .waiting .hold).reselect sid (s.cycleOf sid))
      else .next s
    | none => .next s

/-- HOLD_END (R23): the hold of a strand in WAIT has ended, and the strand is READY. The step finds when. -/
def execHoldEnd (sid : Nat) (s : State) : Host.Outcome State Fault Refusal :=
  if (s.strand sid).run = .waiting && (s.strand sid).wait = .hold then .next (s.wake sid) else .next s

/-- WAIT_CONDITION_MET (R20, R478): the strand becomes READY. -/
def execWaitConditionMet (sid : Nat) (s : State) : Host.Outcome State Fault Refusal :=
  if s.wakeDue sid then .next (s.wake sid) else .next s

end Sys2Proof.Machine
end

