-- ==== Sys2Proof/Machine/Branch.lean ====
section
/-! DEFINITION. The branch slots (R46 to R52, R320, R321, R345 to R381, R419, R436, R439, R464): where the next
bundle is, the loop levels, and the system operations. A branch acts on the pc at once; `Issue.target` says that
a branch of the bundle was taken. -/

namespace Sys2Proof.Machine

namespace State

/-- The code image of a Chamois thread, as its job captured it (R240): dictionary, entries, stream, halfwords. -/
def threadCode (s : State) (sid : Nat) : Option (Nat × Nat × Nat × Nat) :=
  let d := s.die (dieOf sid)
  match d.route with
  | none => none
  | some r => match d.jobs.find? (fun j => j.id == r.job) with
    | none => none
    | some j => some (j.card.getD 2 0, bitsN r.cfg 576 32, j.card.getD 3 0, bitsN r.cfg 608 32)

/-- The local address of byte b of the code image in a core's instruction store, dictionary first (R303). -/
def codeAddr (s : State) (core b : Nat) : Option Nat :=
  let a := (s.core core).dictbase.toNat * 16 + b
  if a + 2 ≤ 2 ^ 19 then some (istoreBase + core * 2 ^ 19 + a) else none

/-- Dictionary entries of the code that a strand runs. -/
def dictLen (s : State) (sid : Nat) : Nat :=
  if isThread sid then (match s.threadCode sid with
    | some c => c.2.1
    | none => 0)
  else (s.core (coreOf sid)).dictlen.toNat

/-- The halfword of the stream at an offset (R303). -/
def streamHalf (s : State) (sid off : Nat) : Option Nat :=
  if isThread sid then (match s.threadCode sid with
    | some c => if off < c.2.2.2 then some (bitsN c.2.2.1 (16 * off) 16) else none
    | none => none)
  else (s.codeAddr (coreOf sid) (48 * s.dictLen sid + 2 * off)).map (fun a => s.readMem a 2)

/-- Dictionary entry i of the code that a strand runs (R303). -/
def dictEntry (s : State) (sid i : Nat) : Nat :=
  if isThread sid then (match s.threadCode sid with
    | some c => bitsN c.1 (384 * i) 384
    | none => 0)
  else match s.codeAddr (coreOf sid) (48 * i) with
    | some a => s.readMem a 48
    | none => 0

/-- The 24 halfwords after an escape at an offset, if the code image holds them all (R303). -/
def literalAt (s : State) (sid off : Nat) : Option Nat :=
  match s.streamHalf sid (off + 24) with
  | none => none
  | some _ => some ((List.range 24).foldl (fun a i => a + (s.streamHalf sid (off + 1 + i)).getD 0 * 2 ^ (16 * i)) 0)

/-- Halfwords of the bundle at an offset (R37). -/
def bundleLen (s : State) (sid off : Nat) : Nat := if s.streamHalf sid off = some 0xFFFF then 25 else 1

end State

/-- The registers with a level and every level inside it inactive (R51). -/
def Regs.closeFrom (r : Regs) (l : Nat) : Regs :=
  { r with loops := Vector.ofFn (fun i =>
      if l ≤ i.val then { r.loop i.val with active := false } else r.loop i.val) }

/-- Is an offset in the body of a level? -/
def Loop.holds (x : Loop) (off : Nat) : Bool := decide (x.beg.toNat ≤ off) && decide (off ≤ x.fin.toNat)

/-- The registers after a taken branch to an offset: the first active level whose body does not hold it, and
every level inside that one, are left (R51). -/
def Regs.leaveLoops (r : Regs) (off : Nat) : Regs :=
  match (List.range 6).find? (fun l => (r.loop l).active && !(r.loop l).holds off) with
  | some l => r.closeFrom l
  | none => r

namespace State

/-- The state with a taken branch (R46, R48, R51): squash and the new pc; beside a branch of B0 to another
target only the loop effects, and the collision. The flag says whether the branch stands. -/
def takeBranch (s : State) (tgt : BitVec 18) : State :=
  let s := s.updMe (fun st => { st with regs := st.regs.leaveLoops tgt.toNat })
  match s.issue.target with
  | some t =>
    if t = tgt then s
    else
      let s := s.setBrcoll
      if s.issue.bctrap then s.afterBundle (Trap.of 0x06 0) else s
  | none =>
    let s := s.updMe (fun st => { st.squash s.issue.cycle s.issue.seq with pc := tgt })
    { s with issue := { s.issue with target := some tgt } }

/-- Does a branch to an offset stand beside the branch that B0 has taken (R321)? -/
def branchStands (s : State) (tgt : BitVec 18) : Bool :=
  match s.issue.target with
  | some t => t == tgt
  | none => true

/-- The target of a relative branch (R346). -/
def relTarget (s : State) (off : BitVec 22) : BitVec 18 := s.issue.off + off.setWidth 18

end State

/-- BR (R346). -/
def execBr (off : BitVec 22) (s : State) : Host.Outcome State Fault Refusal :=
  .next (s.takeBranch (s.relTarget off))

/-- JMP (R373). -/
def execJmp (sa : BitVec 6) (s : State) : Host.Outcome State Fault Refusal :=
  .next (s.takeBranch ((s.me.regs.rs sa).setWidth 18))

/-- RET (R419). -/
def execRet (sa : BitVec 6) (s : State) : Host.Outcome State Fault Refusal :=
  .next (s.takeBranch ((s.me.regs.rs sa).setWidth 18))

/-- CALL (R348): the link is the offset after the bundle, and is not written beside another branch of B0. -/
def execCall (sd : BitVec 6) (off : BitVec 22) (s : State) : Host.Outcome State Fault Refusal :=
  let tgt := s.relTarget off
  let link : Word := BitVec.ofNat 64 (s.issue.off.toNat + s.issue.len)
  .next (if s.branchStands tgt then (s.takeBranch tgt).putS sd link 1 else s.takeBranch tgt)

/-- The Precise trap of a level in the wrong state (R49, R376, R381). -/
def badLevel : Option Obstacle := some (.trap .precise (Trap.of 0x02 0))

/-- What LOOP meets (R49, R380): an active level, an active level inside, an end beyond an enclosing end, and an
end that does not reach the body. -/
def loopObs (l : BitVec 3) (off : BitVec 22) (s : State) : Option Obstacle :=
  let r := s.me.regs
  let fin := s.issue.off.toNat + off.toNat
  if (r.loop l.toNat).active then badLevel
  else if (List.range 6).any (fun m => decide (l.toNat < m) && (r.loop m).active) then badLevel
  else if (List.range 6).any (fun m => decide (m < l.toNat) && (r.loop m).active && decide ((r.loop m).fin.toNat < fin))
  then badLevel
  else if fin < s.issue.off.toNat + s.issue.len then badLevel
  else none

/-- LOOP (R49, R380): the level is opened, or with CNT 0 skipped. -/
def execLoop (l : BitVec 3) (off : BitVec 22) (s : State) : Host.Outcome State Fault Refusal :=
  .next (s.gate (loopObs l off) (fun s =>
    let fin := s.issue.off.toNat + off.toNat
    let x := s.me.regs.loop l.toNat
    if x.cnt = 0 then
      if s.issue.target.isSome then s
      else s.updMe (fun st => { st with pc := BitVec.ofNat 18 (fin + s.bundleLen s.cur fin) })
    else
      let y : Loop :=
        { x with beg := BitVec.ofNat 32 (s.issue.off.toNat + s.issue.len), fin := BitVec.ofNat 32 fin
                 active := true }
      s.updMe (fun st =>
        let r := st.regs.setLoop l.toNat y
        { st with regs := { r with k := r.k.setIfInBounds l.toNat 0 } })))

/-- LBREAK (R51, R376): the level and those inside it are left, and the next bundle is the one after END. -/
def execLbreak (l : BitVec 3) (s : State) : Host.Outcome State Fault Refusal :=
  .next (s.gate (fun s => if (s.me.regs.loop l.toNat).active then none else badLevel) (fun s =>
    let fin := (s.me.regs.loop l.toNat).fin.toNat
    let tgt := BitVec.ofNat 18 (fin + s.bundleLen s.cur fin)
    (s.updMe (fun st => { st with regs := st.regs.closeFrom l.toNat })).takeBranch tgt))

/-- What LPSET meets (R381). -/
def lpsetObs (l : BitVec 3) (s : State) : Option Obstacle :=
  if (s.me.regs.loop l.toNat).active then badLevel else none

/-- LPSET.cnt (R381). -/
def execLpsetCnt (l : BitVec 3) (sr : BitVec 6) (s : State) : Host.Outcome State Fault Refusal :=
  .next (s.gate (lpsetObs l) (fun s => s.updMe (fun st =>
    let x := st.regs.loop l.toNat
    let y : Loop := { x with cnt := (st.regs.rs sr).setWidth 32, strides := Vector.replicate 16 0 }
    { st with regs := st.regs.setLoop l.toNat y })))

/-- LPSET.str (R381). -/
def execLpsetStr (l : BitVec 3) (ar : BitVec 4) (sr : BitVec 6) (s : State) :
    Host.Outcome State Fault Refusal :=
  .next (s.gate (lpsetObs l) (fun s => s.updMe (fun st =>
    let x := st.regs.loop l.toNat
    let y : Loop := { x with strides := x.strides.set ar.toNat ((st.regs.rs sr).setWidth 32) ar.isLt }
    { st with regs := st.regs.setLoop l.toNat y })))

namespace State

/-- A system operation at the end of its bundle: in a bundle it is noted, alone it acts. -/
def atEnd (s : State) (op : Nat) (act : State → State) : State :=
  if s.issue.checked then { s with issue := { s.issue with system := some op } } else act s

/-- Has what a HALT waits for come (R372): every pushed element has completed, none is parked, and the strand's gated stores
have left? A release store counts as gated until its release has been made, as A's flag store does in the run of chapter 24
(DEDUCED, log 37). -/
def haltReady (s : State) (sid : Nat) : Bool :=
  let st := s.strand sid
  st.aq.isEmpty && ((s.core (coreOf sid)).oldestParked sid).isNone &&
    (st.gated ++ st.storeQ).all (fun p => p.rel.isNone)

/-- HALT, once its bundle is complete (R372): HALTED, or a hold of the issue path with the strand in RUN, under R23, and the
HALT bundle as that of a fault (DESIGN CHOICE, log 37). -/
def doHalt (s : State) : State :=
  let s := s.updMe Strand.release
  if s.haltReady s.cur then s.halted s.cur
  else (s.updMe (fun st => { st with halting := true })).hold

/-- BKPT, once its bundle is complete and the debugger is enabled (R345). -/
def doBkpt (s : State) : State := (s.enterDebug s.cur).reselect s.cur (s.cycleOf s.cur)

end State

/-- YIELD (R464): a switch point at the end of the bundle. -/
def execYield (s : State) : Host.Outcome State Fault Refusal :=
  .next (s.atEnd 8 (fun s => s.switch s.cur))

/-- HALT (R372). -/
def execHalt (s : State) : Host.Outcome State Fault Refusal :=
  .next (s.atEnd 9 State.doHalt)

/-- BKPT (R345): DEBUG with DBGCTL.EN, cause 0x30 otherwise; in a Chamois thread EN counts as 0. -/
def execBkpt (s : State) : Host.Outcome State Fault Refusal :=
  if s.issue.dbgEn && !isThread s.cur then .next (s.atEnd 10 State.doBkpt)
  else .next (s.afterBundle (Trap.of 0x30 0))

/-- TRAP (R439). -/
def execTrap (imm : BitVec 16) (s : State) : Host.Outcome State Fault Refusal :=
  .next (s.afterBundle (Trap.of 0x31 imm.toNat))

/-- SVC (R436). -/
def execSvc (imm : BitVec 16) (s : State) : Host.Outcome State Fault Refusal :=
  .next (s.afterBundle (Trap.of 0x32 imm.toNat))

/-- ERET (R281, R362): a taken branch to EPC, and the return; beside a branch of B0 elsewhere it has no
effect. -/
def execEret (s : State) : Host.Outcome State Fault Refusal :=
  .next (s.gate (fun s => if s.me.priv = 0 then some (.trap .precise (Trap.of 0x04 0)) else none) (fun s =>
    if s.branchStands s.issue.epc then (s.takeBranch s.issue.epc).returnFromTrap
    else s.takeBranch s.issue.epc))

end Sys2Proof.Machine
end

