-- ==== Sys2Proof/Machine/Gcm.lean ====
section
/-! DEFINITION. AES-256 in Galois/Counter mode, the algorithm that R209 names, over one cell: 8 bytes of additional data and a
plaintext of 128 bytes. The algorithm itself is the published standard (PRESUMED, log 12). Blocks are numbers whose most
significant byte comes first. -/

namespace Sys2Proof.Machine

/-- n bytes of a value in the opposite order. -/
def revBytes (v : Nat) : Nat → Nat
  | 0 => 0
  | n + 1 => v % 256 * 256 ^ n + revBytes (v / 256) n

/-- Twice an element of GF(2^8). -/
def gfTwice (a : Nat) : Nat := if a < 128 then 2 * a else (2 * a) ^^^ 0x11B

/-- A product in GF(2^8), over the n low bits of b. -/
def gfMul (a b : Nat) : Nat → Nat
  | 0 => 0
  | n + 1 => (if bitN b 0 then a else 0) ^^^ gfMul (gfTwice a) (b / 2) n

/-- a to the power 2^k - 2 in GF(2^8): with k = 8 the inverse, and 0 for 0. -/
def gfInv (a : Nat) : Nat → Nat
  | 0 => 1
  | 1 => 1
  | k + 1 => let x := gfMul (gfInv a k) a 8; gfMul x x 8

/-- A byte turned left. -/
def rotByte (a n : Nat) : Nat := (a * 2 ^ n + a / 2 ^ (8 - n)) % 256

/-- The S-box. -/
def sboxTable : List Nat := (List.range 256).map (fun x =>
  let i := gfInv x 8
  i ^^^ rotByte i 1 ^^^ rotByte i 2 ^^^ rotByte i 3 ^^^ rotByte i 4 ^^^ 0x63)

/-- A byte through the S-box. -/
def sbox (x : Nat) : Nat := sboxTable.getD x 0

/-- The n bytes of a number, most significant first. -/
def bytesOf (v n : Nat) : List Nat := (List.range n).map (fun i => bitsN v (8 * (n - 1 - i)) 8)

/-- The number of bytes given most significant first. -/
def ofBytes (l : List Nat) : Nat := l.foldl (fun a b => a * 256 + b % 256) 0

/-- Two lists of bytes added in GF(2). -/
def xorBytes (a b : List Nat) : List Nat := List.zipWith (· ^^^ ·) a b

/-- The 60 words of the schedule of a 256-bit key. -/
def keySchedule (key : Nat) : List (List Nat) :=
  let kb := bytesOf key 32
  (List.range 52).foldl (fun w n =>
    let i := n + 8
    let prev := w.getD (i - 1) []
    let t := if i % 8 = 0
      then xorBytes ((prev.drop 1 ++ prev.take 1).map sbox) [(List.range (i / 8 - 1)).foldl (fun a _ => gfTwice a) 1, 0, 0, 0]
      else if i % 8 = 4 then prev.map sbox
      else prev
    w ++ [xorBytes (w.getD (i - 8) []) t]) ((List.range 8).map (fun i => (kb.drop (4 * i)).take 4))

/-- The key of a round of a schedule. -/
def roundKey (w : List (List Nat)) (r : Nat) : List Nat := ((w.drop (4 * r)).take 4).flatten

/-- The rows of a block shifted. -/
def shiftRows (b : List Nat) : List Nat := (List.range 16).map (fun i => b.getD ((i + 4 * (i % 4)) % 16) 0)

/-- The columns of a block mixed. -/
def mixColumns (b : List Nat) : List Nat := (List.range 16).map (fun i =>
  let x (k : Nat) : Nat := b.getD (i / 4 * 4 + (i + k) % 4) 0
  gfTwice (x 0) ^^^ gfTwice (x 1) ^^^ x 1 ^^^ x 2 ^^^ x 3)

/-- A block enciphered under a schedule. -/
def aesBlock (w : List (List Nat)) (v : Nat) : Nat :=
  let mid := (List.range 13).foldl (fun b r =>
    xorBytes (mixColumns (shiftRows (b.map sbox))) (roundKey w (r + 1))) (xorBytes (bytesOf v 16) (roundKey w 0))
  ofBytes (xorBytes (shiftRows (mid.map sbox)) (roundKey w 14))

/-- A product in GF(2^128), the leading bit of x first, over n bits. -/
def ghashMul (x : Nat) : Nat → Nat → Nat
  | 0, _ => 0
  | n + 1, v => (if bitN x n then v else 0) ^^^ ghashMul x n (if bitN v 0 then v / 2 ^^^ 0xE1 * 2 ^ 120 else v / 2)

/-- GHASH of blocks under a key. -/
def ghash (h : Nat) (blocks : List Nat) : Nat := blocks.foldl (fun y b => ghashMul (y ^^^ b) 128 h) 0

/-- The 1,024-bit keystream for a payload under a key and a nonce, byte 0 in the low bits. -/
def gcmStream (key nonce : Nat) : Nat :=
  let w := keySchedule key
  revBytes (((List.range 8).map (fun i => aesBlock w (nonce * 2 ^ 32 + i + 2))).foldl (fun a b => a * 2 ^ 128 + b) 0) 128

/-- The first 64 bits of the tag over a header and the 128 enciphered bytes, its first byte in the low bits (R209). -/
def gcmTag (key nonce hdr cipher : Nat) : Nat :=
  let w := keySchedule key
  let c := revBytes cipher 128
  let blocks := [revBytes hdr 8 * 2 ^ 64] ++ (List.range 8).map (fun i => bitsN c (128 * (7 - i)) 128) ++
    [64 * 2 ^ 64 + 1024]
  revBytes ((ghash (aesBlock w 0) blocks ^^^ aesBlock w (nonce * 2 ^ 32 + 1)) / 2 ^ 64) 8

end Sys2Proof.Machine
end

