-- ==== Sys2Proof/Machine/Atomics.lean ====
section
/-! DEFINITION. Atomics (R127 to R129, R335 to R337, R414 to R416): the operation by its AOP (R314), its
obstacles, and its execution at once, at the head of the store queue, or at a remote home. -/

namespace Sys2Proof.Machine

/-- The AOP of an operation (R314): OP, SC[3:0] and TYPE. -/
def aopOf (op sc : Nat) (t : Ty) : Nat := op + 32 * sc + 512 * t.code

/-- What an atomic does to a word of w bits: the new value if it writes, and the flag of R129; `old`, `lim`
(the word above) and the two operands are w-bit patterns (R129, R335, R337). -/
def atomicEval (aop old lim a b : Nat) : Option Nat × Bool :=
  let op := bitsN aop 0 5
  let f := bitsN aop 5 4
  let t := (Ty.ofCode (bitsN aop 9 4)).getD .n64
  let w := t.width
  let x := intOf t old
  let y := intOf t a
  if op = 0x0E then
    (some (match f with
      | 0 => (old + a) % 2 ^ w
      | 1 => old &&& a
      | 2 => old ||| a
      | 3 => old ^^^ a
      | 4 => a
      | 5 => if x ≤ y then old else a
      | _ => if x ≤ y then a else old), false)
  else if op = 0x0F then ((if old = a then some b else none), false)
  else if op = 0x10 then (if old < a then (some (old + 1), true) else (none, false))
  else if op = 0x11 then
    let n := if old + 1 ≥ a then 0 else old + 1
    (some n, n == 0)
  else if op = 0x12 then (if 0 < old then (some (old - 1), true) else (none, false))
  else if old + a ≤ lim then (some (old + a), true) else (none, false)

/-- Bytes an atomic's word takes. -/
def aopBytes (aop : Nat) : Nat := ((Ty.ofCode (bitsN aop 9 4)).getD .n64).bytes

/-- Bytes that an atomic reads: QADDL's limit is the word above (R129). -/
def aopReads (aop : Nat) : Nat := if bitsN aop 0 5 = 0x13 then 2 * aopBytes aop else aopBytes aop

/-- Is it an atomic that the encodings give, of a type it takes (R129, R314, R335)? -/
def aopOk (aop : Nat) : Bool :=
  let op := bitsN aop 0 5
  match Ty.ofCode (bitsN aop 9 4) with
  | none => false
  | some t =>
    (op == 0x0E && decide (bitsN aop 5 4 ≤ 6) && t.isAmo) || (op == 0x0F && t.isAmo) ||
      (decide (0x10 ≤ op) && decide (op ≤ 0x13) && t.isN32or64)

namespace State

/-- The state with every strand that waits for a store to the line of a local address let go (R137). -/
def wakeLine (s : State) (a : Nat) : State :=
  { s with strands := s.strands.map (fun p =>
      match p.2.wait with
      | .line pa _ => if pa % 2 ^ 52 / 64 = a / 64 then (p.1, { p.2 with wait := .line pa 0 }) else p
      | _ => p) }

/-- The state with bytes at a local address visible to every observer (R112, R116): n bytes under a byte mask,
in a core's L1 where there is a line for it to enter, or else at the home. Poison goes with the bytes overwritten (R290). -/
def publish (s : State) (f : Option Fill) (a n v bmask : Nat) : State :=
  let s := s.writeBytes a v bmask n
  let s := { s with poison := s.poison.filter (fun p =>
    !(decide (a ≤ p) && decide (p < a + n) && bitN bmask (p - a))) }
  let s := if inHbm a then
      (match f with
       | some f => s.ownLine f a true
       | none => s.homeWrite a)
    else s
  s.wakeLine a

/-- The state with a writer's store visible at a local address: n bytes under a byte mask; what it leaves undefined of a unit's
work is free (R6). -/
def publishStore (s : State) (w : Writer) (f : Option Fill) (a n v bmask : Nat) : State :=
  (storeRuns bmask n).foldl (fun s r => s.clash w (a + r.1) r.2) (s.publish f a n v bmask)

/-- The state after an atomic at a local address: the old value, the flag (R127). It executes in the L1 of a core once the line
is held there in M, or else at the home. -/
def performAtomic (s : State) (w : Writer) (f : Option Fill) (a aop op1 op2 : Nat) : Nat × Bool × State :=
  let n := aopBytes aop
  let old := s.readMem a n
  let r := atomicEval aop old (s.readMem (a + n) n) op1 op2
  match r.1 with
  | some v => (old, r.2, s.publishStore w f a n v (2 ^ n - 1))
  | none => (old, r.2, match f with
    | some f => s.ownLine f a false
    | none => s)

end State

/-- Does a local atomic of the strand in issue wait in its store queue: for its earlier accesses, for its home, for a lease, or
for what its release covers (R100, R101, R116, R121, R127)? -/
def State.atomicQueues (s : State) (o : OrdSc) (a : Nat) : Bool :=
  !s.me.unseen.isEmpty || !s.me.aq.isEmpty || !s.me.loadQ.isEmpty || s.homeBusy a || (inHbm a && !s.leaseOver a) ||
    (match relScope o with | some sc => s.releaseHeld s.cur sc | none => false)

/-- The line a core's L1 holds in M or E (R127, R336). -/
def State.ownsLine (s : State) (a : Nat) : Bool :=
  let d := s.dirOf (lineOf a)
  !s.l2mode && (d.1 == 2 || d.1 == 3) && d.2.1 == clusterOf (coreOf s.cur) &&
    (s.core (coreOf s.cur)).l1.any (fun l => l.pline == lineOf a)

/-- What an atomic meets (R128, R336, R415); `al` is the alignment. A local one waits in the store queue (R127). A remote
one waits for its earlier releases and then for its home's answer (R132, R305). -/
def atomicObs (n al va aop op1 op2 : Nat) (o : OrdSc) (s : State) : Option Obstacle :=
  if va % al != 0 then rollTrap 0x08 va
  else match s.access (s.spaceOf s.cur) .atomic n va with
    | .error c => rollTrap c va
    | .ok (pa, _, d, _) =>
      match d with
      | .mem _ => none
      | .remote =>
        if !s.asked (.atomic pa va n aop op1 op2) && (s.loadHeld pa || !s.me.storeQ.isEmpty || !s.me.passed.isEmpty || !s.me.aq.isEmpty ||
            (match relScope o with | some sc => s.releaseHeld s.cur sc | none => false))
        then some .hold
        else s.askObs (.atomic pa va n aop op1 op2)
      | _ => rollTrap 0x12 va

/-- The results of an atomic that are known: the old value read in the type, and for a queue atomic the flag. -/
def State.putAtomic (s : State) (t : Ty) (sd : BitVec 6) (gd : Option (BitVec 4)) (old : Nat) (flag : Bool)
    (lat : Nat) : State :=
  let s := s.putSLock sd (extendTy t old) lat
  match gd with
  | some g => s.putG g flag lat true
  | none => s

/-- The results of an atomic that wait for an answer. -/
def State.awaitAtomic (s : State) (sd : BitVec 6) (gd : Option (BitVec 4)) (tag : Nat) : State :=
  let s := s.await (.s sd) (BitVec.allOnes 2048) tag
  match gd with
  | some g => s.await (.g g) (BitVec.allOnes 2048) tag
  | none => s

/-- An atomic, once nothing stands in its way (R127): at once when no earlier store waits, else at the end of
the store queue; a remote one as a request. -/
def effAtomic (t : Ty) (o : OrdSc) (sd : BitVec 6) (gd : Option (BitVec 4)) (va aop op1 op2 : Nat)
    (s : State) : State :=
  let c := s.spaceOf s.cur
  match s.access c .atomic t.bytes va with
  | .error _ => s
  | .ok (pa, _, d, x) =>
    let f := s.fillOf c va pa true x
    let s := s.commitXlat c .atomic x
    let k := s.nextTag * 4
    match d with
    | .remote =>
      let r : Req := .atomic pa va t.bytes aop op1 op2
      s.endRequest.putAtomic t sd gd (s.answered r 0 t.bytes) (bitN (s.answered r 0 9) 64) 1
    | _ =>
      let a := pa % 2 ^ 52
      if s.atomicQueues o a then
        let s := { s with nextTag := s.nextTag + 1 }.awaitAtomic sd gd k
        s.updMe (fun st => { st with storeQ := st.storeQ ++ st.gated ++
          [{ kind := .atomic aop op2 k, pa, va, size := t.bytes, data := op1, bmask := 0, rel := relScope o
             seq := s.issue.seq, ready := s.issue.cycle, after := st.fenceSeq, fill := f, sq := false }], gated := [] })
      else
        let lat := if s.ownsLine a then 6 else Config.missLatency
        let r := (s.poisonReport s.cur pa (aopReads aop)).performAtomic (.strand s.cur) f a aop op1 op2
        r.2.2.putAtomic t sd gd r.1 r.2.1 lat

/-- The w-bit pattern of a register. -/
def State.opPat (s : State) (t : Ty) (r : BitVec 6) : Nat := s.me.regs.pat t r

/-- An atomic operation: its obstacles, then its effect (R127). -/
def State.atomic (s : State) (t : Ty) (al : Nat) (o : OrdSc) (sd : BitVec 6) (gd : Option (BitVec 4)) (ea : Addr)
    (aop : Nat) (op1 op2 : State → Nat) : State :=
  s.gate (fun s => atomicObs t.bytes al (s.me.regs.addr ea) aop (op1 s) (op2 s) o s) (fun s =>
    effAtomic t o sd gd (s.me.regs.addr ea) aop (op1 s) (op2 s) s)

/-- AMO (R335, R336). -/
def execAmo (t : Ty) (f : AmoFn) (o : OrdSc) (sd : BitVec 6) (ea : Addr) (sb : BitVec 6) (s : State) :
    Host.Outcome State Fault Refusal :=
  .next (s.atomic t t.bytes o sd none ea (aopOf 0x0E f.code t) (fun s => s.opPat t sb) (fun _ => 0))

/-- AMOCAS (R337). -/
def execAmocas (t : Ty) (o : OrdSc) (sd : BitVec 6) (ea : Addr) (sb sc : BitVec 6) (s : State) :
    Host.Outcome State Fault Refusal :=
  .next (s.atomic t t.bytes o sd none ea (aopOf 0x0F (sc.toNat % 16) t) (fun s => s.opPat t sb)
    (fun s => s.opPat t sc))

/-- QINC (R129, R414 to R416). -/
def execQinc (t : Ty) (o : OrdSc) (sd : BitVec 6) (gd : BitVec 4) (ea : Addr) (sb : BitVec 6) (s : State) :
    Host.Outcome State Fault Refusal :=
  .next (s.atomic t t.bytes o sd (some gd) ea (aopOf 0x10 gd.toNat t) (fun s => s.opPat t sb) (fun _ => 0))

/-- QWRAP (R129, R414 to R416). -/
def execQwrap (t : Ty) (o : OrdSc) (sd : BitVec 6) (gd : BitVec 4) (ea : Addr) (sb : BitVec 6) (s : State) :
    Host.Outcome State Fault Refusal :=
  .next (s.atomic t t.bytes o sd (some gd) ea (aopOf 0x11 gd.toNat t) (fun s => s.opPat t sb) (fun _ => 0))

/-- QDEC (R129, R414 to R416). -/
def execQdec (t : Ty) (o : OrdSc) (sd : BitVec 6) (gd : BitVec 4) (ea : Addr) (s : State) :
    Host.Outcome State Fault Refusal :=
  .next (s.atomic t t.bytes o sd (some gd) ea (aopOf 0x12 gd.toNat t) (fun _ => 0) (fun _ => 0))

/-- QADDL (R129, R414 to R416): aligned to twice its size (R128). -/
def execQaddl (t : Ty) (o : OrdSc) (sd : BitVec 6) (gd : BitVec 4) (ea : Addr) (sb : BitVec 6) (s : State) :
    Host.Outcome State Fault Refusal :=
  .next (s.atomic t (2 * t.bytes) o sd (some gd) ea (aopOf 0x13 gd.toNat t) (fun s => s.opPat t sb)
    (fun _ => 0))

end Sys2Proof.Machine
end

