-- ==== Sys2Proof/Machine/Huddle.lean ====
section
/-! DEFINITION. The barrier operations and their events (R28 to R35, R289, R340, R342, R347, R454, R455). -/

namespace Sys2Proof.Machine

/-- Has the strand in issue a pending arrival whose completion it has not observed (R31)? -/
def State.pendingOn (s : State) (ch : Nat) : Bool :=
  s.me.pend.getLsbD ch && !s.sawCompletion s.cur ch

/-- The Precise trap of a strand that is not a member (R30). -/
def memberObs (ch : Nat) (s : State) : Option Obstacle :=
  if s.member s.cur ch then none else some (.trap .precise (Trap.of 0x02 ch))

/-- The wait of a release (R32, R121). -/
def relObs (rel : Option Scope) (s : State) : Option Obstacle :=
  match rel with
  | some sc => if s.releaseHeld s.cur sc then some .hold else none
  | none => none

/-- ARRIVE (R31, R32, R340). Its release waits for the stores of earlier bundles; its arrival counts only once those of its
own bundle are visible too (log 27). -/
def execArrive (rel : Option Scope) (ch : BitVec 5) (s : State) : Host.Outcome State Fault Refusal :=
  .next (s.gate (fun s =>
      (memberObs ch.toNat s).or ((if s.pendingOn ch.toNat then some (.wait (.chan ch.toNat)) else none).or
        (relObs rel s)))
    (fun s => s.recordArrival s.cur ch.toNat s.issue.seq true false rel))

/-- The state with a pending bit of the strand in issue cleared. -/
def State.clearPend (s : State) (ch : Nat) : State :=
  s.updMe (fun st => { st with pend := st.pend &&& ~~~(1#32 <<< ch) })

/-- BWAIT (R31, R347): its acquire holds, since later accesses perform later. -/
def execBwait (_ : WaitOrd) (ch : BitVec 5) (s : State) : Host.Outcome State Fault Refusal :=
  .next (s.gate (fun s => if s.pendingOn ch.toNat then some (.wait (.chan ch.toNat)) else none)
    (fun s => s.clearPend ch.toNat))

/-- VOTE (R454, R455, R478): with no pending arrival the release and the arrival are made, and the strand waits
with this bundle as the next one; with its generation observed the results are written. -/
def execVote (rel _ : VoteSide) (gand gor gsrc : BitVec 4) (ch : BitVec 5) (s : State) :
    Host.Outcome State Fault Refusal :=
  let n := ch.toNat
  .next (s.gate (fun s => (memberObs n s).or (
      if s.me.pend.getLsbD n then (if s.pendingOn n then some (.wait (.chan n)) else none)
      else relObs rel.scope s))
    (fun s =>
      if s.me.pend.getLsbD n then
        let c := s.chan n
        ((s.clearPend n).putG gand c.lastAnd 1 false).putG gor c.lastOr 1 false
      else
        let v := s.me.regs.rg gsrc
        (s.recordArrival s.cur n s.issue.seq v v none).enterWait (.chan n)))

/-- BDOM (R342). -/
def execBdom (sd : BitVec 6) (ch : BitVec 5) (s : State) : Host.Outcome State Fault Refusal :=
  let n := ch.toNat
  .next (s.putSLock sd (BitVec.ofNat 64 (fields
    [(34, b2n (s.frz.getLsbD n)), (33, b2n (s.member s.cur n)), (32, b2n (s.me.pend.getLsbD n)),
     (16, (s.me.tags.getD n 0).toNat), (0, (s.observed (dieOf s.cur) n).toNat)])) 3)

/-- BMEMB_WRITE (R30): a membership register changes; a CTLWR that asked for it has been carried out. -/
def execBmembWrite (core : Nat) (hi : Bool) (value : Word) (s : State) : Host.Outcome State Fault Refusal :=
  if core < 512 then
    .next ((s.updCore core (fun c => { c with bmembQ := match c.bmembQ with
      | e :: rest => if e.2.1 == hi && e.2.2 == value then rest else c.bmembQ
      | [] => [] })).writeBmemb core hi value)
  else .next s

/-- COMPLETION_OBSERVED (R29): a die observes a completion, 32 of its cycles after it. -/
def execCompletionObserved (die ch : Nat) (s : State) : Host.Outcome State Fault Refusal :=
  let c := s.chan ch
  match c.obs.find? (fun o => o.1 == die) with
  | some o => if o.2.2 ≤ (s.die die).cycle then .next (s.setChan ch { c with obs := c.obs.erase o }) else .next s
  | none => .next s

/-- The state with DBGCHAN written (R289): a channel no longer frozen may complete from the next cycle on. -/
def State.writeDbgchan (s : State) (v : Word) : State :=
  { s with thaw := s.thaw ||| s.frz, frz := v.setWidth 32, haltall := v.extractLsb' 32 32 }

/-- DBGCHAN_WRITE (R289). -/
def execDbgchanWrite (value : Word) (s : State) : Host.Outcome State Fault Refusal :=
  .next (s.writeDbgchan value)

end Sys2Proof.Machine
end

