-- ==== Sys2Proof/Machine/CtlRegs.lean ====
section
/-! DEFINITION. Control registers as CTLRD and CTLWR reach them and MMIO writes (R319, R355, R356, R479, R480 and
the rules that define each register). A write function takes the value of the RW fields and the value of the W1C and
WO fields apart, as a narrow MMIO write does (R480). Writes that start work of a unit leave it as an event. -/

namespace Sys2Proof.Machine

/-- A word with the bits of a mask taken from a value. -/
def takeBits (old : Word) (mask v : Nat) : Word :=
  (old &&& ~~~(BitVec.ofNat 64 mask)) ||| (BitVec.ofNat 64 (v &&& mask))

/-- STATUS (R275): BRCOLL is W1C; above user privilege INH, PPRIV, PIE and IE are written, and a PPRIV of 3 leaves
the field (log 19). -/
def Strand.writeStatus (st : Strand) (v : Nat) : Strand :=
  let s := if bitN v 11 then setField st.status 11 1 0 else st.status
  let s := if st.priv = 0 then s else
    let s := takeBits s 0x430 v
    if bitsN v 8 2 = 3 then s else takeBits s 0x300 v
  { st with status := s }

/-- FPCTL (R66): flags are W1C, and RM keeps its value at 5 to 7. -/
def Strand.writeFpctl (st : Strand) (v : Nat) : Strand :=
  let f := st.fpctl &&& ~~~(BitVec.ofNat 64 (v &&& 0x1F00))
  let f := takeBits f 0x8 v
  { st with fpctl := if bitsN v 0 3 ≤ 4 then takeBits f 0x7 v else f }

/-- A generator's state (R71): a write of 0 stores 1. -/
def rngOf (v : Nat) : BitVec 32 := if v % 2 ^ 32 = 0 then 1 else BitVec.ofNat 32 v

/-- A per-strand register, by number (R44, R66, R71, R86, R104, R201, R263, R275, R276, R285, R291, R319). -/
def Strand.writeCtl (st : Strand) (cr : Nat) (v : Nat) : Strand :=
  let w : Word := BitVec.ofNat 64 v
  if cr = 0x000 then st.writeStatus v
  else if cr = 0x001 then { st with cause := takeBits 0 0xC0000000000000FF v }
  else if cr = 0x002 then { st with epc := w.setWidth 18 }
  else if cr = 0x003 then { st with tval := w }
  else if cr = 0x004 then
    { st with tvec := takeBits st.tvec (if st.priv = 2 then 0x3FFFF0003FFFF else 0x3FFFF) v }
  else if cr = 0x005 then { st with scratch := w }
  else if cr = 0x006 then st.writeFpctl v
  else if cr = 0x007 then { st with rng := rngOf v }
  else if cr = 0x008 then { st with sbcheck := w &&& 3 }
  else if cr = 0x009 then { st with ptroot := takeBits 0 0xFFFFFFFFFFFF8001 v }
  else if cr = 0x00A then { st with banksel := w.setWidth 6 }
  else if cr = 0x00B then { st with ipend := st.ipend &&& ~~~((w.setWidth 5) &&& 0b11101#5) }
  else if cr = 0x00C then { st with ienable := w.setWidth 5 }
  else if cr = 0x00D then { st with tcmp := w, ipend := st.ipend &&& 0b11101#5 }
  else if cr = 0x00E then { st with dbgEn := w.getLsbD 0 }
  else if cr = 0x00F then { st with lnqsel := w.setWidth 6 }
  else if cr = 0x010 then { st with sebsel := w.setWidth 10 }
  else if cr = 0x011 then { st with lksel := w.setWidth 4 }
  else if cr = 0x031 then { st with bundles := w }
  else if cr = 0x084 then { st with stsel := w.setWidth 9 }
  else if cr = 0x086 then { st with frtsel := w.setWidth 12 }
  else st

/-- A per-core register, by number (R24, R38, R39, R72, R105, R147, R217). -/
def Core.writeCtl (c : Core) (cr : Nat) (v : Nat) : Core :=
  let w : Word := BitVec.ofNat 64 v
  if cr = 0x040 then { c with dictbase := w.extractLsb' 4 15 }
  else if cr = 0x041 then (if v % 2 ^ 14 ≤ 8192 then { c with dictlen := w.setWidth 14 } else c)
  else if cr = 0x042 then { c with yhen := w.getLsbD 13 }
  else if cr = 0x043 then
    { c with
      ubind := w.getLsbD 31
      rxbase := if c.lq.toList.any (fun q => q.role != .unbound) then c.rxbase else w.extractLsb' 32 2 }
  else if cr = 0x046 then { c with wscfg := w.setWidth 4 }
  else if cr = 0x047 then { c with rtsel := w.setWidth 10 }
  else if cr = 0x048 then
    { c with rtent := c.rtent.setD c.rtsel.toNat 0 (takeBits 0 0xFC0000000FFF0FFF v) }
  else if cr = 0x049 then { c with mrng := rngOf v }
  else c

/-! ### Registers of dies, links and the device -/

/-- Tokens on the ring (R161). -/
def tokenCount (t : BitVec 5) : Nat := min 16 t.toNat

/-- The state of a die with PWRCFG written (R161); the tokens stand at the first clusters (log 1). -/
def Die.writePwrcfg (d : Die) (v : Nat) : Die :=
  let t := BitVec.ofNat 5 v
  { d with
    hold := BitVec.ofNat 16 (v / 2 ^ 16), tokens := t
    ring := if t = d.tokens then d.ring else (List.range (tokenCount t)).map (fun i => (i, d.cycle + 1, false)) }

/-- The state of a die with PWRSTAT written (R300): THSTEP alone. -/
def Die.writePwrstat (d : Die) (v : Nat) : Die := { d with thstep := BitVec.ofNat 4 (v / 2 ^ 12) }

/-- The state of a die with STCTL written (R198): SWAPAT, LATE and ARM. A SWAPAT that has passed swaps at the next
period. -/
def Die.writeStctl (d : Die) (rw act : Nat) : Die :=
  let d := { d with swapat := BitVec.ofNat 16 (rw / 2 ^ 48), late := d.late && !bitN act 2 }
  if bitN act 3 then
    let p := d.slot / 256
    let gap := (d.swapat.toNat + 65536 - p % 65536) % 65536
    if 1 ≤ gap && gap ≤ 32767 then { d with armed := true, swapPeriod := p + gap }
    else { d with armed := true, late := true, swapPeriod := p + 1 }
  else d

/-- The state of a die with a slot-table entry written (R198, R201): not in the active table. -/
def Die.writeSt (d : Die) (tab : Bool) (e v : Nat) : Die :=
  if tab = d.act then d
  else if tab then { d with tabB := d.tabB.setD (e % 256) 0 (BitVec.ofNat 32 v) }
  else { d with tabA := d.tabA.setD (e % 256) 0 (BitVec.ofNat 32 v) }

/-- The state of a die with an FRT entry written (R199, R201). -/
def Die.writeFrt (d : Die) (i v : Nat) : Die :=
  { d with
    frt := d.frt.setD (i % 4096) 0 (BitVec.ofNat 16 v &&& 0x87FF#16)
    frtOld := if (d.frtOld.find (i % 4096)).isSome then d.frtOld else d.frtOld.insert (i % 4096) (d.frt.getD (i % 4096) 0) }

/-- The state of a die with FABSTAT written (R200): each count in which the value has a 1 bit is cleared. -/
def Die.clearFabstat (d : Die) (v : Nat) : Die :=
  { d with
    bad := if bitsN v 48 16 = 0 then d.bad else 0
    drop := if bitsN v 32 16 = 0 then d.drop else 0
    covf := if bitsN v 16 16 = 0 then d.covf else 0 }

/-- The direction and slot of a key register in use (R210, R212): number 2 × direction + slot, direction 0
sending. -/
def Link.slotUsed (l : Link) (i : Nat) : Bool :=
  if i < 2 then l.txOn && (b2n l.txslot == i || !l.oldfree) else l.rxOn && b2n l.rxslot == i - 2

/-- A link with a key register written (R210): every direction and slot not in use (log 14). -/
def Link.writeKey (l : Link) (cr v : Nat) : Link :=
  let free := fun i => !l.slotUsed i
  if 0x0C1 ≤ cr && cr ≤ 0x0C4 then
    { l with keys := Vector.ofFn (fun i =>
        if free (i.val / 4) && i.val % 4 == cr - 0x0C1 then BitVec.ofNat 64 v else l.keys[i.val]) }
  else if cr = 0x0C5 then
    { l with salts := Vector.ofFn (fun i => if free i.val then BitVec.ofNat 32 v else l.salts[i.val]) }
  else { l with ctrs := Vector.ofFn (fun i => if free i.val then v else l.ctrs[i.val]) }

namespace State

/-- The state with L2CTL written (R99, R101): nothing while BUSY; a change of MODE begins a switch. -/
def writeL2ctl (s : State) (v : Nat) : State :=
  if s.l2busy then s
  else { s with lease := BitVec.ofNat 16 (v / 2 ^ 16), pass := bitN v 2, l2busy := bitN v 0 != s.l2mode }

/-- The state with LNQCTL of a queue written (R263): once software clears STOP, no task of the queue passes it any more (R266). -/
def writeLnqctl (s : State) (q rw act : Nat) : State :=
  let x := s.queue q
  let s : State := if bitN rw 1 then s
    else { s with tasks := s.tasks.map (fun t => if t.queue == q then { t with passStop := false } else t) }
  s.setQueue q { x with
    prio := BitVec.ofNat 3 (rw / 2 ^ 9), err := x.err && !bitN act 8, kern := bitN rw 3, dev := bitN rw 2
    stop := bitN rw 1, en := bitN rw 0 }

/-- The state with a page-lock register written: PLKVA, PLKLEN, PLKCTL or PLKROOT by its number in R319 (R294). A write while BUSY is
ignored, so that the operation finds the other three as GO found them; GO sets BUSY and starts a take or a release. -/
def writePlk (s : State) (cr rw act : Nat) : State :=
  if s.plkctl.getLsbD 32 then s
  else if cr = 0x0A7 then { s with plkva := BitVec.ofNat 64 rw }
  else if cr = 0x0A8 then { s with plklen := BitVec.ofNat 64 rw }
  else if cr = 0x0AA then { s with plkroot := takeBits 0 0xFFFFFFFFFFFF8001 rw }
  else
    let v := takeBits s.plkctl 0x7FFF000000000FFF rw
    if bitN act 63 then
      { s with plkctl := setField v 32 1 1 }.post [if bitN rw 62 then .pageLockRelease v else .pageLockTake v]
    else { s with plkctl := v }

/-- The state with LKSEC of a link written (R211, R212). -/
def writeLksec (s : State) (n v : Nat) : State :=
  let s := s.updDie (n / 4) (fun d =>
    let l := d.links.getD (n % 4) Link.init
    let x : Link :=
      { l with authlim := BitVec.ofNat 8 (v / 2 ^ 56), txen := bitN v 6, rxen := bitN v 5
               warn := l.warn && !bitN v 1 }
    { d with links := d.links.setIfInBounds (n % 4) x })
  if bitN v 7 then s.post [.keySwitch (n / 4 % 4) (n % 4)] else s

/-- The state with a link changed. -/
def updLink (s : State) (n : Nat) (f : Link → Link) : State :=
  s.updDie (n / 4) (fun d => { d with links := d.links.setIfInBounds (n % 4) (f (d.links.getD (n % 4) Link.init)) })

/-- The grant that a Chamois thread reads next, marked read (R241): the value, and the state. -/
def readGrant (s : State) (tid : Nat) : Nat × State :=
  let d := dieOf tid
  match (s.die d).route with
  | none => (0, s)
  | some r =>
    match r.reqs.find? (fun q => q.thread == tid && q.granted.isSome && !q.read) with
    | none => (0, s)
    | some q =>
      (fields [(63, 1), (32, q.granted.getD 0), (18, r.round % 4), (16, q.rep), (0, q.expert)],
       s.updDie d (fun x => { x with route := some { r with reqs := r.reqs.map (fun y =>
         if y = q then { y with read := true } else y) } }))

/-- The state with a control register written by the strand in issue (R356). -/
def writeCtl (s : State) (cr : Nat) (w : Word) : State :=
  let v := w.toNat
  let n := coreOf s.cur
  let d := dieOf s.cur
  if cr = 0x00E then
    let s := s.updMe (fun st => st.writeCtl cr v)
    s.post ((if bitN v 1 then [.debugHaltRequest s.cur] else []) ++ (if bitN v 2 then [.debugResume s.cur] else []))
  else if cr < 0x020 || cr = 0x031 || cr = 0x084 || cr = 0x086 then s.updMe (fun st => st.writeCtl cr v)
  else if cr = 0x044 || cr = 0x045 then
    s.updCore n (fun c => { c with bmembQ := c.bmembQ ++ [(s.cycleOf s.cur + 1, cr == 0x045, w)] })
  else if cr = 0x04A then s.post [.isend w]
  else if 0x040 ≤ cr && cr < 0x04A then s.updCore n (fun c => c.writeCtl cr v)
  else if cr = 0x060 then
    let b := s.bank (clusterOf n) s.me.banksel.toNat
    s.setBank (clusterOf n) s.me.banksel.toNat { b with ovf := b.ovf && !bitN v 6, rej := b.rej && !bitN v 5 }
  else if cr = 0x070 then
    s.post [if bitN v 63 then .chreqEnd s.cur else .chreqRequest s.cur w]
  else if cr = 0x072 then s.post [.chemit s.cur w]
  else if cr = 0x080 then s.updDie d (fun x => x.writePwrcfg v)
  else if cr = 0x081 then s.updDie d (fun x => x.writePwrstat v)
  else if cr = 0x082 then s.updDie d (fun x => x.writeStctl v v)
  else if cr = 0x083 then s.updDie (s.me.lksel.toNat / 4) (fun x => x.clearFabstat v)
  else if cr = 0x085 then s.updDie d (fun x => x.writeSt (s.me.stsel.getLsbD 8) (s.me.stsel.toNat % 256) v)
  else if cr = 0x087 then s.updDie d (fun x => x.writeFrt s.me.frtsel.toNat v)
  else if cr = 0x0A0 then { s with devid := w.setWidth 13 }
  else if cr = 0x0A1 then s.writeL2ctl v
  else if cr = 0x0A2 then
    { s with ackto := w.extractLsb' 16 16, rtxlim := w.extractLsb' 8 4, rnrlim := w.setWidth 4 }
  else if cr = 0x0A3 then { s with fimport := takeBits 0 0xFFFFFFFFFFFF8001 v }
  else if cr = 0x0A4 then s.writeDbgchan w
  else if cr = 0x0A5 then s.writeLnqctl s.me.lnqsel.toNat v v
  else if cr = 0x0A6 then { s with secnt := SMap.erase s.secnt s.me.sebsel.toNat }
  else if 0x0A7 ≤ cr && cr ≤ 0x0AA then s.writePlk cr v v
  else if cr = 0x0C0 then s.writeLksec s.me.lksel.toNat v
  else if 0x0C1 ≤ cr && cr ≤ 0x0C6 then s.updLink s.me.lksel.toNat (fun l => l.writeKey cr v)
  else s

end State

/-! ### CTLRD and CTLWR -/

/-- Is it one of the registers of Chamois threads (R241)? -/
def isChReg (cr : Nat) : Bool := 0x070 ≤ cr && cr ≤ 0x072

/-- The least privilege to read a register, DBGCTL's and the trap registers' (R276, R285, R288). -/
def ctlrdObs (cr : BitVec 12) (s : State) : Option Obstacle :=
  let n := cr.toNat
  if isChReg n && !isThread s.cur then some (.trap .precise (Trap.of 0x02 n))
  else if s.me.priv < ctlReadPriv n then some (.trap .precise (Trap.of 0x04 n))
  else none

/-- The latency of CTLRD (R355): 3 for per-strand and per-core registers, STSEL and FRTSEL among them (R201), longer for the others
(log 6). -/
def ctlLat (cr : Nat) : Nat := if cr < 0x060 || cr = 0x084 || cr = 0x086 then 3 else Config.missLatency

/-- CTLRD (R355). -/
def execCtlrd (sd : BitVec 6) (cr : BitVec 12) (s : State) : Host.Outcome State Fault Refusal :=
  .next (s.gate (ctlrdObs cr) (fun s =>
    let n := cr.toNat
    if n = 0x006 then s.putFpctl sd (ctlLat n)
    else if n = 0x071 then
      let r := s.readGrant s.cur
      r.2.putSLock sd (BitVec.ofNat 64 r.1) (ctlLat n)
    else if n = 0x0C5 || n = 0x0C6 then
      let r := s.takeFree
      r.2.putSLock sd (BitVec.ofNat 64 r.1) (ctlLat n)
    else s.putSLock sd (BitVec.ofNat 64 (s.ctlImage s.cur n)) (ctlLat n)))

/-- What CTLWR meets (R241, R356). -/
def ctlwrObs (cr : BitVec 12) (s : State) : Option Obstacle :=
  let n := cr.toNat
  if isChReg n && !isThread s.cur then some (.trap .precise (Trap.of 0x02 n))
  else if s.me.priv < ctlWritePriv n then some (.trap .precise (Trap.of 0x04 n))
  else none

/-- CTLWR (R356). -/
def execCtlwr (cr : BitVec 12) (ss : BitVec 6) (s : State) : Host.Outcome State Fault Refusal :=
  .next (s.gate (ctlwrObs cr) (fun s => s.writeCtl cr.toNat (s.me.regs.rs ss)))

/-! ### Writes over MMIO -/

/-- The 64-bit mask of n bytes from byte b. -/
def byteField (b n : Nat) : Nat := (2 ^ (8 * n) - 1) * 2 ^ (8 * b)

namespace State

/-- The state with 8 bytes of a die block written (R200, R201); windows are taken only from the host, and the host
does not write PWRCFG or PWRSTAT. -/
def writeDieBlock (s : State) (d o rw act : Nat) (host : Bool) : State :=
  if o = 0x10 then s.updDie d (fun x => x.writeStctl rw act)
  else if 0x20 ≤ o && o < 0x40 then s.updDie d (fun x => x.clearFabstat act)
  else if host && 0x10000 ≤ o && o < 0x10800 then
    let e := (o - 0x10000) / 4
    s.updDie d (fun x => (x.writeSt (decide (256 ≤ e)) e (rw % 2 ^ 32)).writeSt (decide (256 ≤ e)) (e + 1) (rw / 2 ^ 32))
  else if host && 0x20000 ≤ o && o < 0x22000 then
    let i := (o - 0x20000) / 2
    s.updDie d (fun x => (List.range 4).foldl (fun x k => x.writeFrt (i + k) (bitsN rw (16 * k) 16)) x)
  else s

/-- The state with 8 bytes of a strand block written (R288, log 15), after the results that are visible by now. -/
def writeStrandBlock (s : State) (sid w rw act : Nat) : State :=
  let s := s.settleNow sid
  if w = 0 then
    (s.updStrand sid (fun st => { st with dbgEn := bitN rw 0 })).post
      ((if bitN act 1 then [.debugHaltRequest sid] else []) ++ (if bitN act 2 then [.debugResume sid] else []))
  else if 0x10000 ≤ w && w < 0x10000 + saveBytes && (s.strand sid).run == .debug then
    let img := s.contextImage sid
    let lo := 8 * (w - 0x10000)
    let img := img - bitsN img lo 64 * 2 ^ lo + rw * 2 ^ lo
    s.loadContext sid img
  else s

/-- The state with an interrupt bit set on a strand (R285). -/
def setIrq (s : State) (sid bit : Nat) : State :=
  s.updStrand sid (fun st => { st with ipend := st.ipend ||| (1#5 <<< bit) })

/-- The state with an interrupt bit set on every strand of the device, or of a die, that enables it (R285). -/
def setIrqs (s : State) (die : Option Nat) (bit : Nat) : State :=
  { s with strands := s.strands.map (fun p =>
      if p.2.ienable.getLsbD bit && (match die with | some d => dieOf p.1 == d | none => true)
      then (p.1, { p.2 with ipend := p.2.ipend ||| (1#5 <<< bit) }) else p) }

/-- The state with a launch queue's error or overrun event (R263, R268, R285, R293). -/
def queueError (s : State) (q cause : Nat) (stop : Bool) : State :=
  let x := s.queue q
  ((s.setQueue q { x with err := true, cause := BitVec.ofNat 8 cause, stop := x.stop || stop }).setIrqs none 3).send
    (.msix (1 + q))

/-- The state with a packet appended to a launch queue (R263): a full queue discards it with an error, and one not
enabled takes none. -/
def appendPacket (s : State) (q pkt : Nat) : State :=
  let x := s.queue q
  if !x.en then s
  else if 32 ≤ x.packets.length then s.queueError q 0x12 false
  else s.setQueue q { x with packets := x.packets ++ [pkt] }

/-- The state with 8 bytes of a launch staging window written (R263): the write that covers byte 255 appends. -/
def writeWindow (s : State) (o rw mask : Nat) : State :=
  let q := (o - 0x10000) / 256
  let x := s.queue q
  let lo := 8 * (o % 256)
  let s := s.setQueue q { x with window := x.window - bitsN x.window lo 64 * 2 ^ lo + rw * 2 ^ lo }
  if o % 256 = 248 && bitN mask 56 then s.appendPacket q (s.queue q).window else s

/-- The state with BIASCTL written (R110): nothing while BUSY; GO starts a flip of a region that exists. -/
def writeBias (s : State) (rw act : Nat) : State :=
  if s.biasBusy then s
  else
    let s := { s with
      biasAck := s.biasAck && !bitN act 30, biasTgt := bitN rw 29, biasRegion := BitVec.ofNat 19 rw }
    if bitN act 63 && rw % 2 ^ 19 < 393216 then
      s.post [if bitN rw 29 then .biasFlipToHost (rw % 2 ^ 19) else .biasFlipToDevice (rw % 2 ^ 19)]
    else s

/-- The state with BOOTCTL written (R295): GO from outside; OK and FAIL only from the management controller. -/
def writeBootctl (s : State) (act : Nat) : State := if bitN act 0 then s.post [.bootGo] else s

/-- The state with the 8 bytes at an aligned MMIO offset written under a mask of bits (R292, R479, R480): `v` holds
the written bytes in place. -/
def writeWord (s : State) (o v mask : Nat) (host : Bool) : State :=
  let act := v &&& mask
  let old := s.mmioWord o
  let rw := (old - (old &&& mask)) + act
  let w : Word := BitVec.ofNat 64 rw
  if o = 0x00 then { s with devid := w.setWidth 13 }
  else if o = 0x10 then s.writeBootctl act
  else if o = 0x90 then s.writeL2ctl rw
  else if o = 0x98 then s.writeDbgchan w
  else if o = 0xA0 then
    { s with ackto := w.extractLsb' 16 16, rtxlim := w.extractLsb' 8 4, rnrlim := w.setWidth 4 }
  else if 0x10000 ≤ o && o < 0x14000 then s.writeWindow o rw mask
  else if 0x14000 ≤ o && o < 0x14200 then s.writeLnqctl ((o - 0x14000) / 8) rw act
  else if o = 0x20000 then s.writeBias rw act
  else if 0x20008 ≤ o && o ≤ 0x20020 then s.writePlk (0x0A7 + (o - 0x20008) / 8) rw act
  else if 0x1000000 ≤ o && o < 0x1800000 then
    { s with boot := { s.boot with image := (List.range 8).foldl (fun m i =>
        setByte m (o - 0x1000000 + i) (BitVec.ofNat 8 (rw / 256 ^ i))) s.boot.image } }
  else if 0x10000000 ≤ o && o < 0x20000000 then
    s.writeDieBlock ((o - 0x10000000) / 0x4000000) ((o - 0x10000000) % 0x4000000) rw act host
  else if 0x20000000 ≤ o && o < 0x30000000 then
    s.writeStrandBlock ((o - 0x20000000) / 0x80000 * 4 + (o - 0x20000000) % 0x80000 / 0x20000) (o % 0x20000) rw act
  else s

/-- A write over MMIO of 1, 2, 4 or 8 bytes (R480): one not naturally aligned is ignored. -/
def mmioWrite (s : State) (o n v : Nat) (host : Bool) : State :=
  if (n = 1 || n = 2 || n = 4 || n = 8) && o % n == 0 then
    s.writeWord (o / 8 * 8) (v % 2 ^ (8 * n) * 2 ^ (8 * (o % 8))) (byteField (o % 8) n) host
  else s

/-- The mask of the bits of n bytes whose bit in a byte mask is 1. -/
def bytesMask (bmask n : Nat) : Nat := (List.range n).foldl (fun a i => if bitN bmask i then a + 255 * 256 ^ i else a) 0

/-- A store of n bytes under a byte mask to MMIO (R206, R480). -/
def mmioStore (s : State) (o n v bmask : Nat) : State :=
  if (n = 1 || n = 2 || n = 4 || n = 8) && o % n == 0 then
    s.writeWord (o / 8 * 8) (v % 2 ^ (8 * n) * 2 ^ (8 * (o % 8))) (bytesMask bmask n * 2 ^ (8 * (o % 8))) false
  else s

end State

/-- REGISTER_WRITE (R292, R480): the host writes over MMIO. -/
def execRegisterWrite (off size value : Nat) (s : State) : Host.Outcome State Fault Refusal :=
  .next (s.mmioWrite off size value true)

/-- SLOT_TABLE_ARM (R198): STCTL is written. -/
def execSlotTableArm (die : Nat) (value : Word) (s : State) : Host.Outcome State Fault Refusal :=
  .next (s.updDie die (fun d => d.writeStctl value.toNat value.toNat))

/-- FABSTAT_CLEAR (R200). -/
def execFabstatClear (die : Nat) (value : Word) (s : State) : Host.Outcome State Fault Refusal :=
  .next (s.updDie die (fun d => d.clearFabstat value.toNat))

/-- L2_MODE_SWITCH (R99, R101): L2CTL is written, and a change of MODE begins a switch. -/
def execL2ModeSwitch (value : Word) (s : State) : Host.Outcome State Fault Refusal :=
  .next (s.writeL2ctl value.toNat)

end Sys2Proof.Machine
end

