-- ==== Sys2Proof/Machine/Stores.lean ====
section
/-! DEFINITION. How stores leave the store queue (R116, R119 to R121, R130, R350, R351), directory events (R97),
bank switches (R102 to R104, R341), bias flips and host accesses (R110, R111), and soft errors (R291). -/

namespace Sys2Proof.Machine

/-- A clean line of a directory entry after CFLUSH by a cluster (R350): written back, and no longer held by the
cluster. -/
def dirFlush (q : Nat) (d : Dir) : Dir :=
  let (st, ow, sh) := d
  if st = 2 || st = 3 then (if ow = q then (0, 0, 0) else (2, ow, 0))
  else if st = 4 then
    let all := sh ||| 2 ^ ow
    let sh' := if bitN all q then all - 2 ^ q else all
    if sh' = 0 then (0, 0, 0) else (1, 0, sh')
  else dirEvict q d

/-- Has a load of a strand that stands before a store or atomic to perform first: for a release that covers it (R114, R121), an
atomic (R116), an acquire (R122), a MARK between them (R118), or because they share bytes (log 36)? -/
def State.loadsFirst (s : State) (sid : Nat) (p : PStore) : Bool :=
  (s.strand sid).loadQ.any (fun l => decide (l.seq ≤ p.seq) &&
    (p.rel.any (fun sc => s.covers sc l.pa) || (match p.kind with | .atomic _ _ _ => true | _ => false) || l.acq || decide (l.seq ≤ p.after) ||
      (decide (l.pa < p.pa + p.size) && decide (p.pa < l.pa + l.size))))

namespace State

/-- The state with a line out of its L2 slice. -/
def l2Drop (s : State) (line : Nat) : State :=
  let k := sliceOf line
  { s with l2 := s.l2.setD k [] ((s.l2.getD k []).filter (fun x => x.pline != line)) }

/-- The state after CFLUSH of the line at a local address by a core (R350): every dirty copy is written to HBM; those of the
core's cluster are gone, the others clean. -/
def flushLine (s : State) (core a : Nat) : State :=
  let line := lineOf a
  let clean (s : State) : State := { s.cleanLine line with
    cores := s.cores.map (fun p => (p.1, { p.2 with l1 := p.2.l1.map (fun l => if l.pline == line then { l with dirty := false } else l) }))
    ways := s.ways.map (fun p => (p.1, p.2.map (fun l => if l.pline == line then { l with dirty := false } else l)))
    l2 := s.l2.map (fun p => (p.1, p.2.map (fun l => if l.pline == line then { l with dirty := false } else l))) }
  let s := (clean s).dropLine line (fun q => q != clusterOf core)
  if s.l2mode then s else s.setDir line (dirFlush (clusterOf core) (s.dirOf line))

/-- The state after CINV of the line at a local address (R351): HBM's contents, and no copy anywhere. -/
def discardLine (s : State) (a : Nat) : State :=
  let line := lineOf a
  let old := s.stale.filter (fun (c : Host.Cell) => c.1 / 64 == line)
  let s := { s with mem := old.foldl (fun (m : List Host.Cell) (c : Host.Cell) => setByte m c.1 c.2) s.mem }
  (((s.cleanLine line).dropLine line (fun _ => false)).l2Drop line).setDir line (0, 0, 0) |>.wakeLine a

/-- The state after a push of an entry to a FIFO bank (R102): a full one, or one no longer a FIFO, takes none. -/
def pushFifo (s : State) (clu b : Nat) (v : Word) : State :=
  let k := s.bank clu b
  if k.mode != .fifo || k.busy then s
  else if 65536 ≤ k.fifo.length then s.setBank clu b { k with ovf := true }
  else s.setBank clu b { k with fifo := k.fifo ++ [v] }

/-- May a store leave the store queue before the leases of its line have ended (R100, PASS = 1)? Atomics and line operations
wait (log 41). -/
def passes (s : State) (p : PStore) : Bool :=
  s.l2mode && s.pass && p.kind == .write && inHbm (p.pa % 2 ^ 52) && !s.isRemote p.pa

/-- The cycle, of its home, from which a store that passes leases is visible: after the last lease of its line, and never
before an earlier store of its strand (R100). -/
def passTime (s : State) (sid : Nat) (p : PStore) : Nat :=
  (s.strand sid).passed.foldl (fun t x => max t x.1)
    (match s.leases.find (lineOf (p.pa % 2 ^ 52)) with
     | some e => e + 1
     | none => 0)

/-- May the store at the head of a strand's store queue become visible, or leave the queue (R100, R101, R110, R116 to R118, R121, R122)? -/
def drainReady (s : State) (sid : Nat) (p : PStore) : Bool :=
  decide (p.ready ≤ s.cycleOf sid) && !s.loadsFirst sid p && (p.rel.isNone || s.passes p || (s.strand sid).passed.isEmpty) &&
    (s.isRemote p.pa || (!s.homeBusy (p.pa % 2 ^ 52) &&
      (s.passes p || ((!inHbm (p.pa % 2 ^ 52) || s.leaseOver (p.pa % 2 ^ 52)) && (s.strand sid).passed.isEmpty)))) &&
    (match p.rel with
     | some sc => !((sc == .fab || sc == .sys) && s.postedOut sid)
     | none => true)

/-- Has what a queued local store goes to been taken from it since it issued: code that now runs (R138), a region now in host
bias (R110), a bank that switches (R103), a failed stack (R299)? -/
def drainFails (s : State) (p : PStore) : Bool :=
  !s.isRemote p.pa && (match s.reachLocal (match p.kind with
      | .flush => .read
      | .atomic _ _ _ => .atomic
      | _ => .write) p.size (p.pa % 2 ^ 52) with
    | .error _ => true
    | .ok _ => false)

/-- The state with such a store not performed and its cause reported at the strand (log 40); the results of an atomic are
free. -/
def refuseStore (s : State) (sid : Nat) (p : PStore) : State :=
  let s := s.updStrand sid (fun st => { st with reports := st.reports ++ [Trap.of 0x12 p.va] })
  match p.kind with
  | .atomic _ _ tag =>
    let f := s.takeFree
    f.2.answerTag sid tag (BitVec.ofNat 2048 f.1) (f.1 % 2 == 1) (s.cycleOf sid + 6)
  | _ => s

/-- The state after the store at the head of a strand's store queue has become visible, or left for its remote home
(R116, R130). -/
def drainHead (s : State) (sid : Nat) : State :=
  match (s.strand sid).storeQ with
  | [] => s
  | p :: rest =>
    if !s.drainReady sid p then s
    else
      let s := s.updStrand sid (fun st => { st with storeQ := rest })
      let a := p.pa % 2 ^ 52
      let core := coreOf sid
      let t := s.passTime sid p
      if s.drainFails p then s.refuseStore sid p
      else if s.passes p && s.homeCycle a < t then
        s.updStrand sid (fun st => { st with passed := st.passed ++ [(t, p)] })
      else match p.kind with
      | .flush => s.flushLine core a
      | .inval => s.discardLine a
      | .push =>
        match regionOf a with
        | .sram clu b _ => s.pushFifo clu b (BitVec.ofNat 64 p.data)
        | _ => s
      | .atomic aop op2 tag =>
        let r := (s.poisonReport sid a (aopReads aop)).performAtomic (.strand sid) p.fill a aop p.data op2
        let t := (Ty.ofCode (bitsN aop 9 4)).getD .n64
        r.2.2.answerTag sid tag ((extendTy t r.1).setWidth 2048) r.2.1 (s.cycleOf sid + 6)
      | .write =>
        if s.isRemote p.pa then
          s.strandRequest sid p.pa p.va 2 (Nat.log2 p.size) 0 0 p.data 0 p.bmask .n8
        else match regionOf a with
          | .mmio off => s.mmioStore off p.size p.data p.bmask
          | _ => s.publishStore (.strand sid) p.fill a p.size p.data p.bmask

end State

/-- The oldest store of a strand that has passed its leases and is visible from now on (R100). -/
def State.passedDue (s : State) (sid : Nat) : Option PStore :=
  match (s.strand sid).passed with
  | (t, p) :: _ => if t ≤ s.homeCycle (p.pa % 2 ^ 52) && !s.homeBusy (p.pa % 2 ^ 52) then some p else none
  | [] => none

/-- The state with such a store visible. -/
def State.settlePassed (s : State) (sid : Nat) : State :=
  match s.passedDue sid with
  | none => s
  | some p =>
    let s := s.updStrand sid (fun st => { st with passed := st.passed.drop 1 })
    if s.drainFails p then s.refuseStore sid p else s.publishStore (.strand sid) p.fill (p.pa % 2 ^ 52) p.size p.data p.bmask

/-- STORE_DRAIN (R116): the store at the head of a strand's queue becomes visible. -/
def execStoreDrain (sid : Nat) (s : State) : Host.Outcome State Fault Refusal := .next (s.drainHead sid)

/-- LEASE_WAIT_END (R100): the lease a store waited for, or passed, has ended, and it is visible. -/
def execLeaseWaitEnd (sid : Nat) (s : State) : Host.Outcome State Fault Refusal :=
  if (s.passedDue sid).isSome then .next (s.settlePassed sid)
  else if s.l2mode then .next (s.drainHead sid) else .next s

/-- DIRECTORY_READ (R97): a cluster's read reaches the home; in normal service alone a directory exists. -/
def execDirectoryRead (line cluster : Nat) (s : State) : Host.Outcome State Fault Refusal :=
  if s.l2mode then .next s else .next (s.setDir line (dirRead cluster (s.dirOf line)))

/-- DIRECTORY_WRITE (R97): every other holder's copy is invalid. -/
def execDirectoryWrite (line cluster : Nat) (s : State) : Host.Outcome State Fault Refusal :=
  if s.l2mode then .next s
  else .next ((s.dropLine line (fun q => q == cluster)).setDir line (dirWrite cluster (s.dirOf line)))

/-- DIRECTORY_WRITEBACK (R97): L2 takes the owner's data, and the owner holds the line no more. -/
def execDirectoryWriteback (line cluster : Nat) (s : State) : Host.Outcome State Fault Refusal :=
  if s.l2mode then .next s
  else .next (((s.dropLine line (fun q => q != cluster)).setDir line (dirWriteback cluster (s.dirOf line))).l2Touch line true)

/-- DIRECTORY_CLEAN_EVICTION (R97): a holder is removed. -/
def execDirectoryCleanEviction (line cluster : Nat) (s : State) : Host.Outcome State Fault Refusal :=
  if s.l2mode then .next s
  else .next ((s.dropLine line (fun q => q != cluster)).setDir line (dirEvict cluster (s.dirOf line)))

/-! ### Banks -/

/-- The state with every line of a way gone from its cluster, the dirty ones written back (R103). -/
def State.emptyWay (s : State) (clu b : Nat) : State :=
  ((s.ways.getD clu []).filter (fun w => w.bank == b)).foldl (fun s w => s.leaveCluster clu w.pline) s

/-- BANKCFG (R103, R341). A bank that leaves cache mode serves the cluster's cache no more from then on (R102). -/
def execBankcfg (sb sc : BitVec 6) (s : State) : Host.Outcome State Fault Refusal :=
  .next (s.gate (needKernel 0) (fun s =>
    let clu := clusterOf (coreOf s.cur)
    let b := (s.me.regs.rs sb).toNat % 64
    let v := (s.me.regs.rs sc).toNat
    let k := s.bank clu b
    let force := bitN v 2
    if v % 4 = 3 || k.nrdy || k.busy || k.eng || (k.mode == .fifo && !k.fifo.isEmpty && !force) then
      s.setBank clu b { k with rej := true }
    else
      let t : BankMode := if v % 4 = 0 then .cache else if v % 4 = 1 then .scratchpad else .fifo
      let work := if t = k.mode then 1 else Config.workLatency
      (if k.mode == .cache && t != .cache then s.emptyWay clu b else s).setBank clu b
        { k with target := t, busy := true, busyEnd := s.cycleOf s.cur + work }))

/-- BANK_SWITCH_DONE (R103): the mode changes and BUSY clears; a scratchpad reads as zero and a FIFO is empty. -/
def execBankSwitchDone (cluster bank : Nat) (s : State) : Host.Outcome State Fault Refusal :=
  let k := s.bank cluster bank
  if k.busy && k.busyEnd ≤ (s.die (cluster / 16)).cycle then
    if k.target = k.mode then .next (s.setBank cluster bank { k with busy := false })
    else
      let lo := 0x20000000000 + cluster * 2 ^ 25 + bank * 2 ^ 19
      let s := s.emptyWay cluster bank
      let s := { s with mem := s.mem.filter (fun c => decide (c.1 < lo) || decide (lo + 2 ^ 19 ≤ c.1)) }
      .next (s.setBank cluster bank { k with mode := k.target, busy := false, fifo := [] })
  else .next s

/-! ### Bias and host accesses -/

/-- Does a page-lock entry cover a region of HBM (R110)? -/
def State.regionLocked (s : State) (region : Nat) : Bool :=
  s.dies.toList.any (fun d => d.locks.any (fun l => l.2.phys.any (fun r =>
    r.pa / 2 ^ 52 == s.devid.toNat % 4096 && decide (r.pa % 2 ^ 52 < (region + 1) * 2 ^ 21) && decide (region * 2 ^ 21 < r.pa % 2 ^ 52 + r.len))))

/-- BIAS_FLIP_TO_HOST (R110): a flip begins, and accesses to the region wait at their home. -/
def execBiasFlipToHost (region : Nat) (s : State) : Host.Outcome State Fault Refusal :=
  if s.biasBusy || 393216 ≤ region then .next s
  else .next { s with biasBusy := true, biasTgt := true, biasRegion := BitVec.ofNat 19 region }

/-- BIAS_FLIP_TO_DEVICE (R110). -/
def execBiasFlipToDevice (region : Nat) (s : State) : Host.Outcome State Fault Refusal :=
  if s.biasBusy || 393216 ≤ region then .next s
  else .next { s with biasBusy := true, biasTgt := false, biasRegion := BitVec.ofNat 19 region }

/-- SOFT_ERROR (R291): a unit counts a corrected error. -/
def execSoftError (unit : Nat) (s : State) : Host.Outcome State Fault Refusal :=
  if unit < 688 then .next { s with secnt := s.secnt.setD unit 0 (min (2 ^ 32 - 1) (s.secnt.getD unit 0 + 1)) }
  else .next s

end Sys2Proof.Machine
end

