-- ==== Sys2Proof/Machine/LinkQueue.lean ====
section
/-! DEFINITION. Link tile queues (R215 to R226, R382 to R385): binding, strips in tile memory, pushes and pops, and
the strip and space cells that leave and arrive. -/

namespace Sys2Proof.Machine

namespace State

/-- The die of a rank of the routing group of this die's latest routing job (R230): device and die. -/
def rankDie (s : State) (die rank : Nat) : Option (Nat × Nat) :=
  ((s.die die).group[rank]?).map (fun g => (g % 4096, bitsN g 12 2))

/-- The state with a link queue replaced. -/
def setLq (s : State) (core q : Nat) (x : Lq) : State :=
  s.updCore core (fun c => { c with lq := c.lq.setIfInBounds q x })

/-- The state with n bytes written to a local memory other than HBM, and the waiters on its lines woken (R137). -/
def writeSram (s : State) (a n v : Nat) : State :=
  (List.range (n / 64 + 1)).foldl (fun s i => s.wakeLine (a + 64 * i)) (s.writeMem a n v)

/-- Slots of the die that pass before a strip pushed now has reached port 7 (R222). -/
def slotOf (s : State) (core : Nat) : Nat := (s.die (dieOfCore core)).slot

/-- The state with a strip of 4,096 bytes put in a tx queue's send buffer, its first cell no earlier than a slot
(R221, R222), or in it (R223). -/
def pushStrip (s : State) (core q slot data : Nat) (timed : Bool) : State :=
  let x := s.lqOf core q
  s.setLq core q { x with
    count := (x.count + 1) % 65536
    out := x.out ++ [{ num := x.count, cell := 0, slot, data, timed }] }

/-- The oldest strip of an rx queue (R221). -/
def headStrip (s : State) (core q : Nat) : Nat := s.readMem (s.lqBuf core q (s.lqOf core q).count) 4096

/-- The state with the oldest strip of an rx queue popped and its buffer freed (R221). -/
def popStrip (s : State) (core q : Nat) : State :=
  let x := s.lqOf core q
  s.setLq core q { x with count := (x.count + 1) % 65536, got := SMap.erase x.got x.count, spaceDue := true }

/-- The state with a queue unbound and the circuit it claimed released (R218). -/
def dropLq (s : State) (core q : Nat) : State :=
  let x := s.lqOf core q
  let c := match x.role with
    | .tx => x.rcirc
    | _ => x.fcirc
  let s : State := { s with circuits := s.circuits.erase c }
  s.setLq core q Lq.init

end State

/-! ### Circuits by slot table -/

/-- The bits of an input and of the valid flag of an output in a slot-table entry (R196). -/
def entryInput (entry out : Nat) : Option Nat :=
  if bitN entry (4 * out + 3) then some (bitsN entry (4 * out) 3) else none

/-- The lowest output that an entry connects an input to (R196). -/
def entryOutput (entry input : Nat) : Option Nat :=
  (List.range 8).find? (fun o => entryInput entry o == some input)

/-- The entry of the active table that governs a slot (R196, R198). -/
def Die.entryAt (d : Die) (slot : Nat) : Nat := d.stent d.act (slot % 256)

/-- The output that takes a circuit cell that came to an input in a slot, and its slot: those of the first entry, two slots
later or more, that connects the input (R197). -/
def Die.outFrom (d : Die) (input slot : Nat) : Option (Nat × Nat) :=
  (List.range 256).findSome? (fun i => (entryOutput (d.entryAt (slot + 2 + i)) input).map (fun o => (o, slot + 2 + i)))

namespace State

/-- The other dies of a die, in increasing number (R194). -/
def otherDies (die : Nat) : List Nat := (List.range 4).filter (fun d => d != die % 4)

/-- The die and the input that a bridge port of a die leads to (R194). -/
def bridgeTo (die out : Nat) : Nat × Nat :=
  let d := (otherDies die).getD (out - 4) 0
  (d, 4 + (otherDies d).findIdx (fun x => x == die % 4))

/-- Does a circuit cell that came to an input of a die's router in a slot leave, over at most `fuel` dies, on a link that is
down (R214)? -/
def pathDown (s : State) : Nat → Nat → Nat → Nat → Bool
  | 0, _, _, _ => false
  | fuel + 1, die, input, slot =>
    match (s.die die).outFrom input slot with
    | none => false
    | some (o, t) =>
      if o < 4 then ((s.die die).links.getD o Link.init).down
      else if o < 7 then pathDown s fuel (bridgeTo die o).1 (bridgeTo die o).2 t
      else false

/-- Does a queue's own cell, given to port 7 of its die's router in one of its slots, leave on a link that is down (R214,
log 23)? -/
def sendsDown (s : State) (die : Nat) (x : Lq) : Bool :=
  (List.range 256).any (fun e => decide (e % 2 ^ x.stepl = x.phase) && s.pathDown 4 die 7 e)

/-- Does a circuit cell that came to an input of a die's router in a slot reach port 7 of a die, over at most `fuel` dies? -/
def pathEnds (s : State) : Nat → Nat → Nat → Nat → Bool
  | 0, _, _, _ => false
  | fuel + 1, die, input, slot =>
    match (s.die die).outFrom input slot with
    | none => false
    | some (o, t) =>
      if o < 4 then false
      else if o < 7 then pathEnds s fuel (bridgeTo die o).1 (bridgeTo die o).2 t
      else true

/-- Do the cells of the circuit that a queue claims come over a link that is down (R214, R215)? That link is the one over which
the circuit's last cell came, and before the first cell each of those that the slot tables connect to port 7; the cells of a peer
on this device come as that queue sends them (DEDUCED, log 23). -/
def takesDown (s : State) (x : Lq) : Bool :=
  let isDown (n : Nat) : Bool := ((s.die (n / 4)).links.getD (n % 4) Link.init).down
  if x.peer = s.devid.toNat % 4096 then
    s.cores.any (fun p => p.2.lq.toList.any (fun y =>
      y.role != .unbound && y.role != x.role && y.fcirc == x.fcirc && y.rcirc == x.rcirc && s.sendsDown (dieOfCore p.1) y))
  else match x.via with
    | some n => isDown n
    | none =>
      let ways := (List.range 16).filter (fun n =>
        (List.range 256).any (fun e => s.pathEnds 4 (n / 4) (n % 4) e))
      !ways.isEmpty && ways.all isDown

/-- Is a link of either circuit of a bound queue's binding down (R214): the one that its own cells take, or the one that it
claims? -/
def queueDown (s : State) (die : Nat) (x : Lq) : Bool := s.sendsDown die x || s.takesDown x

end State

/-! ### Binding -/

/-- Who may use LQBIND (R218), and for `.un` that the strand owns the queue. -/
def lqbindObs (un : Bool) (lq : BitVec 4) (s : State) : Option Obstacle :=
  let x := s.lqOf (coreOf s.cur) lq.toNat
  if s.me.priv = 0 && !s.myCore.ubind then some (.trap .precise (Trap.of 0x04 0))
  else if un && x.role != .unbound then
    if x.owner != strandIn s.cur then some (.trap .precise (Trap.of 0x18 lq.toNat)) else none
  else none

/-- LQBIND.tx or .rx (R218, R382). -/
def bindLq (role : LqRole) (lq : BitVec 4) (sd sp sc : BitVec 6) (s : State) : State :=
  let core := coreOf s.cur
  let v := (s.me.regs.rs sc).toNat
  let peer := (s.me.regs.rs sp).toNat % 4096
  let f := v % 256
  let r := bitsN v 8 8
  let stepl := bitsN v 16 4
  let phase := bitsN v 24 8
  let claim := if role == .tx then r else f
  if (s.lqOf core lq.toNat).role != .unbound then s.putSLock sd 2 4
  else if 8 < stepl || 2 ^ stepl ≤ phase then s.putSLock sd 3 4
  else if (s.circuits.find claim).isSome then s.putSLock sd 1 4
  else
    let s : State := { s with circuits := s.circuits.insert claim (core, lq.toNat, role == .tx, peer) }
    let x : Lq := { Lq.init with
      role, owner := strandIn s.cur, peer, fcirc := f, rcirc := r, stepl, phase, spaceSlot := s.slotOf core }
    (s.setLq core lq.toNat { x with down := s.queueDown (dieOfCore core) x }).putSLock sd 0 4

/-- LQBIND.tx (R218, R382). -/
def execLqbindTx (lq : BitVec 4) (sd sp sc : BitVec 6) (s : State) : Host.Outcome State Fault Refusal :=
  .next (s.gate (lqbindObs false lq) (bindLq .tx lq sd sp sc))

/-- LQBIND.rx (R218, R382). -/
def execLqbindRx (lq : BitVec 4) (sd sp sc : BitVec 6) (s : State) : Host.Outcome State Fault Refusal :=
  .next (s.gate (lqbindObs false lq) (bindLq .rx lq sd sp sc))

/-- LQBIND.un (R218, R382): a tx queue with strips that have not all left is closing, and the result is written once they have. -/
def execLqbindUn (lq : BitVec 4) (sd : BitVec 6) (s : State) : Host.Outcome State Fault Refusal :=
  .next (s.gate (lqbindObs true lq) (fun s =>
    let core := coreOf s.cur
    let x := s.lqOf core lq.toNat
    if x.role == .unbound then s.putSLock sd 0 4
    else if x.role == .tx && !x.out.isEmpty then
      let k := s.nextTag * 4
      ({ s with nextTag := s.nextTag + 1 }.await (.s sd) (BitVec.allOnes 2048) k).setLq core lq.toNat
        { x with closing := true, unTags := x.unTags ++ [(k, s.issue.cycle + 4)] }
    else (s.dropLq core lq.toNat).putSLock sd 0 4))

/-! ### Pushes and pops -/

/-- The Precise traps of LQPUSH and LQPOP (R214, R221): the queue not bound in the role or not owned by the strand,
a link of its circuit down, a lent bank. -/
def lqUse (role : LqRole) (lq : BitVec 4) (vb : BitVec 2) (s : State) : Option Obstacle :=
  let x := s.lqOf (coreOf s.cur) lq.toNat
  if x.role != role || x.owner != strandIn s.cur || x.closing then
    some (.trap .precise (Trap.of 0x18 lq.toNat))
  else if x.down then some (.trap .precise (Trap.of 0x1A lq.toNat))
  else match s.myCore.lent with
    | some (st, b) =>
      if st = strandIn s.cur && b = vb.toNat then some (.trap .precise (Trap.of 0x21 vb.toNat)) else none
    | none => none

/-- LQPUSH (R221, R384). -/
def execLqpush (lq : BitVec 4) (vb : BitVec 2) (s : State) : Host.Outcome State Fault Refusal :=
  .next (s.gate (fun s => (lqUse .tx lq vb s).or (
      let x := s.lqOf (coreOf s.cur) lq.toNat
      if x.avail = 0 || s.lqPaused (coreOf s.cur) x then some (.wait (.lqSpace lq.toNat)) else none))
    (fun s => s.pushStrip (coreOf s.cur) lq.toNat (s.slotOf (coreOf s.cur) + 24) (s.me.bankBits vb.toNat) false))

/-- The slots from the arrival of a strip at port 7 to the slot a timed push names (R223). -/
def State.slotGap (s : State) (st : Word) : Nat :=
  (st.toNat % 2 ^ 24 + 2 ^ 24 - (s.slotOf (coreOf s.cur) + 24) % 2 ^ 24) % 2 ^ 24

/-- LQPUSH.T (R223, R384): cause 0x19 unless the named slot, the space and the queue admit the strip. -/
def execLqpushT (lq : BitVec 4) (vb : BitVec 2) (st : BitVec 6) (s : State) :
    Host.Outcome State Fault Refusal :=
  .next (s.gate (fun s => (lqUse .tx lq vb s).or (
      let x := s.lqOf (coreOf s.cur) lq.toNat
      let named := (s.me.regs.rs st).toNat % 2 ^ 24
      if 1023 < s.slotGap (s.me.regs.rs st) || named % 2 ^ x.stepl != x.phase || x.avail = 0 ||
          s.lqPaused (coreOf s.cur) x
      then some (.trap .precise (Trap.of 0x19 named)) else none))
    (fun s => s.pushStrip (coreOf s.cur) lq.toNat
      (s.slotOf (coreOf s.cur) + 24 + s.slotGap (s.me.regs.rs st)) (s.me.bankBits vb.toNat) true))

/-- LQPOP (R221, R383): the 16 registers of the bank take the strip. -/
def execLqpop (lq : BitVec 4) (vb : BitVec 2) (s : State) : Host.Outcome State Fault Refusal :=
  .next (s.gate (fun s => (lqUse .rx lq vb s).or (
      let x := s.lqOf (coreOf s.cur) lq.toNat
      if x.complete x.count then none else some (.wait (.lqData lq.toNat))))
    (fun s =>
      let v := s.headStrip (coreOf s.cur) lq.toNat
      (List.range 16).foldl (fun s i =>
        s.emit (.v (BitVec.ofNat 6 (16 * vb.toNat + i))) (BitVec.ofNat 2048 (v / 2 ^ (2048 * i)))
          (BitVec.allOnes 2048) 18 true 0) (s.popStrip (coreOf s.cur) lq.toNat)))

/-- The number of a role (R385). -/
def LqRole.num : LqRole → Nat
  | .unbound => 0 | .tx => 1 | .rx => 2

/-- LQSTAT (R385). -/
def execLqstat (sd : BitVec 6) (lq : BitVec 4) (s : State) : Host.Outcome State Fault Refusal :=
  let core := coreOf s.cur
  let x := s.lqOf core lq.toNat
  let v := if x.role == .unbound then 0
    else fields [(63, b2n x.down), (62, b2n (s.lqPaused core x)), (61, b2n (x.owner == strandIn s.cur)),
      (59, x.owner % 8), (57, x.role.num), (48, x.avail), (32, x.peer),
      (16, if x.role == .tx then x.f else 0), (0, x.count)]
  .next (s.putSLock sd (BitVec.ofNat 64 v) 3)

/-! ### Cells -/

/-- The strip whose next cell a tx queue sends in a slot (R222, R223): a timed one in its slots, so that no earlier strip of
the queue delays it (DESIGN CHOICE, log 23), else the oldest. -/
def Lq.nextStrip (x : Lq) (slot : Nat) : Option TxStrip :=
  (x.out.find? (fun o => o.timed && decide (o.slot ≤ slot))).or
    ((x.out.find? (fun o => !o.timed)).filter (fun o => decide (o.slot ≤ slot)))

/-- Is a slot one of a queue's slots (R222)? -/
def Lq.mine (x : Lq) (slot : Nat) : Bool := slot % 2 ^ x.stepl == x.phase

/-- The header of a circuit cell (R192, R220). -/
def circHdr (dst src circ space cell : Nat) : Nat :=
  fields [(61, 1), (48, dst % 4096), (36, src % 4096), (24, circ % 256), (8, space % 65536), (2, cell % 32)]

namespace State

/-- May a tx queue send a strip cell in the current slot (R222)? -/
def stripDue (s : State) (core q : Nat) : Bool :=
  let x := s.lqOf core q
  let d := s.die (dieOfCore core)
  (x.nextStrip d.slot).isSome && x.mine d.slot && decide (d.p7 ≤ d.slot)

/-- Is a space cell of an rx queue due in the current slot (R220): COUNT has changed, or with the queue's next slot more than
256 slots would have passed since the last one or the binding? -/
def spaceDueNow (s : State) (core q : Nat) : Bool :=
  let x := s.lqOf core q
  let d := s.die (dieOfCore core)
  x.role == .rx && x.mine d.slot && decide (d.p7 ≤ d.slot) &&
    (x.spaceDue || decide (x.spaceSlot + 256 < d.slot + 2 ^ x.stepl))

/-- The state with a cell of a queue given to port 7 of its die's router, which takes one a slot (R222). -/
def sendCirc (s : State) (core hdr payload : Nat) : State :=
  let n := dieOfCore core
  (s.updDie n (fun d => { d with p7 := d.slot + 1 })).post [.circuitCellArrival n 7 ⟨hdr, payload⟩]

end State

/-- STRIP_CELL_SEND (R222): the next cell of a strip leaves; after the last cell of the last strip, a queue
that is closing is unbound, and an LQBIND.un that waits for it has its result (R218, R372, R382). -/
def execStripCellSend (core lq : Nat) (s : State) : Host.Outcome State Fault Refusal :=
  if !s.stripDue core lq then .next s
  else
    let x := s.lqOf core lq
    match x.nextStrip (s.slotOf core) with
    | none => .next s
    | some o =>
      let s := s.sendCirc core (circHdr x.peer (s.devid.toNat % 4096) x.fcirc o.num o.cell)
        (bitsN o.data (1024 * o.cell) 1024)
      let out := if o.cell = 31 then x.out.erase o
        else x.out.map (fun y => if y.num = o.num then { o with cell := o.cell + 1, slot := s.slotOf core + 1 } else y)
      let s := s.setLq core lq { x with out }
      .next (if x.closing && out.isEmpty then
          x.unTags.foldl (fun s t => s.answerTag (ownerSid core x.owner) t.1 0 false
            (max t.2 (s.cycleOf (ownerSid core x.owner)))) (s.dropLq core lq)
        else s)

/-- SPACE_CELL_SEND (R220): the receiver's COUNT goes to the sender. -/
def execSpaceCellSend (core lq : Nat) (s : State) : Host.Outcome State Fault Refusal :=
  if !s.spaceDueNow core lq then .next s
  else
    let x := s.lqOf core lq
    .next ((s.setLq core lq { x with spaceDue := false, spaceSlot := s.slotOf core }).sendCirc core
      (circHdr x.peer (s.devid.toNat % 4096) x.rcirc x.count 0) 0)

namespace State

/-- The state with a discarded cell counted (R200). -/
def countBad (s : State) (die : Nat) : State := s.updDie die (fun d => { d with bad := min 65535 (d.bad + 1) })

/-- The state after a circuit cell has reached this device at a die: a strip cell fills its place, a space cell moves
F; one of an unclaimed circuit or another peer is discarded and counted (R215, R220). -/
def circuitIn (s : State) (die circ src cell space payload : Nat) : State :=
  match s.circuits.find circ with
  | none => s.countBad die
  | some (core, lq, rev, peer) =>
    if peer != src then s.countBad die
    else
      let x := s.lqOf core lq
      if rev then
        if (space + 65536 - x.f) % 65536 < 32768 then s.setLq core lq { x with f := space % 65536 } else s
      else if 8 ≤ (space + 65536 - x.count) % 65536 then s
      else
        let n := space % 65536
        let s := s.writeSram (s.lqBuf core lq n + 128 * (cell % 32)) 128 payload
        s.setLq core lq { x with got := x.got.insert n (x.got.getD n 0 ||| 2 ^ (cell % 32)) }

end State

/-- STRIP_CELL_RECEIVE (R215, R220). -/
def execStripCellReceive (circ src cell space payload : Nat) (s : State) : Host.Outcome State Fault Refusal :=
  .next (s.circuitIn 0 circ src cell space payload)

/-- SPACE_CELL_RECEIVE (R220). -/
def execSpaceCellReceive (circ src space : Nat) (s : State) : Host.Outcome State Fault Refusal :=
  .next (s.circuitIn 0 circ src 0 space 0)

end Sys2Proof.Machine
end

