-- ==== Sys2Proof/Machine/Remote.lean ====
section
/-! DEFINITION. Remote accesses (R84, R130 to R132, R202 to R208): requests that arrive at this device, and the
acknowledgements, responses, timeouts and retries of the requests that have left it. -/

namespace Sys2Proof.Machine

namespace State

/-- This device's ID (R82). -/
def devId (s : State) : Nat := s.devid.toNat % 4096

/-! ### The target side -/

/-- The space of accesses that arrive in the import window (R84): `FIMPORT` at user privilege. -/
def importSpace (s : State) (die : Nat) : Space :=
  { asid := bitsN s.fimport.toNat 52 12, base := bitsN s.fimport.toNat 15 37 * 2 ^ 15
    en := s.fimport.getLsbD 0, priv := 0, die, clu := none }

/-- What a remote access of n bytes to a local address of this device meets (R84, R207): nothing, or where it
goes and the translation used. -/
def targetReach (s : State) (die : Nat) (acc : Acc) (n a : Nat) : Option (Dest × Xlat) :=
  if importBase ≤ a && a < hostBase then
    match s.xlat (s.importSpace die) acc (a - importBase) with
    | .fault _ => none
    | .ok pa ty e fresh =>
      if s.isRemote pa then none
      else match s.reachLocal acc n (pa % 2 ^ 52) with
        | .error _ => none
        | .ok d => if ty = 2 && d.isPort then none else some (d, .ok pa ty e fresh)
  else if s.devid.getLsbD 12 then
    match s.reachLocal acc n a with
    | .error _ => none
    | .ok .remote => none
    | .ok d => some (d, .fault 0)
  else none

/-- The die that homes a local address, or the die given for one that no die homes (R83). -/
def homeOf (die a : Nat) : Nat :=
  match regionOf a with
  | .hbm => homeDie a
  | .weight c _ | .tile c _ | .istore c _ | .mstore c _ => dieOfCore c
  | .sram clu _ _ => clu / 16
  | .gate d _ => d
  | _ => die

/-- The flow of a source at this device (R202). -/
def rxflow (s : State) (src flow : Nat) : Option RxFlow :=
  s.rxflows.find? (fun f => f.src == src && f.flow == flow)

/-- The state with a flow of a source replaced or added. -/
def setRxflow (s : State) (f : RxFlow) : State :=
  if (s.rxflow f.src f.flow).isSome then
    { s with rxflows := s.rxflows.map (fun g => if g.src == f.src && g.flow == f.flow then f else g) }
  else { s with rxflows := s.rxflows ++ [f] }

/-- The state with an acknowledgement of a flow on its way from a die's router (R203, R204). -/
def sendAck (s : State) (die : Nat) (f : RxFlow) : State :=
  s.post [.packetRoute die (ackCell f.src s.devId f.flow f.base f.ackmap f.rnrmap)]

end State

/-- BASE moved past what has been executed (R203), at most n numbers. -/
def RxFlow.advance (f : RxFlow) : Nat → RxFlow
  | 0 => f
  | n + 1 =>
    if f.ackmap % 2 = 1 then
      RxFlow.advance { f with
        base := (f.base + 1) % 65536, ackmap := f.ackmap / 2, rnrmap := f.rnrmap / 2 } n
    else f

/-- The distance of a number above BASE; one below BASE is at least 32,768 away. -/
def RxFlow.dist (f : RxFlow) (psn : Nat) : Nat := psnDist psn f.base

/-- Has the flow executed a number (R204)? -/
def RxFlow.executed (f : RxFlow) (psn : Nat) : Bool :=
  decide (32768 ≤ f.dist psn) || bitN f.ackmap (f.dist psn)

/-- The flow with a number executed (R203). -/
def RxFlow.mark (f : RxFlow) (psn : Nat) : RxFlow :=
  if f.executed psn then f
  else
    let d := f.dist psn
    let r := if bitN f.rnrmap d then f.rnrmap - 2 ^ d else f.rnrmap
    RxFlow.advance { f with
      ackmap := f.ackmap + 2 ^ d, rnrmap := r, held := f.held.filter (fun q => q.psn != psn) } 64

/-- The flow with a number that met receiver-not-ready (R208). -/
def RxFlow.refuse (f : RxFlow) (psn : Nat) : RxFlow :=
  let d := f.dist psn
  { f with
    rnrmap := if bitN f.rnrmap d then f.rnrmap else f.rnrmap + 2 ^ d
    held := f.held.filter (fun q => q.psn != psn) }

/-- May a request act as far as the requests before it go (R204): the one it depends on executed or cancelled? -/
def RxFlow.depMet (f : RxFlow) (p : Packet) : Bool :=
  p.dep == 0 || f.executed ((p.psn + 65536 - p.dep) % 65536)

namespace State

/-- The access that a request makes (R206). -/
def accOf (p : Packet) : Acc := if p.op = 1 then .read else if p.op = 2 then .write else .atomic

/-- Must a request that reaches a local address wait at its home: a mode switch, a bias flip, or a lease that a
store or atomic waits for (R100, R101, R110)? -/
def requestWaits (s : State) (p : Packet) : Dest → Bool
  | .mem a => s.homeBusy a || (p.op != 1 && inHbm a && !s.leaseOver a)
  | _ => false

/-- Is there an uncorrectable error among n bytes at a local address (R290)? -/
def poisoned (s : State) (a n : Nat) : Bool := s.poison.any (fun x => decide (a ≤ x) && decide (x < a + n))

/-- The request executed where it goes: nothing for receiver-not-ready, else the response it wants, STATUS and
data, and the state (R206, R207). The bytes of a pushed entry whose BMASK bits are 0 are free, as nothing gives them
(DESIGN CHOICE, log 20). -/
def runRequest (s : State) (p : Packet) (d : Dest) : Option (Option (Nat × Nat) × State) :=
  let n := 2 ^ p.size
  if p.op = 1 then
    match d with
    | .mem a => some (some (b2n (s.poisoned a n), s.readMem a n), s)
    | .pop clu b =>
      let k := s.bank clu b
      match k.fifo with
      | [] => none
      | v :: rest => some (some (0, v.toNat), s.setBank clu b { k with fifo := rest })
    | .mmio off => some (some (0, s.mmioRead off n), s)
    | _ => none
  else if p.op = 2 then
    match d with
    | .mem a => some (none, s.publishStore .program none a n p.data (p.bmask % 2 ^ n))
    | .push clu b =>
      let v := s.orFree (p.bmask % 256 != 255) 0
      let m := bytesMask p.bmask 8
      some (none, v.2.pushFifo clu b (BitVec.ofNat 64 ((p.data &&& m) + (v.1 % 2 ^ 64 - (v.1 % 2 ^ 64 &&& m)))))
    | .mmio off => some (none, s.mmioStore off n p.data p.bmask)
    | _ => none
  else
    match d with
    | .mem a =>
      if inHbm a then
        let w := 8 * aopBytes p.aop
        let r := s.performAtomic .program none a p.aop (p.data % 2 ^ w) (p.data2 % 2 ^ w)
        some (some (b2n (s.poisoned a (aopReads p.aop)), r.1 + b2n r.2.1 * 2 ^ 64), r.2.2)
      else none
    | _ => none

/-- The state with a request executed and acknowledged, its response on its own flow of class 2 (R203, R204). -/
def finishRequest (s : State) (die : Nat) (p : Packet) (f : RxFlow) (resp : Option (Nat × Nat)) : State :=
  let f := f.mark p.psn
  let s := (s.setRxflow f).sendAck die f
  match resp with
  | none => s
  | some (status, data) =>
    s.enqueue p.src 4095 0 .n64
      { src := 0, flow := 128 + p.flow % 64, psn := 0, dep := 0, die, addr := 0, op := 0, size := 0
        aop := status, tag := p.tag, data, data2 := 0, bmask := 0 } false

/-- A request of a flow that has state at this device: acknowledged again, held, refused, or executed (R204, R207,
R208). A store whose BMASK is 0 reaches no home, so that the die that received it acknowledges it (DESIGN CHOICE, log 20). -/
def requestOn (s : State) (p : Packet) (f : RxFlow) : State :=
  if f.executed p.psn then s.sendAck p.die f
  else if 64 ≤ f.dist p.psn then s
  else if p.op = 4 then s.finishRequest p.die p f none
  else if !f.depMet p then
    (if f.held.contains p then s else s.setRxflow { f with held := f.held ++ [p] })
  else if p.op = 2 && p.bmask % 2 ^ 2 ^ p.size = 0 then s.finishRequest p.die p f none
  else
    let refused := let g := f.refuse p.psn; (s.setRxflow g).sendAck p.die g
    match s.targetReach p.die (accOf p) (2 ^ p.size) p.addr with
    | none => refused
    | some (d, x) =>
      if s.requestWaits p d then
        (if f.held.contains p then s else s.setRxflow { f with held := f.held ++ [p] })
      else match s.runRequest p d with
        | none => refused
        | some (resp, s') =>
          let home := match d with
            | .mem a => homeOf p.die a
            | .push clu _ | .pop clu _ => clu / 16
            | _ => p.die
          (s'.commitXlat (s.importSpace p.die) (accOf p) x).finishRequest home p f resp

/-- Does a request name an operation and a size that the tables give, and an atomic its operation (R206)? -/
def requestOk (p : Packet) : Bool :=
  decide (1 ≤ p.op) && decide (p.op ≤ 4) && decide (p.size ≤ 6) && (p.op != 3 || aopOk p.aop)

/-- A request that arrives from the fabric (R203, R204): one of a flow that finds the table full is discarded. -/
def request (s : State) (p : Packet) : State :=
  if !requestOk p then s.countBad p.die
  else match s.rxflow p.src p.flow with
    | some f => s.requestOn p f
    | none =>
      if 8192 ≤ s.rxflows.length then s
      else
        let f : RxFlow := ⟨p.src, p.flow, 0, 0, 0, []⟩
        (s.setRxflow f).requestOn p f

/-- A held request that may act now. -/
def heldDue (s : State) : Option Packet :=
  s.rxflows.findSome? (fun f => f.held.find? (fun p => f.depMet p &&
    (match s.targetReach p.die (accOf p) (2 ^ p.size) p.addr with
     | some (d, _) => !s.requestWaits p d
     | none => true)))

end State

/-- REMOTE_LOAD (R206, R207). -/
def execRemoteLoad (p : Packet) (s : State) : Host.Outcome State Fault Refusal :=
  .next (s.request { p with op := 1 })

/-- REMOTE_STORE (R206, R207). -/
def execRemoteStore (p : Packet) (s : State) : Host.Outcome State Fault Refusal :=
  .next (s.request { p with op := 2 })

/-- REMOTE_ATOMIC (R206, R207). -/
def execRemoteAtomic (p : Packet) (s : State) : Host.Outcome State Fault Refusal :=
  .next (s.request { p with op := 3 })

/-- REMOTE_CANCEL (R207). -/
def execRemoteCancel (p : Packet) (s : State) : Host.Outcome State Fault Refusal :=
  .next (s.request { p with op := 4 })

/-! ### The source side -/

namespace State

/-- A packet of this device that is not done with. -/
def txPkt (s : State) (dst flow psn : Nat) : Option TxPkt :=
  (s.txflow dst flow).pkts.find? (fun p => p.psn == psn)

/-- The state with a packet of this device changed. -/
def updTx (s : State) (dst flow psn : Nat) (g : TxPkt → TxPkt) : State :=
  let f := s.txflow dst flow
  s.setTxflow { f with pkts := f.pkts.map (fun p => if p.psn == psn then g p else p) }

/-- The state with a packet sent again (R205, R208). -/
def resend (s : State) (dst flow psn : Nat) : State :=
  match s.txPkt dst flow psn with
  | none => s
  | some p =>
    (s.updTx dst flow psn (fun p => { p with sent := (s.die p.pkt.die).cycle + 1, rnrUntil := none })).post
      [.packetRoute p.pkt.die (cellOf dst p.pkt)]

/-- The state with a failure met in the footprint block of a queue's head (R264, R268). -/
def footFailure (s : State) (q code tval : Nat) : State := s.setQueue q { s.queue q with footBad := some (code, tval) }

/-- The state with the failure of a packet reported (R131, R208): 0x13 at the strand, for a store as a report and
for a load or atomic in the place of its answer; at an engine, its job. -/
def reportFailure (s : State) (p : TxPkt) : State :=
  if 4096 + 2 ^ 40 ≤ p.owner then s.footFailure (p.owner - 4096 - 2 ^ 40) 0x13 (p.va - 2 ^ 65)
  else if 4096 ≤ p.owner then s.post [.jobFailure p.pkt.die (p.owner - 4096) 0x13 p.va]
  else if p.owner = 4095 then s
  else if p.pkt.op = 2 then
    s.updStrand p.owner (fun st => { st with reports := st.reports ++ [Trap.of 0x13 p.va] })
  else
    s.updStrand p.owner (fun st => st.onRequest (fun r =>
      if r.sent && r.tag == p.pkt.tag / 4 then { r with fail := some (Trap.of 0x13 p.va) } else r))

/-- The state with a packet given up: a cancel with its number is sent, and the failure reported (R208). -/
def giveUp (s : State) (dst flow : Nat) (p : TxPkt) : State :=
  let c : TxPkt → TxPkt := fun q =>
    { q with cancelled := true, waits := false, pkt := { q.pkt with op := 4, data := 0, data2 := 0, bmask := 0 } }
  ((s.updTx dst flow p.psn c).resend dst flow p.psn).reportFailure p

/-- The state after the wait of a packet that met receiver-not-ready begins, or after its last (R208). -/
def meetRnr (s : State) (dst flow : Nat) (p : TxPkt) : State :=
  if s.rnrlim.toNat ≤ p.rnrs then s.giveUp dst flow p
  else s.updTx dst flow p.psn (fun q =>
    { q with rnrs := q.rnrs + 1, rnrUntil := some (s.now + 1050 * 2 ^ p.rnrs) })

end State

/-- Does an acknowledgement say that a number has been executed (R203)? -/
def ackCovers (a : AckPkt) (psn : Nat) : Bool :=
  let d := psnDist psn a.base
  decide (32768 ≤ d) || (decide (d < 64) && bitN a.ackmap d)

/-- Does an acknowledgement say that a number met receiver-not-ready (R203)? -/
def ackRefuses (a : AckPkt) (psn : Nat) : Bool :=
  decide (psnDist psn a.base < 64) && bitN a.rnrmap (psnDist psn a.base)

/-- ACK_RECEIVED (R203, R208): what is executed is done with, but for loads and atomics whose response has not come;
what met receiver-not-ready waits for its retry; the window moves. An acknowledgement says nothing of when it was made: one that
names a packet in RNRMAP after its retry has left counts as that retry's (DESIGN CHOICE, log 20). -/
def execAckReceived (a : AckPkt) (s : State) : Host.Outcome State Fault Refusal :=
  let f := s.txflow a.src a.flow
  let done (p : TxPkt) : Bool := p.sent != 0 && ackCovers a p.psn
  let f' := { f with
    base := if psnDist a.base f.base < 32768 then a.base else f.base
    pkts := (f.pkts.filter (fun p => !(done p && !p.waits))).map (fun p =>
      if done p then { p with acked := true, rnrUntil := none } else p) }
  if f.pkts.isEmpty then .next s
  else
    let s := s.setTxflow f'
    let rnr := f'.pkts.filter (fun p => p.sent != 0 && !p.acked && p.rnrUntil.isNone && !p.cancelled &&
      p.pkt.op != 0 && ackRefuses a p.psn)
    let s := rnr.foldl (fun s p => s.meetRnr a.src a.flow p) s
    .next (s.pump a.src a.flow)

namespace State

/-- The virtual address of a byte of a job's regions, from its page locks (R107). -/
def lockedVa (s : State) (die job pa : Nat) : Nat :=
  ((s.die die).locks.findSome? (fun l =>
    if l.2.job != job then none
    else (l.2.phys.foldl (fun (a : Nat × Option Nat) (r : Range) =>
      (a.1 + r.len, a.2.or (if r.pa ≤ pa && pa < r.pa + r.len then some (l.2.va + a.1 + (pa - r.pa)) else none)))
      (0, none)).2)).getD pa

/-- The state after a job's store to local memory has reached its home (R100, R101): it is visible, or, during a mode switch or
under a lease that has not ended, it waits there, as does one that follows it to the same bytes. -/
def engineWrite (s : State) (die job a n data : Nat) : State :=
  if s.writeWaits a n || s.heldStores.any (fun h => meets a n h.addr h.size)
  then { s with heldStores := s.heldStores ++ [⟨die, job, a, n, data⟩] }
  else s.publishStore .engine none a n data (2 ^ n - 1)

/-- n bytes at a local address as a job's engine reads them: its own stores that wait at their homes included. -/
def engineRead (s : State) (job a n : Nat) : Nat :=
  overlaid ((s.heldStores.filter (fun h => h.job == job)).map (fun h => (h.addr, h.size, h.data))) a n (s.readMem a n)

/-- The state with the engines' stores visible that need wait no more, in their order. -/
def serveStores (s : State) : State :=
  s.heldStores.foldl (fun s h =>
    if s.writeWaits h.addr h.size ||
        (s.heldStores.takeWhile (fun k => k != h)).any (fun k => meets h.addr h.size k.addr k.size) then s
    else { s with heldStores := s.heldStores.erase h }.publishStore .engine none h.addr h.size h.data (2 ^ h.size - 1)) s

/-- The state after n bytes of an engine's job have come for a physical place: written there, at this device or as a
store to another. -/
def engineStore (s : State) (die job pa n data : Nat) : State :=
  if s.isRemote pa then s.engineRequest die job pa 0 2 (Nat.log2 n) data (2 ^ n - 1)
  else match s.reachLocal .write n (pa % 2 ^ 52) with
    | .ok (.mem a) => s.engineWrite die job a n data
    | .ok (.push clu b) => s.pushFifo clu b (BitVec.ofNat 64 data)
    | .ok (.mmio off) => s.mmioStore off n data (2 ^ n - 1)
    | .ok _ => s
    | .error c => s.post [.jobFailure die job c (s.lockedVa die job pa)]

/-- The state with the answer to a request of this device given to the one that waits for it (R206, R207). -/
def giveAnswer (s : State) (dst : Nat) (p : TxPkt) (status data : Nat) : State :=
  let n := 2 ^ p.pkt.size
  let v := if p.pkt.op = 1 then data % 2 ^ (8 * n) else data
  if 4096 + 2 ^ 40 ≤ p.owner then
    let q := p.owner - 4096 - 2 ^ 40
    if status = 1 then s.footFailure q 0x3F (dst * 2 ^ 52 + p.pkt.addr)
    else s.setQueue q { s.queue q with foot := (s.queue q).foot.insert ((p.va - 2 ^ 65) / 64) v }
  else if 4096 ≤ p.owner then
    if s.dies.toList.all (fun d => d.jobs.all (fun j => j.id != p.owner - 4096)) then s
    else if status = 1 then s.post [.jobFailure p.pkt.die (p.owner - 4096) 0x3F (dst * 2 ^ 52 + p.pkt.addr)]
    else if 2 ^ 65 ≤ p.va then
      s.updDie p.pkt.die (fun d => { d with
        jobs := d.jobs.map (fun j =>
          if j.id == p.owner - 4096 then { j with fetched := j.fetched.insert ((p.va - 2 ^ 65) / 64) v } else j) })
    else s.engineStore p.pkt.die (p.owner - 4096) p.va n v
  else
    s.updStrand p.owner (fun st => { st.onRequest (fun r =>
        if r.sent && r.tag == p.pkt.tag / 4 then { r with got := SMap.insert r.got (p.pkt.tag % 4) v } else r) with
      reports := if status = 1 then st.reports ++ [Trap.of 0x3F (dst * 2 ^ 52 + p.pkt.addr)] else st.reports })

end State

/-- The request of this device that a response answers, with its flow (R206). -/
def State.responseTo (s : State) (r : RespPkt) : Option (TxFlow × TxPkt) :=
  s.txflows.findSome? (fun (t : TxFlow) => if t.dst == r.src then
    (t.pkts.find? (fun p => p.waits && p.pkt.tag % 2 ^ 32 == r.tag)).map (fun p => (t, p)) else none)

/-- RESPONSE_RECEIVED (R204, R206): acknowledged on its own flow, and once only given to the strand or engine; one for an engine
waits for a mode switch (R101). -/
def execResponseReceived (r : RespPkt) (s : State) : Host.Outcome State Fault Refusal :=
  let f := (s.rxflow r.src r.flow).getD ⟨r.src, r.flow, 0, 0, 0, []⟩
  if (s.rxflow r.src r.flow).isNone && 8192 ≤ s.rxflows.length then .next s
  else if f.executed r.psn then .next (s.sendAck r.die f)
  else if 64 ≤ f.dist r.psn then .next s
  else if s.l2busy && (s.responseTo r).any (fun x => decide (4096 ≤ x.2.owner)) then
    .next { s with heldEvents := s.heldEvents ++ [.responseReceived r] }
  else
    let g := f.mark r.psn
    let s := (s.setRxflow g).sendAck r.die g
    match s.responseTo r with
    | none => .next s
    | some (t, p) =>
      let s := s.setTxflow { t with pkts := (t.pkts.filter (fun q => !(q.psn == p.psn && q.acked))).map (fun q =>
        if q.psn == p.psn then { q with waits := false } else q) }
      .next (s.giveAnswer r.src p r.status r.data)

namespace State

/-- The timeout in force (R205). -/
def timeoutLen (s : State) : Nat := max 1024 s.ackto.toNat

/-- Has a packet timed out (R205): neither executed nor marked receiver-not-ready in time after it was last sent, in cycle
`sent - 1`? -/
def timedOut (s : State) (p : TxPkt) : Bool :=
  p.sent != 0 && !p.acked && p.rnrUntil.isNone && decide (p.sent + s.timeoutLen ≤ (s.die p.pkt.die).cycle + 1)

/-- Is a packet's next retry due (R208)? -/
def retryDue (s : State) (p : TxPkt) : Bool :=
  match p.rnrUntil with
  | some t => decide (t ≤ s.now)
  | none => false

end State

/-- ACK_TIMEOUT (R205): the packet is sent again, or given up after RTXLIM timeouts; a response and a cancel are sent
until they are acknowledged (R204, log 20). -/
def execAckTimeout (dst flow psn : Nat) (s : State) : Host.Outcome State Fault Refusal :=
  match s.txPkt dst flow psn with
  | none => .next s
  | some p =>
    if !s.timedOut p then .next s
    else if p.pkt.op = 0 || p.cancelled then .next (s.resend dst flow psn)
    else if p.timeouts < max 1 s.rtxlim.toNat then
      .next ((s.updTx dst flow psn (fun q => { q with timeouts := q.timeouts + 1 })).resend dst flow psn)
    else .next (s.giveUp dst flow p)

/-- RNR_RETRY (R208): the wait is over, and the packet is sent again. -/
def execRnrRetry (dst flow psn : Nat) (s : State) : Host.Outcome State Fault Refusal :=
  match s.txPkt dst flow psn with
  | none => .next s
  | some p => if s.retryDue p then .next (s.resend dst flow psn) else .next s

/-- The retry or timeout of a packet of this device that is due. -/
def State.flowDue (s : State) : Option Instr :=
  s.txflows.findSome? (fun f => f.pkts.findSome? (fun p =>
    if s.retryDue p then some (.rnrRetry f.dst f.flow p.psn)
    else if s.timedOut p then some (.ackTimeout f.dst f.flow p.psn) else none))

end Sys2Proof.Machine
end

