-- ==== Sys2Proof/Machine/Router.lean ====
section
/-! DEFINITION. Routers and links (R191 to R200, R209 to R214): circuits by slot table, sprayed cells by the `FRT`, link
cells with their trailer and protection, and the discards that `FABSTAT` counts. -/

namespace Sys2Proof.Machine

/-! ### Checks of a cell -/

/-- The kind of a cell (R192). -/
def cellKind (hdr : Nat) : Nat := bitsN hdr 61 3

/-- A header whose kind is assigned and whose reserved fields are 0 (R192). -/
def hdrOk (hdr : Nat) : Bool :=
  let k := cellKind hdr
  if k = 0 || k = 5 then bitsN hdr 0 36 == 0
  else if k = 1 then bitsN hdr 32 4 == 0 && !bitN hdr 7 && bitsN hdr 0 2 == 0
  else if k = 4 then bitsN hdr 2 6 == 0 && !bitN hdr 1
  else if k = 2 || k = 3 then !bitN hdr 1
  else false

/-- One bit of a CRC register of w bits shifted with a polynomial. -/
def crcBit (w poly reg : Nat) (b : Bool) : Nat :=
  let top := bitN reg (w - 1)
  let r := reg * 2 % 2 ^ w
  if top != b then r ^^^ poly else r

/-- The CRC of the n low bits of a value, most significant first. -/
def crcOf (w poly : Nat) (v : Nat) : Nat → Nat → Nat
  | 0, reg => reg
  | n + 1, reg => crcOf w poly v n (crcBit w poly reg (bitN v n))

/-- The CRC-16 of a trailer's bits 47:16 (R193). -/
def crc16 (trailer : Nat) : Nat := crcOf 16 0x1021 (bitsN trailer 16 32) 32 0xFFFF

/-- The CRC-64 of a cell, ECMA-182, over its 136 bytes from the first on (R209, log 20). -/
def crc64 (hdr payload : Nat) : Nat :=
  crcOf 64 0x42F0E1EBA9EA3693 (revBytes (hdr + payload % 2 ^ 1024 * 2 ^ 64) 136) 1088 0

/-- A trailer (R193). -/
def trailerOf (lseq lack : Nat) (nak : Bool) : Nat :=
  let t := fields [(36, lseq % 4096), (24, lack % 4096), (23, b2n nak)]
  t + crc16 t

namespace State

/-- A link of a die. -/
def link (s : State) (die port : Nat) : Link := (s.die die).links.getD port Link.init

/-- The state with a readiness bit set or cleared (R298). -/
def setReady (s : State) (word bit : Nat) (v : Bool) : State :=
  { s with ready := s.ready.setIfInBounds word (setField (s.ready.getD word 0) bit 1 (b2n v)) }

/-- The state with a readiness bit lost: it stays 0, or for a link until it is trained again (R298). -/
def loseBit (s : State) (word bit : Nat) : State :=
  { s.setReady word bit false with lost := s.lost.setIfInBounds word (setField (s.lost.getD word 0) bit 1 1) }

/-- Does a port of a ready router lead anywhere: a trained link that is up and has counters left, or a bridge to a router that
is ready (R194, R197, R212, R299)? A circuit cell whose slot falls on a spent link is discarded and counted as one for a link that
is down is (DESIGN CHOICE, log 20: R212 says only that the port offers no credit). Port 7 is none of these (R199, log 20). -/
def portOpen (s : State) (die port : Nat) : Bool :=
  s.routerReady (die % 4) &&
    (if port < 4 then (s.link die port).trained && !(s.link die port).down && !(s.link die port).spent
     else port < 7 && s.routerReady (bridgeTo die port).1)

end State

namespace State

/-- The state with every bound link queue marked that sends, or is sent to, over a link that is down (R214). -/
def refreshDown (s : State) : State :=
  { s with cores := s.cores.map (fun p =>
      if p.2.lq.toList.any (fun x => x.role != .unbound) then
        (p.1, { p.2 with lq := p.2.lq.map (fun x =>
          if x.role == .unbound then x else { x with down := s.queueDown (dieOfCore p.1) x }) })
      else p) }

/-! ### Links -/

/-- The 256-bit key of a direction and slot (R210). -/
def keyOf (l : Link) (i : Nat) : Nat :=
  fields ((List.range 4).map (fun k => (64 * k, (l.keys.getD (4 * i + k) 0).toNat)))

/-- The 96-bit nonce of a direction and slot (R209). -/
def nonceOf (l : Link) (i : Nat) : Nat := (l.salts.getD i 0).toNat * 2 ^ 64 + l.ctrs.getD i 0 % 2 ^ 64

/-- The events of the counter of a slot in use that has come from one value to another: the limits it has reached on the way, a
slot that comes into use having started from 0 (R212). -/
def ctrEvents (die port old new : Nat) : List Instr :=
  (if old < 2 ^ 47 && 2 ^ 47 ≤ new then [.counterWarn die port] else []) ++
    (if old < 2 ^ 48 && 2 ^ 48 ≤ new then [.counterSpent die port] else [])

/-- The events of the slot that a link's sending direction begins to use (R212). -/
def slotEvents (s : State) (die port : Nat) : List Instr :=
  let l := s.link die port
  if l.txOn then ctrEvents die port 0 (l.ctrs.getD (b2n l.txslot) 0) else []

/-- The state with a non-idle cell given to a link: the next LSEQ, protected under the sending slot or with its CRC,
kept for replay, and in line for a slot of the link (R191, R193, R209). -/
def transmit (s : State) (die port : Nat) (c : Cell) : State :=
  let n := die % 4 * 4 + port
  let l := s.link die port
  let lseq := (l.lseq + 1) % 4096
  let i := b2n l.txslot
  let hdr := if l.txOn then c.hdr - bitsN c.hdr 60 1 * 2 ^ 60 + i * 2 ^ 60 else c.hdr
  let payload := if l.txOn then (c.payload % 2 ^ 1024) ^^^ gcmStream (keyOf l i) (nonceOf l i) else c.payload % 2 ^ 1024
  let tag := if l.txOn then gcmTag (keyOf l i) (nonceOf l i) hdr payload else crc64 hdr payload
  let cell : LinkCell := ⟨hdr, payload, tag, trailerOf lseq ((l.expect + 4095) % 4096) false⟩
  let old := l.ctrs.getD i 0
  let ctr := if l.txOn then old + 1 else old
  let s := s.updLink n (fun l => { l with
    lseq, sent := (l.sent ++ [(lseq, cell)]).drop (l.sent.length + 1 - 1024), ctrs := l.ctrs.setIfInBounds i ctr
    line := l.line ++ [cell] })
  s.post (if l.txOn then ctrEvents die port old ctr else [])

/-- The idle cell of a link, with or without NAK: it repeats the last LSEQ (R193). -/
def idleCell (l : Link) (nak : Bool) : LinkCell := ⟨0, 0, crc64 0 0, trailerOf l.lseq ((l.expect + 4095) % 4096) nak⟩

/-- The state with a NAK due on a link: an idle cell carries it in the next slot (R193). -/
def sendNak (s : State) (die port : Nat) : State :=
  s.updLink (die % 4 * 4 + port) (fun l => { l with nak := true, nakDue := true })

/-- The state after a slot of a link has passed (R191, R193): it carried a NAK that was due, else the first cell in line, else
an idle cell. An idle cell that only repeats the one before it is not told again to the outside (log 9). -/
def linkSlot (s : State) (die port : Nat) : State :=
  let n := die % 4 * 4 + port
  let l := s.link die port
  if !l.trained || l.down || !s.routerReady (die % 4) then s
  else
    let (c, l) := if l.nakDue then (idleCell l true, { l with nakDue := false })
      else match l.line with
        | c :: rest => (c, { l with line := rest })
        | [] => (idleCell l false, l)
    let s' := s.updLink n (fun _ => { l with wire := some c })
    if cellKind c.hdr = 0 && l.wire == some c then s' else s'.send (.link (die % 4) port c)

/-- Does LACK cover a sequence number? -/
def lackCovers (lack n : Nat) : Bool := decide ((lack + 4096 - n % 4096) % 4096 < 2048)

/-- The state after LACK of the reverse direction: a marker covered frees the old slot (R212). -/
def takeLack (s : State) (die port lack : Nat) : State :=
  s.updLink (die % 4 * 4 + port) (fun l => match l.marker with
    | some m => if lackCovers lack m then { l with oldfree := true, marker := none } else l
    | none => l)

/-- The state after a link has gone down (R214): its readiness bit falls, the management controller and the host are
interrupted, the latter by the vector of a fallen bit and that of management events (R293), and the queues that send over it
are marked. -/
def linkDown (s : State) (die port : Nat) : State :=
  let n := die % 4 * 4 + port
  let s := s.updLink n (fun l => { l with down := true, authDown := true })
  ((((s.loseBit 9 (16 + n)).send (.msix 69)).send (.mgmt n)).send (.msix 0)).refreshDown

/-- A cell accepted from a link or a bridge, by its kind (R192, R194). -/
def acceptCell (s : State) (die port : Nat) (c : Cell) : State :=
  if !hdrOk c.hdr then s.countBad die
  else if cellKind c.hdr = 1 then s.post [.circuitCellArrival die port c]
  else if cellKind c.hdr = 0 || cellKind c.hdr = 5 then s
  else s.post [.packetRoute die c]

/-- The state after a non-idle cell in its turn on a link: checked under the expected slot or by its CRC, accepted or
discarded with NAK (R193, R209, R213). -/
def checkCell (s : State) (die port : Nat) (c : LinkCell) : State :=
  let n := die % 4 * 4 + port
  let l := s.link die port
  let i := 2 + b2n l.rxslot
  if l.rxOn then
    let good := bitsN c.hdr 60 1 == b2n l.rxslot &&
      c.tag == gcmTag (keyOf l i) (nonceOf l i) c.hdr (c.payload % 2 ^ 1024)
    if good then
      let s := s.updLink n (fun l => { l with
        expect := (l.expect + 1) % 4096, nak := false, authcnt := 0
        ctrs := l.ctrs.setIfInBounds i (l.ctrs.getD i 0 + 1)
        rxslot := if cellKind c.hdr = 5 then !l.rxslot else l.rxslot })
      s.acceptCell die port ⟨c.hdr, (c.payload % 2 ^ 1024) ^^^ gcmStream (keyOf l i) (nonceOf l i)⟩
    else
      let s := (s.updLink n (fun l => { l with authcnt := l.authcnt + 1 })).sendNak die port
      if max 1 l.authlim.toNat ≤ l.authcnt + 1 then s.linkDown die port else s
  else if c.tag = crc64 c.hdr c.payload then
    (s.updLink n (fun l => { l with expect := (l.expect + 1) % 4096, nak := false })).acceptCell die port
      ⟨c.hdr, c.payload % 2 ^ 1024⟩
  else s.sendNak die port

end State

/-- LINK_CELL_RECEIVE (R193, R213): the trailer is checked, LACK and NAK taken, and a non-idle cell accepted only in
its turn. An idle cell, which is never protected (R209), is checked by its CRC; one that fails is answered with NAK, and AUTHCNT
stays, on a protected direction too (DESIGN CHOICE, log 20). Nothing comes in over a router that is not ready, or in minimal mode
(R297, R299). -/
def execLinkCellReceive (die port : Nat) (c : LinkCell) (s : State) : Host.Outcome State Fault Refusal :=
  let l := s.link die port
  if !l.trained || l.down || !s.routerReady (die % 4) || s.boot.min then .next s
  else if bitsN c.trailer 0 16 != crc16 c.trailer || bitsN c.trailer 48 16 != 0 then .next (s.sendNak die port)
  else
    let lack := bitsN c.trailer 24 12
    let s := s.takeLack die port lack
    let s := if bitN c.trailer 23 then s.post [.linkReplay die port lack] else s
    if cellKind c.hdr = 0 then
      .next (if c.tag != crc64 c.hdr c.payload then s.sendNak die port else if hdrOk c.hdr then s else s.countBad die)
    else
      let d := (bitsN c.trailer 36 12 + 4096 - l.expect) % 4096
      if d = 0 then .next (s.checkCell die port c)
      else if d < 2048 && !l.nak then .next (s.sendNak die port)
      else .next s

/-- LINK_REPLAY (R193): after a NAK the cells from LACK + 1 on are in line again, in order and bit for bit. -/
def execLinkReplay (die port lack : Nat) (s : State) : Host.Outcome State Fault Refusal :=
  let l := s.link die port
  if !l.trained || l.down then .next s
  else
    .next ((s.takeLack die port lack).updLink (die % 4 * 4 + port) (fun l => { l with
      line := (l.sent.filter (fun p => !State.lackCovers lack p.1)).map (·.2) }))

/-- LINK_RETRAIN (R195, R211, R214): a trained link starts anew with its fixed delay, the protection that TXEN and RXEN
say, and slot 0; its readiness bit is 1. -/
def execLinkRetrain (die port ldly : Nat) (s : State) : Host.Outcome State Fault Refusal :=
  let n := die % 4 * 4 + port
  if 4 ≤ port then .next s
  else
    let s := s.updLink n (fun l => { l with
      trained := true, down := false, authDown := false, ldly := ldly % 4096, lseq := 0, expect := 1, nak := false
      sent := [], marker := none, authcnt := 0, txOn := l.txen, rxOn := l.rxen, txslot := false, rxslot := false
      oldfree := true, spent := l.txen && decide (2 ^ 48 ≤ l.ctrs.getD 0 0), line := [], nakDue := false, wire := none })
    let s : State := { s with
      lost := s.lost.setIfInBounds 9 (setField (s.lost.getD 9 0) (16 + n) 1 0)
      passed := s.passed.setIfInBounds 9 (setField (s.passed.getD 9 0) (16 + n) 1 1) }
    .next ((s.setReady 9 (16 + n) (s.routerReady (die % 4))).refreshDown.post (s.slotEvents die port))

/-- KEY_SWITCH (R212): TXSW with OLDFREE sends the marker under the slot in use and switches; else it is ignored. -/
def execKeySwitch (die port : Nat) (s : State) : Host.Outcome State Fault Refusal :=
  let n := die % 4 * 4 + port
  let l := s.link die port
  if !l.txOn || !l.oldfree || !l.trained || l.down then .next s
  else
    let s := s.transmit die port ⟨fields [(61, 5)], 0⟩
    let s := s.updLink n (fun l => { l with
      marker := some l.lseq, txslot := !l.txslot, oldfree := false
      spent := decide (2 ^ 48 ≤ l.ctrs.getD (b2n !l.txslot) 0) })
    .next (s.post (s.slotEvents die port))

/-- COUNTER_WARN (R212): the counter of the slot in use, or of the one that the sending direction is leaving, has reached 2^47. -/
def execCounterWarn (die port : Nat) (s : State) : Host.Outcome State Fault Refusal :=
  .next (s.updLink (die % 4 * 4 + port) (fun l =>
    if l.txOn && (2 ^ 47 ≤ l.ctrs.getD (b2n l.txslot) 0 || (!l.oldfree && 2 ^ 47 ≤ l.ctrs.getD (b2n !l.txslot) 0)) then { l with warn := true } else l))

/-- COUNTER_SPENT (R212): only idle cells are sent, and the port offers no credit. -/
def execCounterSpent (die port : Nat) (s : State) : Host.Outcome State Fault Refusal :=
  .next (s.updLink (die % 4 * 4 + port) (fun l =>
    if l.txOn && 2 ^ 48 ≤ l.ctrs.getD (b2n l.txslot) 0 then { l with spent := true } else l))

/-! ### Routers -/

namespace State

/-- The state after a packet for this device has left port 7 of a die's router for its unit (R194, R206). -/
def deliver (s : State) (die : Nat) (c : Cell) : State :=
  let k := cellKind c.hdr
  let p := packetOf die c
  if k = 3 then s.post [.responseReceived (respOf die c)]
  else if k = 4 then s.post [.ackReceived (ackOf c)]
  else if !requestOk p then s.countBad die
  else if p.op = 1 then s.post [.remoteLoad p]
  else if p.op = 2 then s.post [.remoteStore p]
  else if p.op = 3 then s.post [.remoteAtomic p]
  else s.post [.remoteCancel p]

/-- The state after a cell has left an output of a die's router. -/
def leaveOn (s : State) (die out : Nat) (c : Cell) : State :=
  if out < 4 then s.transmit die out c
  else if out < 7 then s.acceptCell (bridgeTo die out).1 (bridgeTo die out).2 c
  else if cellKind c.hdr = 1 then
    s.circuitIn die (bitsN c.hdr 24 8) (bitsN c.hdr 36 12) (bitsN c.hdr 2 5) (bitsN c.hdr 8 16) c.payload
  else s.deliver die c

/-- The circuit cell that leaves an output in the current slot (R197): the oldest that arrived two slots ago or more
on the input that the entry connects to it. -/
def circuitReady (s : State) (die out : Nat) : Option QCell :=
  let d := s.die die
  let e := d.entryAt d.slot
  match entryInput e out with
  | some i =>
    if entryOutput e i = some out then d.circ.find? (fun q => q.input == i && decide (q.slot + 2 ≤ d.slot)) else none
  | none => none

/-- The ports of a cell's mask that are open. -/
def maskOpen (s : State) (die : Nat) (q : QCell) : List Nat :=
  let e := (s.die die).routeEnt (bitsN q.cell.hdr 48 12)
  (List.range 8).filter (fun p => bitN e p && s.portOpen die p)

/-- Where a waiting sprayed cell goes when it has no port: the open port of its mask with the fewest cells waiting, or, once
the ports of the mask have given no credit for 64 slots, a valid escape (R199). -/
def chooseOut (s : State) (die : Nat) (q : QCell) : QCell :=
  let d := s.die die
  let e := d.routeEnt (bitsN q.cell.hdr 48 12)
  let load (p : Nat) : Nat := (d.spray.filter (fun x => x.out == p)).length
  match s.maskOpen die q with
  | [] =>
    let t := q.dry.getD d.slot
    if bitN e 15 && t + 64 ≤ d.slot then { q with out := bitsN e 8 3, esc := true } else { q with out := 8, dry := some t }
  | p :: rest => { q with out := rest.foldl (fun best x => if load x < load best then x else best) p, dry := none }

/-- The waiting cells of a die as a slot ends: those whose mask has no open port are without credit since then, or longer
(R199). -/
def markDry (s : State) (die : Nat) : List QCell :=
  (s.die die).spray.map (fun q =>
    if q.esc || q.out == 7 || (s.portOpen die q.out && (s.maskOpen die q).contains q.out) then q
    else if (s.maskOpen die q).isEmpty then { q with dry := some (q.dry.getD (s.die die).slot) }
    else { q with dry := none })

/-- The sprayed cell that leaves an output in the current slot: on port 7 a cell for this device (R194). -/
def sprayReady (s : State) (die out : Nat) : Option QCell :=
  let d := s.die die
  if out != 7 && !s.portOpen die out then none
  else d.spray.find? (fun q => q.out == out && decide (q.slot + 2 ≤ d.slot))

/-- Has an output of a die's router a cell to send in the current slot? -/
def sendReady (s : State) (die out : Nat) : Bool :=
  decide ((s.die die).sent.getD out 0 ≤ (s.die die).slot) &&
    ((s.circuitReady die out).isSome || (s.sprayReady die out).isSome)

/-- A waiting sprayed cell with no port, or whose link has gone down, that may choose a port now (R214). -/
def portless (s : State) (die : Nat) : Option QCell :=
  (s.die die).spray.find? (fun q => !q.esc && q.out != 7 && !s.portOpen die q.out && s.portOpen die (s.chooseOut die q).out)

end State

/-- The state with the link kept over which the cells of a claimed circuit of this device come (R214, log 23). -/
def State.markVia (s : State) (die port : Nat) (c : Cell) : State :=
  if !hdrOk c.hdr || 4 ≤ port || bitsN c.hdr 48 12 != s.devId then s
  else match s.circuits.find (bitsN c.hdr 24 8) with
    | some (core, lq, _, peer) =>
      let x := s.lqOf core lq
      let y := { x with via := some (die % 4 * 4 + port) }
      if peer == bitsN c.hdr 36 12 && x.via != y.via then s.setLq core lq { y with down := s.queueDown (dieOfCore core) y } else s
    | none => s

/-- CIRCUIT_CELL_ARRIVAL (R197): the cell waits at its input; a ninth is discarded and counted. -/
def execCircuitCellArrival (die port : Nat) (c : Cell) (s : State) : Host.Outcome State Fault Refusal :=
  let s := s.markVia die port c
  let d := s.die die
  if !hdrOk c.hdr || cellKind c.hdr != 1 then .next (s.countBad die)
  else if 8 ≤ (d.circ.filter (fun q => q.input == port)).length then
    .next (s.updDie die (fun d => { d with covf := min 65535 (d.covf + 1) }))
  else .next (s.updDie die (fun d => { d with circ := d.circ ++ [⟨port, 0, d.slot, c, false, none⟩] }))

/-- CELL_SEND (R197, R199): in a slot an output sends the circuit cell of its entry, else a sprayed cell; a circuit cell
for a link that is not up is discarded and counted; a sprayed cell loses a hop, but on port 7. -/
def execCellSend (die out : Nat) (s : State) : Host.Outcome State Fault Refusal :=
  let d := s.die die
  if 8 = out then
    match s.portless die with
    | some q => .next (s.updDie die (fun d => { d with spray := d.spray.erase q ++ [s.chooseOut die q] }))
    | none => .next s
  else if !s.sendReady die out then .next s
  else match s.circuitReady die out with
    | some q =>
      let t := d.slot + 1
      let s := s.updDie die (fun d => { d with
        circ := d.circ.erase q, sent := d.sent.insert out t
        covf := if s.portOpen die out || out == 7 then d.covf else min 65535 (d.covf + 1) })
      .next (if s.portOpen die out || out == 7 then s.leaveOn die out q.cell else s)
    | none =>
      match s.sprayReady die out with
      | none => .next s
      | some q =>
        let s := s.updDie die (fun d => { d with
          spray := d.spray.erase q, sent := d.sent.insert out (d.slot + 1) })
        let esc := if q.esc && !bitN q.cell.hdr 0 then 1 else 0
        .next (if out = 7 then s.leaveOn die 7 q.cell else s.leaveOn die out { q.cell with hdr := q.cell.hdr - 2 ^ 32 + esc })

/-- PACKET_ROUTE (R194, R195, R199): a packet for this device waits for port 7, another for the output that `FRT` gives it, or it
is discarded with no hop left or an empty mask. A mask bit 7 gives no credit, and a cell that its entry sends to escape port 7
leaves there for this device's own units (DESIGN CHOICE, log 20: the manual keeps port 7 for this device's cells). -/
def execPacketRoute (die : Nat) (c : Cell) (s : State) : Host.Outcome State Fault Refusal :=
  let k := cellKind c.hdr
  let d := s.die die
  let e := d.routeEnt (bitsN c.hdr 48 12)
  let wait (q : QCell) : Host.Outcome State Fault Refusal := .next (s.updDie die (fun d => { d with spray := d.spray ++ [q] }))
  let q : QCell := ⟨8, 8, d.slot, c, bitN c.hdr 0, none⟩
  if !hdrOk c.hdr || k < 2 || 4 < k then .next (s.countBad die)
  else if bitsN c.hdr 48 12 = s.devId then wait { q with out := 7 }
  else if bitsN c.hdr 32 4 = 0 || e % 256 = 0 then
    .next (s.updDie die (fun d => { d with drop := min 65535 (d.drop + 1) }))
  else wait (if q.esc then { q with out := bitsN e 8 3 } else s.chooseOut die q)

/-- SLOT_TABLE_SWAP (R198): at slot 0 of the period of an armed swap the tables change places. -/
def execSlotTableSwap (die : Nat) (s : State) : Host.Outcome State Fault Refusal :=
  let d := s.die die
  if d.armed && d.swapPeriod ≤ d.slot / 256 then
    .next (s.updDie die (fun d => { d with act := !d.act, armed := false })).refreshDown
  else .next s

/-- FABRIC_START (R195): the management controller aligns the slot counts of the device's routers. -/
def execFabricStart (slot : Nat) (s : State) : Host.Outcome State Fault Refusal :=
  .next ((List.range 4).foldl (fun s d => s.updDie d (fun x => { x with slot, sent := [], p7 := 0 })) s)

namespace State

/-- The events that the routers, flows and queues of cells have ready, in the order in which they are taken. -/
def fabricDue (s : State) : Option Instr :=
  (List.range 4).findSome? (fun d =>
    if !(s.die d).armed && (s.die d).circ.isEmpty && (s.die d).spray.isEmpty then none
    else if (s.die d).armed && decide ((s.die d).swapPeriod ≤ (s.die d).slot / 256) then some (.slotTableSwap d)
    else if (s.portless d).isSome then some (.cellSend d 8)
    else ((List.range 8).find? (fun o => s.sendReady d o)).map (fun o => .cellSend d o))

/-- The first cell that a link queue of the device has to send in the current slot. -/
def queueDue (s : State) : Option Instr :=
  s.cores.findSome? (fun p =>
    if p.2.lq.toList.all (fun x => x.role == .unbound) then none
    else (List.range 16).findSome? (fun q =>
      if s.spaceDueNow p.1 q then some (.spaceCellSend p.1 q)
      else if s.stripDue p.1 q then some (.stripCellSend p.1 q) else none))

end State

end Sys2Proof.Machine
end

