-- ==== Sys2Proof/Machine/Regions.lean ====
section
/-! DEFINITION. Declared regions, page locks and the jobs of a die (R107, R108, R133 to R136, R269 to R273, R294, R352,
R360, R361, R437, R438, R461, R462). -/

namespace Sys2Proof.Machine

/-! ### Regions -/

/-- The address space that a job acts in: its table and privilege, with the TLB of its die (R107). -/
def jobSpace (root priv die : Nat) : Space :=
  { asid := bitsN root 52 12, base := bitsN root 15 37 * 2 ^ 15, en := bitN root 0, priv, die, clu := none }

/-- The access that a region declares. -/
def regionAcc (w : Bool) : Acc := if w then .write else .read

namespace State

/-- What n bytes of a region at a physical address, in one row of R83, meet (R83, R102, R111, R138): a cause, or nothing. -/
def regionReach (s : State) (die : Nat) (acc : Acc) (n pa ty : Nat) : Option Nat :=
  let a := pa % 2 ^ 52
  if !s.isRemote pa && inHbm a &&
      s.hostbias.any (fun r => decide (r * 2 ^ 21 < a + n) && decide (a < (r + 1) * 2 ^ 21)) then some 0x12
  else match s.reach die acc (match regionOf a with | .sram _ _ _ | .istore _ _ => n | _ => 1) pa with
    | .error c => some c
    | .ok d => if ty = 2 && d.isPort then some 0x12 else none

/-- The first page of a region: a cause, or its physical range and the translation (R107). -/
def regionPage (s : State) (c : Space) (acc : Acc) (va len : Nat) : Except Nat (Range × Xlat) :=
  if 2 ^ 64 ≤ va then .error (if acc.writes then 0x11 else 0x10)
  else match s.xlat c acc va with
    | .fault k => .error k
    | .ok pa ty e fresh =>
      let page := match e with
        | some e => e.va + e.size - va % 2 ^ 57
        | none => 2 ^ 52 - pa % 2 ^ 52
      let n := min len (min page (regionRest (pa % 2 ^ 52)))
      match s.regionReach c.die acc n pa ty with
      | some k => .error k
      | none => .ok (⟨pa, n⟩, .ok pa ty e fresh)

/-- The pages of a region in order, at most `fuel`: the first fault with its address, or ranges and translations. -/
def regionPages (s : State) (c : Space) (acc : Acc) : Nat → Nat → Nat → Except (Nat × Nat) (List (Range × Xlat))
  | 0, _, _ => .ok []
  | fuel + 1, va, len =>
    if len = 0 then .ok []
    else match s.regionPage c acc va len with
      | .error k => .error (k, va)
      | .ok (r, x) =>
        if r.len = 0 then .ok []
        else match regionPages s c acc fuel (va + r.len) (len - r.len) with
          | .error e => .error e
          | .ok l => .ok ((r, x) :: l)

/-- A declared region (write, address, length) with all its pages (R107). -/
def region (s : State) (c : Space) (r : Bool × Nat × Nat) : Except (Nat × Nat) (List (Range × Xlat)) :=
  s.regionPages c (regionAcc r.1) (r.2.2 / 2 ^ 16 + 16) r.2.1 r.2.2

/-- The first fault among declared regions, in their order (R107). -/
def regionFault (s : State) (c : Space) : List (Bool × Nat × Nat) → Option (Nat × Nat)
  | [] => none
  | r :: rest =>
    match s.region c r with
    | .error e => some e
    | .ok _ => regionFault s c rest

/-- The physical ranges of declared regions of one direction. -/
def regionRanges (s : State) (c : Space) (w : Bool) (l : List (Bool × Nat × Nat)) : List Range :=
  (l.filter (fun r => r.1 == w)).flatMap (fun r =>
    match s.region c r with
    | .ok x => x.map (·.1)
    | .error _ => [])

/-- The state after the walks of declared regions (R90, R107). -/
def commitRegions (s : State) (c : Space) (l : List (Bool × Nat × Nat)) : State :=
  l.foldl (fun s r => match s.region c r with
    | .ok x => x.foldl (fun s p => s.commitXlat c (regionAcc r.1) p.2) s
    | .error _ => s) s

/-- The widest scope that ranges need (R114, R133). -/
def rangeScope (s : State) (l : List Range) : Scope :=
  if l.any (fun r => match regionOf (r.pa % 2 ^ 52) with | .host => true | _ => false) then .sys
  else if l.any (fun r => s.isRemote r.pa) then .fab
  else .dev

/-! ### Page locks -/

/-- The lowest free page-lock entry of a die at or after a number, of 4,096 (R108). -/
def freeLock (d : Die) : Option Nat := (List.range (d.locks.length + 1)).find? (fun i =>
  decide (i < 4096) && d.locks.all (fun l => l.1 != i))

/-- The state with a page-lock entry taken on a die (R107). -/
def takeLock (s : State) (die : Nat) (l : Lock) : State :=
  match freeLock (s.die die) with
  | some i => s.updDie die (fun d => { d with locks := d.locks ++ [(i, l)] })
  | none => s

/-- The state with the locks of declared regions taken for a job, one entry a region (R107). -/
def lockRegions (s : State) (c : Space) (job : Nat) (l : List (Bool × Nat × Nat)) : State :=
  l.foldl (fun s r => match s.region c r with
    | .ok x => s.takeLock c.die ⟨c.asid, r.2.1, r.2.2, x.map (·.1), job⟩
    | .error _ => s) s

/-- The state with a job's page locks released (R107). -/
def unlockJob (s : State) (job : Nat) : State :=
  { s with dies := s.dies.map (fun d => { d with locks := d.locks.filter (fun l => l.2.job != job) }) }

/-! ### Jobs -/

/-- The banks of a routing job (R228, R229): cluster, number and the mode each has to be in. -/
def routeBanks (die cfg card : Nat) : List (Nat × Nat × BankMode) :=
  let b := (bitsN card 192 32 * bitsN cfg 16 4 * 16 + 524287) / 524288
  let at_ (clu lo n : Nat) (m : BankMode) : List (Nat × Nat × BankMode) :=
    (List.range n).map (fun i => (die * 16 + clu, lo + i, m))
  at_ (bitsN cfg 74 4) (bitsN cfg 68 6) (2 * b + 1) .scratchpad ++
    at_ (bitsN cfg 90 4) (bitsN cfg 84 6) (bitsN cfg 78 6) .scratchpad ++
    at_ (bitsN cfg 100 4) (bitsN cfg 94 6) 1 .fifo

/-- The banks that a job holds: those of a routing job, and the staging banks of a work entry (R103, R256). -/
def jobBanks (j : Job) : List (Nat × Nat × BankMode) :=
  let card := j.card.getD 0 0
  match j.kind with
  | .route => routeBanks j.die (j.card.getD 1 0) card
  | .impala => (List.range (bitsN card 560 6)).map (fun i => (j.die * 16 + bitsN card 572 4, bitsN card 566 6 + i, .scratchpad))
  | _ => []

/-- A job of the device by number. -/
def job (s : State) (id : Nat) : Option Job := s.dies.toList.findSome? (fun d => d.jobs.find? (fun j => j.id == id))

/-- The state with a job changed. -/
def updJob (s : State) (id : Nat) (f : Job → Job) : State :=
  { s with dies := s.dies.map (fun d => { d with jobs := d.jobs.map (fun j => if j.id == id then f j else j) }) }

/-- Does a job hold a bank (R103)? -/
def bankHeld (s : State) (clu b : Nat) : Bool :=
  s.dies.toList.any (fun d => d.jobs.any (fun j => (jobBanks j).any (fun x => x.1 == clu && x.2.1 == b)))

/-- The state with ENG of the banks of a job as the unretired jobs have it (R103, R104). -/
def refreshBanks (s : State) (j : Job) : State :=
  (jobBanks j).foldl (fun s x => s.setBank x.1 x.2.1 { s.bank x.1 x.2.1 with eng := s.bankHeld x.1 x.2.1 }) s

/-- The state with a job gone: its locks, its banks and the edges to it released. -/
def dropJob (s : State) (id : Nat) : State :=
  let j := s.job id
  let s := s.unlockJob id
  let s := { s with dies := s.dies.map (fun d => { d with
      jobs := (d.jobs.filter (fun j => j.id != id)).map (fun j => { j with edges := j.edges.filter (fun e => e != id) }) }) }
  match j with
  | some j => s.refreshBanks j
  | none => s

/-- Must a job wait for an earlier one (R134): read after write, write after read or write? -/
def edgeTo (reads writes : List Range) (k : Job) : Bool :=
  overlap reads k.writes || overlap writes (k.reads ++ k.writes)

/-- Is a job of the scheduler one that later ones may have to wait for? A launch that has not started blocks its own queue
alone (R266). -/
def entered (j : Job) : Bool := j.kind != .task || j.phase == .active

/-- Does a job count on a die (R134, R266)? A launch counts on the dies of its cores, word 0 of what it keeps. -/
def coversDie (j : Job) (die : Nat) : Bool := if j.kind == .task then bitN (j.card.getD 0 0) die else j.die == die

/-- The unretired jobs of some dies, and for a launch every launch that has started, that a job with these regions waits
for, and of them those whose writes it reads (R134, R266). -/
def edgesOf (s : State) (dies : List Nat) (launch : Bool) (reads writes : List Range) : List Nat × List Nat :=
  let l := s.dies.toList.flatMap (fun d => d.jobs.filter (fun j =>
    entered j && (dies.any (coversDie j) || (launch && j.kind == .task)) && edgeTo reads writes j))
  (l.map (·.id), (l.filter (fun k => overlap reads k.writes)).map (·.id))

/-- The state with a job entered in its die's scheduler (R107, R134, R273): its regions walked and locked and its edges
found, or, with a failure, the failure alone. The edges of a launch are those of its start (R266). -/
def enterJob (s : State) (die : Nat) (kind : JobKind) (engine : Nat) (spec : Bool) (root priv sid : Nat)
    (regions : List (Bool × Nat × Nat)) (card : List Nat) (cw : Nat × Nat) (failed : Option Nat) : State :=
  let c := jobSpace root priv die
  let id := s.nextJob
  let ok := failed.isNone
  let reads := if ok then s.regionRanges c false regions else []
  let writes := if ok then s.regionRanges c true regions else []
  let e := if kind == .task then ([], []) else s.edgesOf [die] false reads writes
  let s : State := { s with nextJob := id + 1 }
  let s := if ok then (s.commitRegions c regions).lockRegions c id regions else s
  s.updDie die (fun d => { d with jobs := d.jobs ++
    [{ id, die, kind, phase := if spec then .spec else .waiting, engine, sid, asid := c.asid, priv, root, reads, writes
       edges := e.1, rawFrom := e.2, card, cwAddr := cw.1, cwVal := cw.2, failed, fetched := [], at_ := 0 }] })

/-- Must a completion word of a job (0: of none) for 8 bytes at a physical address wait (R100, R101, R110, R136): during a mode
switch; for a lease of its line; for a flip of its region, unless that waits for the locked ranges of the word's own job; and for
the job's stores that still wait? -/
def wordHeld (s : State) (job pa : Nat) : Bool :=
  let a := pa % 2 ^ 52
  let own := match s.job job with
    | some j => j.writes.any (fun r => decide (r.pa ≤ pa) && decide (pa < r.pa + r.len))
    | none => false
  s.l2busy || (s.homeBusy a && !own) || s.writeWaits a 8 || s.heldStores.any (fun h => h.job == job) ||
    s.heldWords.any (fun w => w.job == job)

/-- The state with a completion word of a job (0: of none) written (R136): 8 bytes, where the address translates to local
memory, or kept until they may be. It is a store to memory: over the words of a running routine it has what R139 says of one. -/
def writeWordAt (s : State) (root priv die va val job : Nat) : State :=
  let c := jobSpace root priv die
  match s.access c .write 8 va with
  | .error _ => s
  | .ok (pa, _, d, x) =>
    if !s.isRemote pa && s.wordHeld job pa then { s with heldWords := s.heldWords ++ [⟨root, priv, die, va, val, job⟩] }
    else
      let s := s.commitXlat c .write x
      match d with
      | .mem a => s.publishStore .engine none a 8 (val % 2 ^ 64) 255
      | .push clu b => s.pushFifo clu b (BitVec.ofNat 64 val)
      | .mmio off => s.mmioStore off 8 (val % 2 ^ 64) 255
      | _ => s

/-- The state with a job's completion word written. -/
def writeJobCw (s : State) (j : Job) (val : Nat) : State :=
  s.writeWordAt j.root j.priv j.die j.cwAddr val j.id

/-- Has a job or launch a RAW edge to another (R134, R266, R269)? -/
def rawEdge (s : State) (k j : Job) : Bool :=
  k.rawFrom.contains j.id ||
    (k.kind == .task && !entered k && entered j && overlap k.reads j.writes &&
      (j.kind == .task || (s.dies.toList.zipIdx.any (fun d => coversDie k d.2 && coversDie j d.2))))

/-- The state after a job has failed with a value (R269): the value in its completion word, its locks released, RAW
edges passing the failure on with bit 62, and the engine-error interrupt; the threads of a routing job that runs stop (R240). -/
def failJob (s : State) (j : Job) (v : Nat) : State :=
  let runs := (s.die j.die).route.any (fun r => r.job == j.id)
  let s := s.settleJob j
  let s := s.writeJobCw j v
  let s := { s with dies := s.dies.map (fun d => { d with
    jobs := d.jobs.map (fun k => if s.rawEdge k j && k.failed.isNone
      then { k with failed := some (v ||| 2 ^ 62) } else k)
    route := d.route.filter (fun r => r.job != j.id)
    ientries := d.ientries.filter (fun e => e.2.job != j.id) }) }
  let s : State := if !runs then s else { s with strands := s.strands.map (fun p =>
    if isThread p.1 && dieOf p.1 == j.die then (p.1, { p.2 with run := .off }) else p) }
  ((s.dropJob j.id).setIrq j.sid 2).send (.msix (65 + j.die))

/-- May a job of a kind start on an engine of its die (R271, R272, R299)? -/
def engineTakes (s : State) (die e : Nat) (j : Job) : Bool :=
  match j.kind with
  | .copy => decide (e < 4) && (s.ready.getD 12 0).getLsbD (32 + die * 4 + e)
  | .launch => e == 4
  | .densify => e == j.engine
  | .route => e == 6 && (s.ready.getD 9 0).getLsbD (32 + die) && (s.ready.getD 12 0).getLsbD (48 + die) && (s.die die).jobs.all (fun k => k.kind != .route || k.phase == .active || decide (j.id ≤ k.id))
  | _ => false

/-- The next job that an engine may load: the first with its edges satisfied (R272). -/
def nextJobOf (s : State) (die e : Nat) : Option Job :=
  (s.die die).jobs.find? (fun j => j.phase == .waiting && j.edges.isEmpty && j.failed.isNone && s.engineTakes die e j)

/-- The job of an engine in a phase. -/
def engineJob (s : State) (die e : Nat) (p : JobPhase) : Option Job :=
  (s.die die).jobs.find? (fun j => j.phase == p && j.engine == e && s.engineTakes die e j)

/-- The packet of a launch job (R270): read at submission here, or put together from the lines that another device has
sent. -/
def jobPacket (j : Job) : Option Nat :=
  match j.card[32]? with
  | some p => some p
  | none =>
    let line (i : Nat) : Option Nat := j.fetched.find (j.card.getD 19 0 / 64 + i)
    match line 0, line 1, line 2, line 3 with
    | some a, some b, some c, some d => some (a + 2 ^ 512 * b + 2 ^ 1024 * c + 2 ^ 1536 * d)
    | _, _, _, _ => none

/-- May an active launch job append its packet: it is here, and the queue has room (R270, R271)? -/
def appendDue (s : State) (j : Job) : Bool :=
  j.kind == .launch && j.phase == .active && j.at_ == 0 && j.failed.isNone && (jobPacket j).isSome &&
    decide ((s.queue (j.card.getD 20 0 % 64)).packets.length < 32)

/-- Has an engine a job to load, to make active or to carry on with? -/
def engineDue (s : State) (die e : Nat) : Bool :=
  (e == 4 && (s.die die).jobs.any s.appendDue) || ((s.engineJob die e .active).isNone && ((s.engineJob die e .shadow).isSome || (s.nextJobOf die e).isSome)) ||
    ((s.engineJob die e .shadow).isNone && (s.nextJobOf die e).isSome)

/-! ### Copies -/

/-- The physical address of a virtual one in a region that a job has locked. -/
def lockedPa (s : State) (die job va : Nat) : Option Nat :=
  (s.die die).locks.findSome? (fun l =>
    if l.2.job = job && decide (l.2.va ≤ va) && decide (va < l.2.va + l.2.len) then
      (l.2.phys.foldl (fun (a : Option Nat × Nat) r =>
        match a.1 with
        | some _ => a
        | none => if a.2 < r.len then (some (r.pa + a.2), 0) else (none, a.2 - r.len)) (none, va - l.2.va)).1
    else none)

/-- The bytes of the next piece of a copy: the largest power of two up to 64 that both addresses and the rest
allow. -/
def pieceOf (src dst len : Nat) : Nat :=
  ([64, 32, 16, 8, 4, 2].find? (fun k => src % k == 0 && dst % k == 0 && decide (k ≤ len))).getD 1

/-- The state with bytes of a value stored in a region of a job, at most `fuel` pieces. -/
def storeBytes (s : State) (die job : Nat) : Nat → Nat → Nat → Nat → State
  | 0, _, _, _ => s
  | fuel + 1, va, n, v =>
    if n = 0 then s
    else match s.lockedPa die job va with
      | none => s
      | some pa =>
        let k := pieceOf pa pa n
        storeBytes (s.engineStore die job pa k (v % 256 ^ k)) die job fuel (va + k) (n - k) (v / 256 ^ k)

/-- The state after one piece of a copy: read here or asked of another device, then written. Poisoned data fails the
job (R290), as does a pop of an empty FIFO bank (log 20). -/
def copyPiece (s : State) (die job src dst n : Nat) : State :=
  if s.isRemote src then s.engineRequest die job src dst 1 (Nat.log2 n) 0 0
  else match s.reachLocal .read n (src % 2 ^ 52) with
    | .ok (.mem a) =>
      if s.poisoned a n then s.updJob job (fun j => { j with failed := some (failValue 0x3F src) })
      else s.engineStore die job dst n (overlaid (s.jobStored job) a n (s.engineRead job a n))
    | .ok (.pop clu b) =>
      let k := s.bank clu b
      match k.fifo with
      | [] => s.updJob job (fun j => { j with failed := some (failValue 0x07 src) })
      | v :: rest => (s.setBank clu b { k with fifo := rest }).engineStore die job dst n v.toNat
    | .ok (.mmio off) => s.engineStore die job dst n (s.mmioBytes off n)
    | .ok _ => s
    | .error c => s.updJob job (fun j => { j with failed := some (failValue c (s.lockedVa die job src)) })

/-- The state after a copy of `len` bytes, at most `fuel` pieces (R270). -/
def copyLoop (die job : Nat) : Nat → Nat → Nat → Nat → State → State
  | 0, _, _, _, s => s
  | fuel + 1, src, dst, len, s =>
    if len = 0 then s
    else match s.lockedPa die job src, s.lockedPa die job dst with
      | some a, some b =>
        let n := pieceOf a b len
        copyLoop die job fuel (src + n) (dst + n) (len - n) (s.copyPiece die job a b n)
      | _, _ => s

/-- The state after bytes of a value at a destination of a job, at most `fuel` of them. -/
def fillLoop (die job v : Nat) : Nat → Nat → State → State
  | 0, _, s => s
  | fuel + 1, dst, s =>
    match s.lockedPa die job dst with
    | some b => fillLoop die job (v / 256) fuel (dst + 1) (s.engineStore die job b 1 (v % 256))
    | none => s

/-- The state with the result bytes of a job that stores have met taken as free (R135), the copies of source bytes among
them. -/
def settleCopy (s : State) (j : Job) : State :=
  let l := s.jobStored j.id
  let s := if j.kind != .copy || l.isEmpty then s
    else (List.range (j.card.getD 21 0)).foldl (fun s i =>
      match s.lockedPa j.die j.id (j.card.getD 19 0 + i), s.lockedPa j.die j.id (j.card.getD 20 0 + i) with
      | some a, some b =>
        if s.isRemote a || s.isRemote b || !l.any (fun r => meets (a % 2 ^ 52) 1 r.1 r.2.1) then s
        else s.engineStore j.die j.id b 1 (overlaid l (a % 2 ^ 52) 1 0)
      | _, _ => s) s
  s.settleJob j

/-- The physical ranges of the source and the destination of a copy share a byte (R270). -/
def copyOverlaps (s : State) (j : Job) : Bool :=
  let c := jobSpace j.root j.priv j.die
  let len := j.card.getD 21 0
  overlap (s.regionRanges c false [(false, j.card.getD 19 0, len)]) (s.regionRanges c true [(true, j.card.getD 20 0, len)])

/-- The state with a copy done (R270): overlapping source and destination leave a free destination (R6). -/
def runCopy (s : State) (j : Job) : State :=
  let len := j.card.getD 21 0
  if s.copyOverlaps j then
    let r := s.takeFree
    fillLoop j.die j.id r.1 len (j.card.getD 20 0) r.2
  else copyLoop j.die j.id len (j.card.getD 19 0) (j.card.getD 20 0) len s

/-- The state with the packet of an active launch job appended (R270). -/
def appendJob (s : State) (die : Nat) (j : Job) : State :=
  (s.updJob j.id (fun j => { j with at_ := (s.die die).cycle + 1 })).appendPacket (j.card.getD 20 0 % 64) ((jobPacket j).getD 0)

/-- The state with a job made active on an engine (R272): a copy moves 128 bytes a cycle (R461). -/
def activate (s : State) (die e : Nat) (j : Job) : State :=
  let t := (s.die die).cycle
  let s := s.updJob j.id (fun j => { j with phase := .active, engine := e })
  match j.kind with
  | .copy =>
    (s.updJob j.id (fun j => { j with at_ := t + (j.card.getD 21 0 + 127) / 128 + 1 })).runCopy j
  | _ => s

end State

/-- JOB_START (R270, R272): an active launch job appends its packet, or an engine's shadow set swaps in, or it takes the
next job whose edges are satisfied. -/
def execJobStart (die engine : Nat) (s : State) : Host.Outcome State Fault Refusal :=
  if !s.engineDue die engine then .next s
  else match (if engine = 4 then (s.die die).jobs.find? s.appendDue else none) with
  | some j => .next (s.appendJob die j)
  | none =>
  if (s.engineJob die engine .active).isNone then
    match s.engineJob die engine .shadow with
    | some j => .next (s.activate die engine j)
    | none => match s.nextJobOf die engine with
      | some j => .next (s.activate die engine j)
      | none => .next s
  else match s.nextJobOf die engine with
    | some j => .next (s.updJob j.id (fun j => { j with phase := .shadow, engine }))
    | none => .next s

/-- JOB_FAILURE (R269). -/
def execJobFailure (die job cause tval : Nat) (s : State) : Host.Outcome State Fault Refusal :=
  match (s.die die).jobs.find? (fun j => j.id == job) with
  | none => .next s
  | some j => if j.kind == .task then .next s else .next (s.failJob j (State.failValue cause tval))

/-! ### Submissions -/

/-- Why bytes that a unit reads as it takes a command are not at hand: a translation that fails, with its cause and address, a
check of the command that fails, or a line of another device that has not come (physical and virtual address). -/
inductive InputErr
  | fault (code tval : Nat)
  | bad (code tval : Nat)
  | away (pa va : Nat)
deriving DecidableEq, Repr

/-- n bytes read at an address, at most `fuel` pieces: `near` reads a local address, `far` gives a line of another device by
physical and virtual address. -/
def State.readInput (s : State) (c : Space) (near : Nat → Nat → Nat) (far : Nat → Nat → Option Nat) :
    Nat → Nat → Nat → Except InputErr Nat
  | 0, _, _ => .ok 0
  | fuel + 1, va, n =>
    if n = 0 then .ok 0
    else match s.access c .read 1 va with
      | .error e => .error (.fault e va)
      | .ok (pa, _, d, _) =>
        let line := min n (64 - va % 64)
        let k := match d with
          | .mem a => min n (min (2 ^ 16 - va % 2 ^ 16) (regionRest a))
          | _ => line
        let got : Except InputErr Nat := match d with
          | .mem _ => .ok (near pa k)
          | .mmio off => .ok (bitsN (s.mmioWords (off / 64 * 64) 8) (8 * (off % 64)) (8 * k))
          | .remote => (match far pa va with
            | some v => .ok (bitsN v (8 * (va % 64)) (8 * k))
            | none => .error (.away pa va))
          | _ => .error (.bad 0x12 va)
        match got with
        | .error e => .error e
        | .ok v => match readInput s c near far fuel ((va + k) % 2 ^ 64) (n - k) with
          | .error e => .error e
          | .ok w => .ok (v + 2 ^ (8 * k) * w)

/-- The state after the walks of such a read (R90). -/
def State.touchInput (s : State) (c : Space) : Nat → Nat → Nat → State
  | 0, _, _ => s
  | fuel + 1, va, n =>
    if n = 0 then s
    else
      let k := min n (2 ^ 16 - va % 2 ^ 16)
      touchInput (match s.access c .read 1 va with
        | .ok (_, _, _, x) => s.commitXlat c .read x
        | .error _ => s) c fuel ((va + k) % 2 ^ 64) (n - k)

/-- The request for a line of another device. -/
def lineReq (pa va : Nat) : Req := .load [(0, pa / 64 * 64, va / 64 * 64, 6)]

/-- A line of another device that the bundle in issue has asked for, if it has come (R305). -/
def State.lineAt (s : State) (pa va : Nat) : Option Nat :=
  if s.asked (lineReq pa va) && (s.askObs (lineReq pa va)).isNone then
    some ({ Strand.init with gated := s.issue.ahead }.overlayVal (pa / 64 * 64) (s.answered (lineReq pa va) 0 64) 64)
  else none

/-- n bytes that the operation in issue reads as it is issued, its strand's own stores included (R117). -/
def State.readSub (s : State) (c : Space) (va n : Nat) : Except InputErr Nat :=
  s.readInput c (fun pa k => s.readOwn s.cur pa k) s.lineAt (n / 64 + 2) va n

/-- The state after the walks of such a read. -/
def State.touchSub (s : State) (c : Space) (va n : Nat) : State := s.touchInput c (n / 2 ^ 16 + 2) va n

/-- What a plain submission meets where bytes are not at hand. -/
def InputErr.obstacle (e : InputErr) (s : State) : Option Obstacle :=
  match e with
  | .fault c v | .bad c v => rollTrap c v
  | .away pa va => s.askObs (lineReq pa va)

/-- Is the commit buffer of the core of the strand in issue full (R273)? -/
def State.commitFull (s : State) : Bool := decide (16 ≤ (s.myCore.commit.filter (fun e => e.spec)).length)

/-- What a submission meets there: with `.spec`, a translation that fails is no trap, and its entry needs room in the commit
buffer (R273). -/
def InputErr.meets (e : InputErr) (spec : Bool) (s : State) : Option Obstacle :=
  match e with
  | .fault _ _ => if spec then (if s.commitFull then some .hold else none) else e.obstacle s
  | _ => e.obstacle s

/-- The failure value of a submission with `.spec` whose translation has failed (R269, R273). -/
def InputErr.value : InputErr → Option Nat
  | .fault c v => some (State.failValue c v)
  | _ => none

/-- The physical ranges of a submission in the space of the strand in issue. -/
def State.mySpace (s : State) : Space := jobSpace s.me.ptroot.toNat s.me.priv (dieOf s.cur)

/-- The failure of the translation of a submission's regions (R107). -/
def State.subFault (s : State) (regions : List (Bool × Nat × Nat)) : Option (Nat × Nat) := s.regionFault s.mySpace regions

/-- The widest scope that the regions of a submission need (R114, R133). -/
def State.subScope (s : State) (regions : List (Bool × Nat × Nat)) : Scope :=
  s.rangeScope (s.regionRanges s.mySpace false regions ++ s.regionRanges s.mySpace true regions)

/-- What a submission meets once its own checks are over (R107, R108, R133, R273): a translation fault, unless with
`.spec`; no place for its locks, its job or its commit entry; and the wait of its release, at the scope of `see`. -/
def subObs (spec : Bool) (regions see : List (Bool × Nat × Nat)) (s : State) : Option Obstacle :=
  let d := s.die (dieOf s.cur)
  let room := if 4096 < d.locks.length + regions.length || 256 ≤ d.jobs.length then some Obstacle.hold else none
  match s.subFault regions with
  | some (c, va) => if spec then (if s.commitFull then some .hold else none) else rollTrap c va
  | none =>
    if spec then (if s.commitFull then some .hold else room)
    else room.or (if s.releaseHeld s.cur (s.subScope see) then some .hold else none)

/-- Has the bundle in issue stores or loads before the submission that have not performed, so that its release has to wait for them
(R133)? -/
def State.ownStores (s : State) : Bool :=
  s.issue.checked && (s.me.unseen.any (fun p => p.seq == s.issue.seq) || s.me.loadQ.any (fun l => l.seq == s.issue.seq) ||
    s.me.aq.any (fun e => e.seq == s.issue.seq))

/-- The state with an entry put in the commit buffer of the strand's core (R273), or with a plain submission that waits
there for the stores of its own bundle (R133). -/
def State.addCommit (s : State) (spec : Bool) (scope : Scope) (kind : Nat) (card : List Nat) : State :=
  let g := s.issue.spec.getD (0, false, 0)
  s.updCore (coreOf s.cur) (fun c => { c with commit := c.commit ++
    [{ sid := s.cur, seq := s.issue.seq, spec, scope, guardDue := g.2.2, guardIdx := g.1, guardInv := g.2.1, kind, card
       settled := if spec && s.issue.spec.isSome then none else some true }] })

/-- The state with the packet of a launch job read for bundle `seq` of its strand (R270): at once here, or asked of another
device; where it cannot be read, the job fails. -/
def State.takePacket (s : State) (id seq : Nat) : State :=
  match s.job id with
  | none => s
  | some j =>
    if j.kind != .launch || j.failed.isSome then s
    else
      let va := j.card.getD 19 0
      let c := jobSpace j.root j.priv j.die
      let fail (v : Nat) : State := s.updJob id (fun j => { j with failed := some v })
      match s.readInput c (fun pa k => s.readUpTo j.sid pa k seq) (fun _ _ => none) 6 va 256 with
      | .ok p => (s.touchInput c 2 va 256).updJob id (fun j => { j with card := j.card.take 32 ++ [p] })
      | .error (.away pa _) =>
        (List.range 4).foldl (fun s i => s.engineRequest j.die id (pa + 64 * i) (2 ^ 65 + va + 64 * i) 1 6 0 0)
          (s.touchInput c 2 va 256)
      | .error (.fault k v) | .error (.bad k v) => fail (State.failValue k v)

/-- The state with a job of the strand in issue submitted (R107, R133, R134), or put in the commit buffer (R273). -/
def State.submit (s : State) (spec : Bool) (kind : JobKind) (engine : Nat) (regions see : List (Bool × Nat × Nat))
    (card : List Nat) (cw : Nat × Nat) (failed : Option Nat) : State :=
  let id := s.nextJob
  let f := failed.or ((s.subFault regions).map (fun f => State.failValue f.1 f.2))
  let scope := s.subScope see
  let late := spec || s.ownStores
  let s := s.enterJob (dieOf s.cur) kind engine late s.me.ptroot.toNat s.me.priv s.cur regions card cw f
  if late then s.addCommit spec scope 0 [id] else if kind == .launch then s.takePacket id s.issue.seq else s

/-- The completion word of a job whose card could not be read: no address is this one (R85). -/
def State.noWord : Nat × Nat := (2 ^ 63, 0)

/-- The state with a submission that carries `.spec` and whose translation has failed (R273): at commit its job fails. -/
def State.submitFailed (s : State) (e : InputErr) (cw : Nat × Nat) : State :=
  match e.value with
  | some v => s.submit true .copy 0 [] [] [] cw (some v)
  | none => s

/-- The declared regions of a card, in their order (R270). -/
def cardRegions (card : List Nat) : List (Bool × Nat × Nat) :=
  ((List.range 8).map (fun i => (decide (4 ≤ i), card.getD (2 * i) 0, card.getD (2 * i + 1) 0))).filter
    (fun r => r.2.2 != 0)

/-- Does some region of a direction hold n bytes at an address (R270)? -/
def holdsBytes (l : List (Bool × Nat × Nat)) (w : Bool) (a n : Nat) : Bool :=
  n == 0 || l.any (fun r => r.1 == w && decide (r.2.1 ≤ a) && decide (a + n ≤ r.2.1 + r.2.2))

/-- Is a copy engine of a die ready (R299)? -/
def State.copyReady (s : State) (die : Nat) : Bool :=
  (List.range 4).any (fun e => (s.ready.getD 12 0).getLsbD (32 + die * 4 + e))

/-- The checks of a card for an engine (R271, R299, R461). -/
def cardObs (e : Nat) (card : List Nat) (s : State) : Option Obstacle :=
  let w (i : Nat) : Nat := card.getD i 0
  if w 16 % 8 != 0 then rollTrap 0x08 (w 16)
  else if e = 1 && w 19 % 256 != 0 then rollTrap 0x08 (w 19)
  else if e = 0 && (2 ^ 40 < w 21 || !holdsBytes (cardRegions card) false (w 19) (w 21) ||
      !holdsBytes (cardRegions card) true (w 20) (w 21) || !s.copyReady (dieOf s.cur)) then rollTrap 0x12 0
  else if e = 1 && (!(s.queue (w 20 % 64)).en || !(s.queue (w 20 % 64)).dev) then rollTrap 0x12 0
  else none

/-- The regions that decide the scope of a card's release: those declared, and a launch's packet (R133, R270). -/
def cardSee (e : Nat) (card : List Nat) : List (Bool × Nat × Nat) :=
  cardRegions card ++ (if e = 1 then [(false, card.getD 19 0, 256)] else [])

/-- What a submission of a card meets (R271). -/
def egoObs (spec : Bool) (e : Nat) (card : List Nat) (s : State) : Option Obstacle :=
  (cardObs e card s).or (
    let pkt := match (if e = 1 then s.access s.mySpace .read 64 (card.getD 19 0) else .error 0) with
      | .error c => if spec || c = 0 then none else rollTrap c (card.getD 19 0)
      | .ok _ => none
    pkt.or ((subObs spec (cardRegions card) (cardSee e card) s).or
      (if e = 1 && 32 ≤ (s.queue (card.getD 20 0 % 64)).packets.length then some .hold else none)))

/-- The state with a card submitted to an engine (R271). -/
def effEgo (spec : Bool) (e : Nat) (card : List Nat) (s : State) : State :=
  s.submit spec (if e = 0 then .copy else .launch) (if e = 0 then 0 else 4) (cardRegions card) (cardSee e card) card
    (card.getD 16 0, card.getD 17 0) none

/-- The staging card of the strand in issue. -/
def State.myCard (s : State) : List Nat := s.me.card.toList.map BitVec.toNat

/-- EJOB (R271, R361). -/
def execEjob (w : BitVec 5) (ss : BitVec 6) (s : State) : Host.Outcome State Fault Refusal :=
  .next (s.updMe (fun st => { st with card := st.card.set w.toNat (st.regs.rs ss) w.isLt }))

/-- EGO (R271, R360). -/
def execEgo (spec : Bool) (e : BitVec 1) (s : State) : Host.Outcome State Fault Refusal :=
  .next (s.gate (fun s => egoObs spec e.toNat s.myCard s) (fun s => effEgo spec e.toNat s.myCard s))

/-- The card that XFER submits to engine 0 (R461). -/
def State.xferCard (s : State) (fab : Bool) (ad as : BitVec 4) (sl : BitVec 6) (ac : BitVec 4) (sv : BitVec 6) :
    List Nat :=
  let r := s.me.regs
  let dst := (r.ra ad).toNat
  let src := (r.ra as).toNat
  let len := (r.rs sl).toNat
  [src, len, 0, 0, 0, 0, 0, 0, dst, len, 0, 0, 0, 0, 0, 0, (r.ra ac).toNat, (r.rs sv).toNat, b2n fab, src, dst, len] ++
    List.replicate 10 0

/-- XFER (R461, R462). -/
def execXfer (fab spec : Bool) (ad as : BitVec 4) (sl : BitVec 6) (ac : BitVec 4) (sv : BitVec 6) (s : State) :
    Host.Outcome State Fault Refusal :=
  .next (s.gate (fun s => egoObs spec 0 (s.xferCard fab ad as sl ac sv) s)
    (fun s => effEgo spec 0 (s.xferCard fab ad as sl ac sv) s))

/-! ### TLBINV (R92, R437, R438) -/

/-- What TLBINV selects by mode: an address range and an identifier, and whether global entries are taken too. -/
def tlbSelects (m : TlbMode) (sa sb : Nat) (e : TlbEntry) : Bool :=
  let asid := bitsN sb 52 12
  let own := e.asid == asid && !e.glob
  match m with
  | .page => canonical sa && decide (e.va ≤ sa % 2 ^ 57) && decide (sa % 2 ^ 57 < e.va + e.size) && (e.glob || own)
  | .asid => own
  | .all => true
  | .range => canonical sa && sb % 2 ^ 52 != 0 && decide (e.va < sa % 2 ^ 57 + sb % 2 ^ 52) &&
      decide (sa % 2 ^ 57 < e.va + e.size) && (e.glob || own)

/-- The pages that TLBINV names whatever the TLBs hold, as the 64 KiB pages of its address or range (R437). -/
def tlbNamed (m : TlbMode) (sa sb : Nat) : List (Nat × Nat) :=
  let a := sa % 2 ^ 57
  let lo := a / 2 ^ 16 * 2 ^ 16
  match m with
  | .page => if canonical sa then [(lo, 2 ^ 16 * 2)] else []
  | .range =>
    if canonical sa && sb % 2 ^ 52 != 0 then
      [(lo, ((a + sb % 2 ^ 52 + 65535) / 2 ^ 16 * 2 ^ 16 - lo) * 2)] else []
  | _ => []

namespace State

/-- The translations that TLBINV removes (R437). -/
def tlbSelected (s : State) (m : TlbMode) (sa sb : Nat) : List TlbEntry :=
  (s.ctlb.flatMap (·.2) ++ s.dies.toList.flatMap (·.tlb)).filter (tlbSelects m sa sb)

/-- The extents of S: low address and twice the size, plus 1 for a global translation. -/
def tlbExtents (s : State) (m : TlbMode) (sa sb : Nat) : List (Nat × Nat × Nat) :=
  (s.tlbSelected m sa sb).map (fun e => (e.asid, e.va, e.size * 2 + b2n e.glob)) ++
    (tlbNamed m sa sb).map (fun x => (bitsN sb 52 12, x))

/-- Is an address of an identifier under an extent? -/
def underExtent (asid va n : Nat) (x : Nat × Nat × Nat) : Bool :=
  (x.1 == asid || x.2.2 % 2 == 1) && decide (x.2.1 < va % 2 ^ 57 + n) && decide (va % 2 ^ 57 < x.2.1 + x.2.2 / 2)

/-- The strand whose accesses on their way bring no line in under a translation that `gone` names: they have issued before a
TLBINV completes and may still use it, but no access after them may (R92, R438). -/
def noFills (gone : Fill → Bool) (st : Strand) : Strand :=
  let drop (f : Option Fill) : Option Fill := f.filter (fun f => !gone f)
  { st with
    loadQ := st.loadQ.map (fun l => { l with fill := drop l.fill })
    gated := st.gated.map (fun p => { p with fill := drop p.fill })
    storeQ := st.storeQ.map (fun p => { p with fill := drop p.fill })
    passed := st.passed.map (fun p => (p.1, { p.2 with fill := drop p.2.fill })) }

/-- The state with the translations of a TLBINV removed, and every L1 line held under them written back and invalid
(R92, R437). The request keeps the extents: number of the identifier and low address, then the size. -/
def tlbRemove (s : State) (m : TlbMode) (sa sb : Nat) : State :=
  let x := s.tlbExtents m sa sb
  let gone (l : L1Line) : Bool := tlbSelects m sa sb l.page || x.any (underExtent l.asid (l.vline * 64) 64)
  let goneFill (f : Fill) : Bool := tlbSelects m sa sb f.page || x.any (underExtent f.asid f.va 1)
  let lines := s.cores.flatMap (fun p => (p.2.l1.filter gone).map (fun l => (p.1, l)))
  let s : State := { s with
    ctlb := s.ctlb.map (fun p => (p.1, p.2.filter (fun e => !tlbSelects m sa sb e)))
    dies := s.dies.map (fun d => { d with tlb := d.tlb.filter (fun e => !tlbSelects m sa sb e) })
    cores := s.cores.map (fun p => (p.1, { p.2 with l1 := p.2.l1.filter (fun l => !gone l) }))
    strands := s.strands.map (fun p => (p.1, noFills goneFill p.2)) }
  let s := lines.foldl (fun s l => s.l1Evict l.1 l.2) s
  s.updMe (fun st => { st with request := st.request.map (fun p =>
    { p with sent := true, got := x.map (fun e => (e.1 * 2 ^ 57 + e.2.1, e.2.2)) }) })

end State

/-! ### Page locks of kernel software (R294) -/

/-- The state with PLKCTL's result: ERR, and the entry; the operation is over. -/
def State.plkDone (s : State) (err : Bool) (entry : Nat) : State :=
  { s with plkctl := setField (setField (setField s.plkctl 32 1 0) 33 1 (b2n err)) 0 12 entry }

/-- PAGE_LOCK_TAKE (R108, R294): its walk waits for a mode switch (R101). -/
def execPageLockTake (value : Word) (s : State) : Host.Outcome State Fault Refusal :=
  let v := value.toNat
  let die := bitsN v 60 2
  let c : Space :=
    { asid := bitsN v 48 12, base := bitsN s.plkroot.toNat 15 37 * 2 ^ 15, en := true, priv := 1, die, clu := none }
  let r := (false, s.plkva.toNat, s.plklen.toNat)
  if s.l2busy then .next { s with heldEvents := s.heldEvents ++ [.pageLockTake value] }
  else match s.region c r, State.freeLock (s.die die) with
  | .ok l, some i =>
    .next (((s.commitRegions c [r]).takeLock die ⟨c.asid, r.2.1, r.2.2, l.map (·.1), 0⟩).plkDone false i)
  | _, _ => .next (s.plkDone true (v % 2 ^ 12))

/-- PAGE_LOCK_RELEASE (R108, R294). -/
def execPageLockRelease (value : Word) (s : State) : Host.Outcome State Fault Refusal :=
  let v := value.toNat
  let die := bitsN v 60 2
  let e := v % 2 ^ 12
  if (s.die die).locks.any (fun l => l.1 == e) then
    .next ((s.updDie die (fun d => { d with locks := d.locks.filter (fun l => l.1 != e) })).plkDone false e)
  else .next (s.plkDone true e)

end Sys2Proof.Machine
end

