-- ==== Sys2Proof/Machine/Homes.lean ====
section
/-! DEFINITION. What waits at the homes of HBM lines: mode switches of L2 (R101), bias flips (R110), and the accesses that
they hold back (R101, R110, R111). -/

namespace Sys2Proof.Machine

namespace State

/-- The state after the host's access to device HBM (R111); a failed stack gives and takes nothing (R14, log 40). -/
def hostAccess (s : State) (acc : HostAcc) : State :=
  match acc with
  | .read a n => { s with answer := if a + n ≤ 0xC000000000 && !s.stackOff a then s.readMem a n else 0 }
  | .write a n v => if a + n ≤ 0xC000000000 && !s.stackOff a then s.publishStore .program none a n v (2 ^ n - 1) else s

/-- The address of a host access. -/
def hostAddr : HostAcc → Nat
  | .read a _ | .write a _ _ => a

/-- Must a host access wait at its home: a mode switch, a flip of its region, or a lease that a write waits for (R100, R101,
R110)? -/
def hostWaits (s : State) (acc : HostAcc) : Bool :=
  s.homeBusy (hostAddr acc) || (match acc with
    | .read _ _ => false
    | .write a n _ => s.writeWaits a n)

/-- The state after the host's waiting accesses have been served in order, up to the first that must still wait. -/
def serveHost (s : State) : State :=
  s.hostHeld.foldl (fun s acc =>
    if s.hostHeld.head? = some acc && !s.hostWaits acc then
      { s with hostHeld := s.hostHeld.drop 1 }.hostAccess acc
    else s) s

/-- The state with the completion words written that need wait no more, in their order. -/
def serveWords (s : State) : State :=
  s.heldWords.foldl (fun s w => s.writeWordAt w.root w.priv w.die w.addr w.val w.job) { s with heldWords := [] }

/-- The state after a lease, a mode switch or a flip: what has waited at the homes to be written is served, the host's accesses,
the engines' stores and completion words, each in its order (R100, R101, R110). -/
def serveWrites (s : State) : State := s.serveHost.serveStores.serveWords

/-- The state after a mode switch or a flip: what has waited at the homes is served, responses to engines and page-lock operations
included (R101, R110). -/
def serveHeld (s : State) : State :=
  { s with heldEvents := [] }.serveWrites.post s.heldEvents

end State

/-- LEASE_EXPIRY (R100): a lease has ended; its holders invalidate their copies, and what it held back is written. -/
def execLeaseExpiry (line : Nat) (s : State) : Host.Outcome State Fault Refusal :=
  match s.leases.find line with
  | none => .next s
  | some e =>
    if e < s.homeCycle (line * 64) then
      .next { s with
        leases := SMap.erase s.leases line
        cores := s.cores.map (fun (p : Nat × Core) => (p.1, { p.2 with l1 := p.2.l1.filter (fun l =>
          l.pline != line || decide (s.homeCycle (line * 64) ≤ l.leaseEnd)) }))
        ways := s.ways.map (fun (p : Nat × List WayLine) => (p.1, p.2.filter (fun l =>
          l.pline != line || decide (s.homeCycle (line * 64) ≤ l.leaseEnd)))) }.serveWrites
    else .next s

/-- BIAS_FLIP_DONE (R110): the region has its bias, BUSY clears and ACK is set; to host bias, once no page-lock entry
covers it, with every device copy written back and invalid. -/
def execBiasFlipDone (s : State) : Host.Outcome State Fault Refusal :=
  let r := s.biasRegion.toNat
  if !s.biasBusy then .next s
  else if s.biasTgt then
    if s.regionLocked r then .next s
    else
      let inR := fun (line : Nat) => line * 64 / 2 ^ 21 == r
      let s := { s with
        cores := s.cores.map (fun (p : Nat × Core) =>
          (p.1, { p.2 with l1 := p.2.l1.filter (fun l => !inR l.pline) }))
        ways := s.ways.map (fun (p : Nat × List WayLine) => (p.1, p.2.filter (fun l => !inR l.pline)))
        l2 := s.l2.map (fun (p : Nat × List L2Line) => (p.1, p.2.filter (fun l => !inR l.pline)))
        dir := s.dir.filter (fun (e : Nat × Nat × Nat × Nat) => !inR e.1)
        leases := s.leases.filter (fun (e : Nat × Nat) => !inR e.1)
        stale := s.stale.filter (fun (c : Host.Cell) => !inR (c.1 / 64)) }
      .next { s with
        hostbias := r :: s.hostbias.filter (fun x => x != r), biasBusy := false, biasAck := true }.serveHeld
  else .next { s with hostbias := s.hostbias.filter (fun x => x != r), biasBusy := false, biasAck := true }.serveHeld

/-- HOST_MEM_ACCESS (R101, R110, R111): the host reads or writes device HBM over CXL.mem; what it reads is the answer. One that
finds a mode switch or a flip of its region waits, and those behind it. -/
def execHostMemAccess (acc : HostAcc) (s : State) : Host.Outcome State Fault Refusal :=
  .next { s with hostHeld := s.hostHeld ++ [acc] }.serveHost

/-- L2_MODE_SWITCH_DONE (R101): every line written back and invalid, no directory or lease state, the mode switched
and BUSY clear. -/
def execL2ModeSwitchDone (s : State) : Host.Outcome State Fault Refusal :=
  if s.l2busy then .next { s.flushAll with l2mode := !s.l2mode, l2busy := false }.serveHeld else .next s

/-- ISEND (R285): SOFT is set at the target strand. -/
def execIsend (value : Word) (s : State) : Host.Outcome State Fault Refusal :=
  let sid := bitsN value.toNat 2 9 * 4 + value.toNat % 4
  .next (s.updStrand sid (fun st => { st with ipend := st.ipend ||| 1 }))

/-- CHGRANT_READ (R241): a Chamois thread takes the next grant into a scalar register. -/
def execChgrantRead (tid : Nat) (sd : BitVec 6) (s : State) : Host.Outcome State Fault Refusal :=
  if isThread tid then
    let r := s.readGrant tid
    .next (r.2.updStrand tid (fun st =>
      st.write (.s sd) (BitVec.ofNat 2048 r.1) (BitVec.allOnes 2048)))
  else .next s

end Sys2Proof.Machine
end

