-- ==== Sys2Proof/Machine/Oryx.lean ====
section
/-! DEFINITION. Sparse-tensor regions (R164 to R190, R427 to R432): the descriptor and its checks, the tree of nodes, its
lookups, insertions and deletions, the six operations, cursors and densifying copies. -/

namespace Sys2Proof.Machine

/-! ### The descriptor -/

/-- The type of an element format (R167). -/
def fmtTy (f : Nat) : Ty :=
  ([Ty.n8, .i8, .e4m3, .e5m2, .n16, .i16, .f16, .bf16, .n32, .i32, .f32, .n64, .i64]).getD f .n64

/-- The fields of a descriptor that Oryx writes (R164), and the descriptor as it was read. -/
structure Desc where
  raw : Nat
  root : Nat
  free : Nat
  bump : Nat
  nkeys : Nat
  nfree : Nat
  height : Nat
deriving DecidableEq, Repr

/-- A descriptor from its 64 bytes. -/
def descOf (raw : Nat) : Desc :=
  { raw, root := bitsN raw 224 32, free := bitsN raw 256 32, bump := bitsN raw 288 32, nkeys := bitsN raw 320 64
    nfree := bitsN raw 384 32, height := bitsN raw 440 8 }

namespace Desc

def nnodes (d : Desc) : Nat := bitsN d.raw 128 32
def pbase (d : Desc) : Nat := bitsN d.raw 72 56
def fmt (d : Desc) : Nat := bitsN d.raw 16 4
def rank (d : Desc) : Nat := bitsN d.raw 0 2 + 1
def dim (d : Desc) (i : Nat) : Nat := bitsN d.raw (32 + 6 * i) 6
def unit (d : Desc) : Nat := bitsN d.raw 29 2 * 24 + bitsN d.raw 24 5
def ty (d : Desc) : Ty := fmtTy d.fmt
/-- The sum of the key widths. -/
def width (d : Desc) : Nat := d.dim 0 + d.dim 1 + d.dim 2 + d.dim 3

/-- A number with n bits at lo replaced. -/
def put (raw lo n v : Nat) : Nat := raw - bitsN raw lo n * 2 ^ lo + v % 2 ^ n * 2 ^ lo

/-- The descriptor's 64 bytes after a step: its fields, with DVER raised by 2 when one has changed (R174). -/
def image (d : Desc) : Nat :=
  let r := put (put (put (put (put (put d.raw 224 32 d.root) 256 32 d.free) 288 32 d.bump) 320 64 d.nkeys) 384 32
    d.nfree) 440 8 d.height
  if r = d.raw then d.raw else put r 192 32 (bitsN r 192 32 + 2)

end Desc

/-- Is the Oryx unit of a number ready (R299)? -/
def State.oryxReady (s : State) (u : Nat) : Bool :=
  if u < 64 then (s.ready.getD 11 0).getLsbD u else (s.ready.getD 12 0).getLsbD (u - 64)

/-- The configuration checks of a descriptor (R166). -/
def State.descOk (s : State) (d : Desc) : Bool :=
  bitN d.raw 63 && decide (bitsN d.raw 24 5 ≤ 23) && decide (d.fmt ≤ 12) &&
  (List.range 4).all (fun i => if i < d.rank then d.dim i != 0 else d.dim i == 0) &&
  decide (d.width ≤ 64) && decide (2 ≤ d.nnodes) && canonical (d.pbase * 256) && s.oryxReady d.unit

/-- A descriptor named by an operation, checked in order (R166): a cause with its TVAL, or the descriptor with its
local address and translation. -/
def State.checkDesc (s : State) (c : Space) (acc : Acc) (va : Nat) : Except (Nat × Nat) (Desc × Nat × Xlat) :=
  if va % 64 != 0 then .error (0x08, va)
  else match s.access c acc 64 va with
    | .error k => .error (k, va)
    | .ok (_, ty, .mem a, x) =>
      if ty != 0 || !inHbm a then .error (0x12, va)
      else
        let d := descOf (s.readMem a 64)
        if s.descOk d then .ok (d, a, x) else .error (0x12, va)
    | .ok _ => .error (0x12, va)

/-- Has a key a bit at or above the width sum (R168)? -/
def keyBad (d : Desc) (key : Nat) : Bool := decide (2 ^ d.width ≤ key)

/-! ### Nodes -/

/-- A node (R170, R171): version, level, keys, the values of a leaf, the children of an interior node, and NEXT. -/
structure Node where
  ver : Nat
  level : Nat
  keys : List Nat
  vals : List Nat
  kids : List Nat
  next : Nat
deriving DecidableEq, Repr

/-- n fields of w bytes of an image from byte `off`. -/
def row (img off w n : Nat) : List Nat := (List.range n).map (fun i => bitsN img (8 * (off + w * i)) (8 * w))

/-- A node from its 256 bytes (R170, R171). -/
def nodeOf (img : Nat) : Node :=
  let cnt := bitsN img 0 4
  let level := bitsN img 16 8
  if level = 0 then
    ⟨bitsN img 32 32, 0, row img 16 8 (min 14 cnt), row img 128 8 (min 14 cnt), [], bitsN img 64 32⟩
  else if level = 255 then ⟨bitsN img 32 32, 255, [], [], [], bitsN img 64 32⟩
  else ⟨bitsN img 32 32, level, row img 8 8 cnt, [], row img 128 4 (cnt + 1), 0⟩

/-- The 256 bytes of a node with its version raised by 2 (R174); unused slots are 0. -/
def Node.image (x : Node) : Nat :=
  let head := [(0, x.keys.length % 16), (16, x.level), (32, (x.ver + 2) % 2 ^ 32)]
  let put (off w : Nat) (l : List Nat) : List (Nat × Nat) := l.zipIdx.map (fun p => (8 * (off + w * p.2), p.1 % 256 ^ w))
  fields (if x.level = 0 then head ++ [(64, x.next)] ++ put 16 8 x.keys ++ put 128 8 x.vals
    else if x.level = 255 then head ++ [(64, x.next)]
    else head ++ put 8 8 x.keys ++ put 128 4 x.kids)

/-- A step in the making (R173): the descriptor, the nodes changed, the nodes looked at, and the splits and merges. -/
structure Tree where
  d : Desc
  nodes : SMap Node
  seen : List Nat
  rounds : Nat
deriving DecidableEq, Repr

/-- The virtual address of a node (R170). -/
def nodeVa (d : Desc) (n : Nat) : Nat := (d.pbase * 256 + n * 256) % 2 ^ 64

namespace State

/-- A node of a tree: changed already, or read through its translation (R178, R182). No node lies outside the pool: a number
that stores to the region have left undefined (R169) reads as an empty leaf where it is none of the pool's. -/
def getNode (s : State) (c : Space) (acc : Acc) (t : Tree) (n : Nat) : Except (Nat × Nat) (Node × Tree) :=
  match t.nodes.find n with
  | some x => .ok (x, t)
  | none =>
    let va := nodeVa t.d n
    if t.d.nnodes ≤ n then .ok (⟨0, 0, [], [], [], 0⟩, t)
    else match s.access c acc 64 va with
    | .error k => .error (k, va)
    | .ok (_, _, .mem a, _) => .ok (nodeOf (s.readMem a 256), { t with seen := n :: t.seen })
    | .ok _ => .error (0x12, va)

/-- A node for a split: the free list's head, or node BUMP (R172). -/
def allocNode (s : State) (c : Space) (t : Tree) : Except (Nat × Nat) (Nat × Nat × Tree) :=
  let n := if t.d.free != 0 then t.d.free else t.d.bump
  match s.getNode c .sparseW t n with
  | .error e => .error e
  | .ok (x, t) =>
    let d := if t.d.free != 0 then { t.d with free := x.next, nfree := t.d.nfree - 1 }
      else { t.d with bump := t.d.bump + 1 }
    .ok (n, x.ver, { t with d })

end State

/-- A tree with a node replaced. -/
def Tree.set (t : Tree) (n : Nat) (x : Node) : Tree := { t with nodes := t.nodes.insert n x }

/-- A tree with a node freed (R172). -/
def Tree.release (t : Tree) (n : Nat) (x : Node) : Tree :=
  let t := t.set n ⟨x.ver, 255, [], [], [], t.d.free⟩
  { t with d := { t.d with free := n, nfree := t.d.nfree + 1 } }

/-- Keys at or below a key: the child to take (R171). -/
def childOf (keys : List Nat) (key : Nat) : Nat := (keys.filter (fun k => decide (k ≤ key))).length

/-- Keys below a key: the place of the key in a leaf. -/
def placeOf (keys : List Nat) (key : Nat) : Nat := (keys.filter (fun k => decide (k < key))).length

namespace State

/-- The way from a node down to the leaf that covers a key: parents with the child taken, the lowest first, then the
leaf (R171). -/
def descend (s : State) (c : Space) (acc : Acc) (key : Nat) :
    Nat → Nat → List (Nat × Nat) → Tree → Except (Nat × Nat) (List (Nat × Nat) × Nat × Node × Tree)
  | 0, n, path, t =>
    match s.getNode c acc t n with
    | .error e => .error e
    | .ok (x, t) => .ok (path, n, x, t)
  | h + 1, n, path, t =>
    match s.getNode c acc t n with
    | .error e => .error e
    | .ok (x, t) =>
      let i := childOf x.keys key
      descend s c acc key h (x.kids.getD i 0) ((n, i) :: path) t

/-- The leaf that covers a key. -/
def findLeaf (s : State) (c : Space) (acc : Acc) (t : Tree) (key : Nat) :
    Except (Nat × Nat) (List (Nat × Nat) × Nat × Node × Tree) := s.descend c acc key t.d.height t.d.root [] t

/-- The value of a key in a leaf (R179). -/
def valueIn (x : Node) (key : Nat) : Option Nat :=
  let i := placeOf x.keys key
  if x.keys.getD i 0 = key && i < x.keys.length then some (x.vals.getD i 0) else none

/-- The first key from a leaf on that is above a key, or at it when not strict: key, value, leaf and its version
(R186), looking at no more than `fuel` leaves. -/
def nextFrom (s : State) (c : Space) (last : Nat) (strict : Bool) :
    Nat → Nat → Node → Tree → Except (Nat × Nat) (Option (Nat × Nat × Nat × Nat) × Tree)
  | 0, _, _, t => .ok (none, t)
  | fuel + 1, n, x, t =>
    match (x.keys.zip x.vals).find? (fun p => decide (last < p.1) || (!strict && p.1 == last)) with
    | some p => .ok (some (p.1, p.2, n, x.ver), t)
    | none =>
      if x.next = 0 then .ok (none, t)
      else match s.getNode c .sparseR t x.next with
        | .error e => .error e
        | .ok (y, t) => nextFrom s c last strict fuel x.next y t

/-- The leaf that a cursor names, when its version still matches (R186). A hint that cannot be read does not match (log 39). -/
def hintLeaf (s : State) (c : Space) (k : Nat) (t : Tree) : Option (Nat × Node × Tree) :=
  let n := bitsN k 128 32
  if n = 0 then none
  else match s.getNode c .sparseR t n with
    | .ok (x, t) => if n < t.d.nnodes && x.level = 0 && x.ver = bitsN k 160 32 then some (n, x, t) else none
    | .error _ => none

/-- The smallest present key above a cursor's, or at it when it has not started, with its value, leaf and version, and what
was read on the way (R186): from the hint, or from the root. -/
def nextKey (s : State) (c : Space) (d : Desc) (k : Nat) :
    Except (Nat × Nat) (Option (Nat × Nat × Nat × Nat) × Tree) :=
  let t : Tree := ⟨d, [], [], 0⟩
  let last := bitsN k 64 64
  match s.hintLeaf c k t with
  | some (n, x, t) => s.nextFrom c last (bitN k 192) (d.bump + 1) n x t
  | none =>
    match s.findLeaf c .sparseR t last with
    | .error e => .error e
    | .ok (_, n, x, t) => s.nextFrom c last (bitN k 192) (d.bump + 1) n x t

/-! ### Insertion (R175, R177) -/

/-- How many nodes from the lowest parent upward are full, and whether all of them are (R177). -/
def fullAbove (s : State) (c : Space) : List (Nat × Nat) → Tree → Except (Nat × Nat) (Nat × Bool × Tree)
  | [], t => .ok (0, true, t)
  | (n, _) :: rest, t =>
    match s.getNode c .sparseW t n with
    | .error e => .error e
    | .ok (x, t) =>
      if x.keys.length < 15 then .ok (0, false, t)
      else match fullAbove s c rest t with
        | .error e => .error e
        | .ok (k, all, t) => .ok (k + 1, all, t)

/-- A separator and a right child put into the parents, the lowest first, splitting full ones, and at last a new root
(R175). -/
def insertUp (s : State) (c : Space) (sep child : Nat) : List (Nat × Nat) → Tree → Except (Nat × Nat) Tree
  | [], t =>
    match s.allocNode c t with
    | .error e => .error e
    | .ok (n, ver, t) =>
      let t := t.set n ⟨ver, t.d.height + 1, [sep], [], [t.d.root, child], 0⟩
      .ok { t with d := { t.d with root := n, height := t.d.height + 1 } }
  | (n, i) :: rest, t =>
    match s.getNode c .sparseW t n with
    | .error e => .error e
    | .ok (x, t) =>
      let keys := x.keys.take i ++ [sep] ++ x.keys.drop i
      let kids := x.kids.take (i + 1) ++ [child] ++ x.kids.drop (i + 1)
      if keys.length ≤ 15 then .ok (t.set n { x with keys, kids })
      else match s.allocNode c t with
        | .error e => .error e
        | .ok (r, ver, t) =>
          let t := (t.set n { x with keys := keys.take 8, kids := kids.take 9 }).set r
            ⟨ver, x.level, keys.drop 9, [], kids.drop 9, 0⟩
          insertUp s c (keys.getD 8 0) r rest { t with rounds := t.rounds + 1 }

/-- A pair inserted or replaced at its leaf (R175, R177): none when there are too few nodes. A value replaced by an equal one, as
by an SPST of what is there or an SPADD of 0, counts as a change of the leaf, which is written and whose VER rises by 2 (DESIGN
CHOICE, log 39: R174 says no more than every node it changes). -/
def insertPair (s : State) (c : Space) (key val : Nat) (path : List (Nat × Nat)) (n : Nat) (x : Node) (t : Tree) :
    Except (Nat × Nat) (Option Tree) :=
  let i := placeOf x.keys key
  if (valueIn x key).isSome then .ok (some (t.set n { x with vals := x.vals.set i val }))
  else
    let keys := x.keys.take i ++ [key] ++ x.keys.drop i
    let vals := x.vals.take i ++ [val] ++ x.vals.drop i
    let more (t : Tree) : Tree := { t with d := { t.d with nkeys := t.d.nkeys + 1 } }
    if keys.length ≤ 14 then .ok (some (more (t.set n { x with keys, vals })))
    else match s.fullAbove c path t with
      | .error e => .error e
      | .ok (k, all, t) =>
        let need := 1 + k + b2n all
        if t.d.nfree + t.d.nnodes < need + t.d.bump then .ok none
        else match s.allocNode c t with
          | .error e => .error e
          | .ok (r, ver, t) =>
            let t := (t.set n { x with keys := keys.take 8, vals := vals.take 8, next := r }).set r
              ⟨ver, 0, keys.drop 8, vals.drop 8, [], x.next⟩
            match s.insertUp c (keys.getD 8 0) r path { more t with rounds := t.rounds + 1 } with
            | .error e => .error e
            | .ok t => .ok (some t)

/-! ### Deletion (R176) -/

/-- Two neighbours put together in the left one (R176), under their parent's separator k. -/
def joinNodes (t : Tree) (pn : Nat) (p : Node) (k ln : Nat) (l : Node) (rn : Nat) (r : Node) : Tree :=
  let sep := if l.level = 0 then [] else [p.keys.getD k 0]
  let t := t.set ln { l with keys := l.keys ++ sep ++ r.keys, vals := l.vals ++ r.vals, kids := l.kids ++ r.kids
                             next := r.next }
  let t := t.set pn { p with keys := p.keys.eraseIdx k, kids := p.kids.eraseIdx (k + 1) }
  let t := t.release rn r
  { t with rounds := t.rounds + 1 }

/-- The pairs or children that two neighbours hold together, against the limit of their level (R176). -/
def mayJoin (a b : Node) : Bool :=
  if a.level = 0 then decide (a.keys.length + b.keys.length ≤ 7) else decide (a.kids.length + b.kids.length ≤ 8)

/-- A node merged with its right sibling, or else with its left one, under one parent (R176); none if neither pair
qualifies. -/
def mergeNode (s : State) (c : Space) (pn i n : Nat) (t : Tree) : Except (Nat × Nat) (Option Tree) :=
  match s.getNode c .sparseW t pn with
  | .error e => .error e
  | .ok (p, t) =>
    match s.getNode c .sparseW t n with
    | .error e => .error e
    | .ok (x, t) =>
      let left (t : Tree) : Except (Nat × Nat) (Option Tree) :=
        if i = 0 then .ok none
        else
          let m := p.kids.getD (i - 1) 0
          match s.getNode c .sparseW t m with
          | .error e => .error e
          | .ok (y, t) => .ok (if mayJoin y x then some (joinNodes t pn p (i - 1) m y n x) else none)
      if i + 1 < p.kids.length then
        let m := p.kids.getD (i + 1) 0
        match s.getNode c .sparseW t m with
        | .error e => .error e
        | .ok (y, t) => if mayJoin x y then .ok (some (joinNodes t pn p i n x m y)) else left t
      else left t

/-- Merges from a node upward for as long as they occur (R176): the root is not tested. -/
def mergeUp (s : State) (c : Space) : List (Nat × Nat) → Nat → Tree → Except (Nat × Nat) Tree
  | [], _, t => .ok t
  | (pn, i) :: rest, n, t =>
    match s.mergeNode c pn i n t with
    | .error e => .error e
    | .ok none => .ok t
    | .ok (some t) => mergeUp s c rest pn t

/-- An interior root with a single child gives way to it (R176). -/
def shrinkRoot (s : State) (c : Space) (t : Tree) : Except (Nat × Nat) Tree :=
  if t.d.height = 0 then .ok t
  else match s.getNode c .sparseW t t.d.root with
    | .error e => .error e
    | .ok (x, t) =>
      if x.kids.length = 1 then
        let r := t.d.root
        let t := t.release r x
        .ok { t with d := { t.d with root := x.kids.getD 0 0, height := t.d.height - 1 } }
      else .ok t

/-- A key deleted from its leaf, with the merges that follow (R176). -/
def deletePair (s : State) (c : Space) (key : Nat) (path : List (Nat × Nat)) (n : Nat) (x : Node) (t : Tree) :
    Except (Nat × Nat) Tree :=
  let i := placeOf x.keys key
  let t := t.set n { x with keys := x.keys.eraseIdx i, vals := x.vals.eraseIdx i }
  let t := { t with d := { t.d with nkeys := t.d.nkeys - 1 } }
  match s.mergeUp c path n t with
  | .error e => .error e
  | .ok t => s.shrinkRoot c t

end State

/-! ### Steps -/

/-- Is an element zero (R167)? -/
def elemZero (t : Ty) (v : Nat) : Bool := if t.isInt then v == 0 else v % 2 ^ (t.width - 1) == 0

/-- The new element of a step from the old one and the operand (R180, R181). -/
def newElem (t : Ty) (op : OryxOp) (old v : Nat) : Nat :=
  let e := v % 2 ^ t.width
  match op with
  | .st => e
  | .add => if t.isInt then (old + e) % 2 ^ t.width else addRne t (old % 2 ^ t.width) e

namespace State

/-- A modifying step on a region (R173, R180, R181): the old element, and the tree after it, none where there are too few
nodes. -/
def oryxStep (s : State) (c : Space) (d : Desc) (op : OryxOp) (key v : Nat) :
    Except (Nat × Nat) (Nat × Option Tree) :=
  match s.findLeaf c .sparseW ⟨d, [], [], 0⟩ key with
  | .error e => .error e
  | .ok (path, n, x, t) =>
    let old := (valueIn x key).getD 0 % 2 ^ d.ty.width
    let e := newElem d.ty op old v
    if elemZero d.ty e then
      (if (valueIn x key).isSome then
        match s.deletePair c key path n x t with
        | .error e => .error e
        | .ok t => .ok (old, some t)
      else .ok (old, some t))
    else match s.insertPair c key e path n x t with
      | .error e => .error e
      | .ok t => .ok (old, t)

/-- The nodes that a step reads or writes (R178); one with too few nodes has read the way to its leaf, on which it counts the full
ones (R177). -/
def stepNodes (s : State) (c : Space) (d : Desc) (op : OryxOp) (key v : Nat) : List Nat :=
  match s.oryxStep c d op key v with
  | .ok (_, some t) => t.seen ++ t.nodes.map (·.1)
  | .ok (_, none) => (match s.findLeaf c .sparseW ⟨d, [], [], 0⟩ key with
    | .ok (_, _, _, t) => t.seen
    | .error _ => [])
  | .error _ => []

/-- The state with the translations of nodes that a step reads used (R90). -/
def touchNodes (s : State) (c : Space) (d : Desc) (l : List Nat) : State :=
  l.foldl (fun s n => match s.access c .sparseR 64 (nodeVa d n) with
    | .ok (_, _, _, x) => s.commitXlat c .sparseR x
    | .error _ => s) s

/-- The state with a step's nodes and descriptor written (R174), through their translations (R90). -/
def writeTree (s : State) (c : Space) (descA : Nat) (t : Tree) : State :=
  let s := s.touchNodes c t.d t.seen
  let s := (t.nodes.filter (fun p => decide (p.1 < t.d.nnodes))).foldl (fun s p =>
    match s.access c .sparseW 64 (nodeVa t.d p.1) with
    | .ok (_, _, .mem a, x) =>
      (List.range 4).foldl (fun s i => s.publish none (a + 64 * i) 64 (bitsN p.2.image (512 * i) 512) (2 ^ 64 - 1))
        (s.commitXlat c .sparseW x)
    | _ => s) s
  if t.d.image = t.d.raw then s else s.publish none descA 64 t.d.image (2 ^ 64 - 1)

/-- The state with a region in use (R169): what an operation that names it finds. -/
def useRegion (s : State) (c : Space) (d : Desc) (a : Nat) : State := s.watchRegion a d.nnodes (d.pbase * 256) c

/-- The time of a lookup (R190). -/
def lookupLat (d : Desc) : Nat := 30 + 12 * (d.height + 1)

end State

/-! ### The operations -/

/-- A trap of a sparse operation as an obstacle. -/
def sparseTrap (e : Nat × Nat) : Option Obstacle := rollTrap e.1 e.2

/-- What the checks of a descriptor and a key meet (R166, R168). -/
def descObs (acc : Acc) (va key : Nat) (s : State) : Option Obstacle :=
  match s.checkDesc (s.spaceOf s.cur) acc va with
  | .error e => sparseTrap e
  | .ok (d, _, _) => if keyBad d key then rollTrap 0x15 key else none

/-- What SPLD meets (R179, R430): the checks, its nodes, and what performs before it. -/
def spldObs (va key : Nat) (s : State) : Option Obstacle :=
  let c := s.spaceOf s.cur
  (descObs .sparseR va key s).or
    (match s.checkDesc c .sparseR va with
     | .error _ => none
     | .ok (d, a, _) =>
       match s.findLeaf c .sparseR ⟨d, [], [], 0⟩ key with
       | .error e => sparseTrap e
       | .ok _ => if s.loadHeld a || (s.biasBusy && s.biasTgt) then some .hold else none)

/-- The state with a descriptor's translation used, and those of nodes. -/
def State.touchTree (s : State) (c : Space) (x : Xlat) (t : Tree) : State :=
  (s.commitXlat c .sparseR x).touchNodes c t.d t.seen

/-- SPLD, once nothing stands in its way (R179): its answer comes in the time of a lookup. -/
def effSpld (sd : BitVec 6) (va key : Nat) (s : State) : State :=
  let c := s.spaceOf s.cur
  match s.checkDesc c .sparseR va with
  | .error _ => s
  | .ok (d, a, x) =>
    match s.findLeaf c .sparseR ⟨d, [], [], 0⟩ key with
    | .error _ => s
    | .ok (_, _, leaf, t) =>
      (((s.touchTree c x t).useRegion c d a).flushLoads s.cur).putSLock sd (extendTy d.ty ((State.valueIn leaf key).getD 0)) (State.lookupLat d)

/-- SPLD (R179, R430). -/
def execSpld (_ : OrdSc) (sd : BitVec 6) (as : BitVec 4) (sk : BitVec 6) (s : State) :
    Host.Outcome State Fault Refusal :=
  .next (s.gate (fun s => spldObs (s.me.regs.ra as).toNat (s.me.regs.rs sk).toNat s)
    (fun s => effSpld sd (s.me.regs.ra as).toNat (s.me.regs.rs sk).toNat s))

/-- What SPST and SPADD meet (R180 to R183, R427, R432): the checks, the translations of their step, earlier stores, and
the answer of the unit. -/
def spmodObs (op : OryxOp) (o : OrdSc) (va key v : Nat) (s : State) : Option Obstacle :=
  let c := s.spaceOf s.cur
  if s.asked (.oryx op va key v) then s.askObs (.oryx op va key v)
  else
    (descObs .sparseW va key s).or
      (match s.checkDesc c .sparseW va with
       | .error _ => none
       | .ok (d, a, _) =>
         match s.oryxStep c d op key v with
         | .error e => sparseTrap e
         | .ok _ =>
           if s.loadHeld a || !s.me.unseen.isEmpty || !s.me.aq.isEmpty ||
               (match relScope o with | some _ => s.releaseHeld s.cur .dev | none => false)
           then some .hold else s.askObs (.oryx op va key v))

/-- SPST (R180, R432). -/
def execSpst (o : OrdSc) (as : BitVec 4) (sk sv : BitVec 6) (s : State) : Host.Outcome State Fault Refusal :=
  .next (s.gate (fun s => spmodObs .st o (s.me.regs.ra as).toNat (s.me.regs.rs sk).toNat (s.me.regs.rs sv).toNat s)
    State.endRequest)

/-- SPADD (R181, R427): the old element, when Oryx has answered. -/
def execSpadd (o : OrdSc) (sd : BitVec 6) (as : BitVec 4) (sk sv : BitVec 6) (s : State) :
    Host.Outcome State Fault Refusal :=
  .next (s.gate (fun s => spmodObs .add o (s.me.regs.ra as).toNat (s.me.regs.rs sk).toNat (s.me.regs.rs sv).toNat s)
    (fun s => s.endRequest.putSLock sd (BitVec.ofNat 64 (s.answered (.oryx .add 0 0 0) 0 8)) 1))

namespace State

/-- The descriptor of a step that waits for its unit, in its strand's space. -/
def oryxDesc (s : State) (q : OryxReq) : Except (Nat × Nat) (Desc × Nat × Xlat) :=
  s.checkDesc (s.spaceOf q.sid) .sparseW q.desc

/-- The unit that serves a step (R173). -/
def oryxUnit (s : State) (q : OryxReq) : Nat :=
  match s.oryxDesc q with
  | .ok (d, _, _) => d.unit
  | .error _ => 96

/-- The cycle in which a step is answered (R190): 8 more than a lookup, and 20 for each split or merge. -/
def oryxTime (s : State) (q : OryxReq) : Nat :=
  match s.oryxDesc q with
  | .error _ => q.at_
  | .ok (d, _, _) =>
    let r := match s.oryxStep (s.spaceOf q.sid) d q.op q.key q.val with
      | .ok (_, some t) => t.rounds
      | _ => 0
    q.at_ + lookupLat d + 8 + 20 * r

/-- Must a step wait at the homes of the descriptor and the nodes that it writes, for a lease that has not ended (R100)? -/
def oryxLeased (s : State) (q : OryxReq) : Bool :=
  match s.oryxDesc q with
  | .error _ => false
  | .ok (d, a, _) => s.writeWaits a 64 || (match s.oryxStep (s.spaceOf q.sid) d q.op q.key q.val with
    | .ok (_, some t) => t.nodes.any (fun p => match s.access (s.spaceOf q.sid) .sparseW 64 (nodeVa d p.1) with
      | .ok (_, _, .mem b, _) => s.writeWaits b 256
      | _ => false)
    | _ => false)

/-- The first step of each unit that may be answered now (R100, R173, R190). -/
def oryxDue (s : State) : Option Instr :=
  (s.oryx.find? (fun q =>
    (s.oryx.find? (fun p => s.oryxUnit p == s.oryxUnit q)).any (fun p => p.tag == q.tag) &&
      decide (s.oryxTime q ≤ s.cycleOf q.sid) && !s.oryxLeased q)).map (fun q => .oryxAnswer q.sid)

/-- The state with the answer of a step given to its strand: a value, or a trap in its place (R177, R178). -/
def oryxReply (s : State) (q : OryxReq) (v : Nat) (t : Option Trap) : State :=
  s.updStrand q.sid (fun st => { st with request := st.request.map (fun p =>
    if p.sent && p.tag == q.tag then { p with got := [(0, v)], fail := t } else p) })

end State

/-- ORYX_ANSWER (R173 to R178, R190): the step of a strand is applied as one and answered; with too few nodes the
step writes NEXH alone, which raises DVER, and the answer is cause 0x14. -/
def execOryxAnswer (sid : Nat) (s : State) : Host.Outcome State Fault Refusal :=
  match s.oryx.find? (fun q => q.sid == sid) with
  | none => .next s
  | some q =>
    let unit := s.oryxUnit q
    let now := s.cycleOf sid
    let others := s.oryx.filter (fun p => p.tag != q.tag)
    let s1 : State := { s with oryx := others.map (fun p =>
      if s.oryxUnit p == unit then { p with at_ := max p.at_ now } else p) }
    let c := s.spaceOf sid
    match s.oryxDesc q with
    | .error e => .next (s1.oryxReply q 0 (some (Trap.of e.1 e.2)))
    | .ok (d, a, x) =>
      match s.oryxStep c d q.op q.key q.val with
      | .error e => .next (s1.oryxReply q 0 (some (Trap.of e.1 e.2)))
      | .ok (old, some t) =>
        .next ((((s1.commitXlat c .sparseW x).writeTree c a t).useRegion c t.d a).oryxReply q (extendTy d.ty old).toNat none)
      | .ok (_, none) =>
        let raw := Desc.put (Desc.put d.raw 448 32 (bitsN d.raw 448 32 + 1)) 192 32 (bitsN d.raw 192 32 + 2)
        let s1 := (s1.commitXlat c .sparseW x).touchNodes c d (s.stepNodes c d q.op q.key q.val)
        .next ((s1.publish none a 64 raw (2 ^ 64 - 1)).oryxReply q 0
          (some (Trap.of 0x14 q.key)))

/-! ### TLBINV's waits (R92, R178, R437, R438) -/

namespace State

/-- The translations that a unit holds for a step it has not answered (R178): the descriptor's, and those of the nodes that
the step reads or writes. -/
def oryxHeld (s : State) (q : OryxReq) : List (Nat × Nat) :=
  (q.desc, 64) :: match s.oryxDesc q with
    | .error _ => []
    | .ok (d, _, _) => (s.stepNodes (s.spaceOf q.sid) d q.op q.key q.val).map (fun n => (nodeVa d n, 256))

/-- Does a live page-lock entry or a held Oryx translation cover a page of a TLBINV (R92, R178, R437)? -/
def tlbCovered (s : State) (l : List (Nat × Nat)) : Bool :=
  l.any (fun p =>
    let x := (p.1 / 2 ^ 57, p.1 % 2 ^ 57, p.2)
    s.dies.toList.any (fun d => d.locks.any (fun k => underExtent k.2.asid k.2.va k.2.len x)) ||
    s.oryx.any (fun q => (s.oryxHeld q).any (fun h => underExtent (bitsN (s.strand q.sid).ptroot.toNat 52 12) h.1 h.2 x)))

/-- What stands in the way of a TLBINV (R437, R438): privilege, earlier stores, then its own waits. -/
def tlbinvObs (m : TlbMode) (sa sb : BitVec 6) (s : State) : Option Obstacle :=
  (needKernel 0 s).or (
    let r : Req := .tlbinv m (s.me.regs.rs sa).toNat (s.me.regs.rs sb).toNat
    match (if s.asked r then s.me.request.filter (fun p => p.sent) else none) with
    | some p => if s.tlbCovered p.got then some .hold else none
    | none => if s.releaseHeld s.cur .dev then some .hold else some (.ask r))

/-- The state with the request of the strand in issue sent: a TLBINV removes what it names (R437), any other leaves
(R206). -/
def startRequest (s : State) : State :=
  match s.me.request with
  | some p =>
    match p.req with
    | .tlbinv m a b => if p.sent then s else s.tlbRemove m a b
    | _ => s.sendRequest s.cur
  | none => s

end State

/-- TLBINV (R437, R438). -/
def execTlbinv (mode : TlbMode) (sa sb : BitVec 6) (s : State) : Host.Outcome State Fault Refusal :=
  .next (s.gate (State.tlbinvObs mode sa sb) State.endRequest)

/-! ### Cursors (R184 to R187) -/

/-- Where a cursor or a card may lie (R184): HBM through WB or UC, tile memory, or a scratchpad bank through SCR. -/
def State.placeOk (s : State) (pa ty : Nat) : Bool :=
  !s.isRemote pa && (match regionOf (pa % 2 ^ 52) with
    | .hbm => decide (ty ≤ 1) && !s.hostBiased (pa % 2 ^ 52) && !s.stackOff (pa % 2 ^ 52)
    | .tile _ _ => true
    | .sram clu b _ => ty == 2 && (s.bank clu b).mode == .scratchpad && !(s.bank clu b).busy && !(s.bank clu b).nrdy
    | _ => false)

/-- What the address of a cursor meets, checked as a write (R184, R431). -/
def cursorObs (va : Nat) (s : State) : Option Obstacle :=
  if va % 32 != 0 then rollTrap 0x08 va
  else match s.xlat (s.spaceOf s.cur) .write va with
    | .fault c => rollTrap c va
    | .ok pa ty _ _ => if s.placeOk pa ty then none else rollTrap 0x12 va

/-- SPCUR (R185, R428). -/
def execSpcur (ac as : BitVec 4) (sk : BitVec 6) (s : State) : Host.Outcome State Fault Refusal :=
  .next (s.gate (fun s =>
      (descObs .sparseR (s.me.regs.ra as).toNat (s.me.regs.rs sk).toNat s).or (cursorObs (s.me.regs.ra ac).toNat s))
    (fun s =>
      let r := s.me.regs
      let c := s.spaceOf s.cur
      let s := match s.checkDesc c .sparseR (r.ra as).toNat with
        | .ok (d, a, x) => (s.commitXlat c .sparseR x).useRegion c d a
        | .error _ => s
      s.storeVal 32 (r.ra ac).toNat ((r.ra as).toNat + (r.rs sk).toNat * 2 ^ 64) (2 ^ 32 - 1) none))

/-- The physical address of a cursor. -/
def State.cursorPa (s : State) (va : Nat) : Nat :=
  match s.xlat (s.spaceOf s.cur) .write va with
  | .ok pa _ _ _ => pa
  | .fault _ => 0

/-- The cursor that the strand in issue reads, its own stores included (R117, R186). -/
def State.cursorAt (s : State) (va : Nat) : Nat := s.readOwn s.cur (s.cursorPa va) 32

/-- What SPNEXT meets (R186, R431). -/
def spnextObs (va : Nat) (s : State) : Option Obstacle :=
  let c := s.spaceOf s.cur
  (cursorObs va s).or
    (if s.loadHeld (s.cursorPa va) then some .hold
     else
       let k := s.cursorAt va
       if bitN k 193 then none
       else match s.checkDesc c .sparseR (k % 2 ^ 64) with
         | .error e => sparseTrap e
         | .ok (d, _, _) =>
           match s.nextKey c d k with
           | .error e => sparseTrap e
           | .ok _ => if s.l2busy || (s.biasBusy && s.biasTgt) then some .hold else none)

/-- The three results of SPNEXT. -/
def State.putNext (s : State) (sk sv : BitVec 6) (gd : BitVec 4) (k v : Word) (g : Bool) (lat : Nat) : State :=
  let n := s.me.flight.length
  (((s.putSLock sk k lat).putSLock sv v lat).putG gd g lat true).updMe (fun st => { st with
    flight := st.flight.take n ++ (st.flight.drop n).map (fun r => { r with step := true }) })

/-- The state with the cursor at a virtual address stored by a step of the strand in issue: with a squash flag a taken branch
cancels it with the results (R46, R186). -/
def State.storeCursor (s : State) (va k : Nat) : State :=
  let n := s.me.gated.length
  (s.storeVal 32 va k (2 ^ 32 - 1) none).updMe (fun st => { st with
    gated := st.gated.take n ++ (st.gated.drop n).map (fun p => { p with step := true, sq := s.issue.sq }) })

/-- The store of a step of another strand that writes the cursor at a virtual address of the strand in issue, and is not
visible. -/
def State.cursorStore (s : State) (va sid : Nat) (p : PStore) : Bool :=
  sid != s.cur && p.step && p.pa == s.cursorPa va

/-- Does another strand advance the cursor at the same time (R186)? -/
def State.cursorRaced (s : State) (va : Nat) : Bool :=
  s.strands.any (fun x => x.2.unseen.any (s.cursorStore va x.1))

/-- The results of the other strand's step that are still on their way, free as well. -/
def State.freeSteps (s : State) (va v : Nat) (x : Nat × Strand) : List Result :=
  let seqs := (x.2.unseen.filter (s.cursorStore va x.1)).map (·.seq)
  x.2.flight.zipIdx.map (fun r =>
    if r.1.step && seqs.contains r.1.seq then { r.1 with val := BitVec.ofNat 2048 (v / 2 ^ (512 + 64 * r.2)) } else r.1)

/-- SPNEXT while another strand advances the record (R186): the record and the destinations of both steps are free (R6). -/
def State.raceSpnext (s : State) (sk sv : BitVec 6) (gd : BitVec 4) (va lat : Nat) : State :=
  let f := s.takeFree
  let free (sid : Nat) (p : PStore) : PStore := if s.cursorStore va sid p then { p with data := f.1 % 2 ^ 256 } else p
  let s' : State := { f.2 with strands := s.strands.map (fun (x : Nat × Strand) => (x.1, { x.2 with
    passed := x.2.passed.map (fun p => (p.1, free x.1 p.2)), storeQ := x.2.storeQ.map (free x.1), gated := x.2.gated.map (free x.1), flight := s.freeSteps va f.1 x })) }
  (s'.storeCursor va (f.1 % 2 ^ 256)).putNext sk sv gd (BitVec.ofNat 64 (f.1 / 2 ^ 256))
    (BitVec.ofNat 64 (f.1 / 2 ^ 320)) (bitN f.1 384) lat

/-- SPNEXT, once nothing stands in its way (R186): a load of the cursor, the next key from it, and the cursor stored. -/
def effSpnext (sk sv : BitVec 6) (gd : BitVec 4) (va : Nat) (s : State) : State :=
  let c := s.spaceOf s.cur
  let k := s.cursorAt va
  let s := (s.commitXlat c .read (s.xlat c .read va)).flushLoads s.cur
  if bitN k 193 then s.putNext sk sv gd 0 0 false 5
  else match s.checkDesc c .sparseR (k % 2 ^ 64) with
    | .error _ => s
    | .ok (d, a, x) =>
      let s := s.useRegion c d a
      if s.cursorRaced va then (s.commitXlat c .sparseR x).raceSpnext sk sv gd va (State.lookupLat d)
      else match s.nextKey c d k with
      | .error _ => s
      | .ok (none, t) =>
        ((s.touchTree c x t).storeCursor va (Desc.put k 193 1 1)).putNext sk sv gd 0 0 false
          (State.lookupLat d)
      | .ok (some (key, v, leaf, ver), t) =>
        let s := s.touchTree c x t
        let k' := Desc.put (Desc.put (Desc.put (Desc.put k 64 64 key) 128 32 leaf) 160 32 ver) 192 1 1
        (s.storeCursor va k').putNext sk sv gd (BitVec.ofNat 64 key) (extendTy d.ty v) true
          (State.lookupLat d)

/-- SPNEXT (R186, R431). -/
def execSpnext (_ : OrdSc) (sk sv : BitVec 6) (gd ac : BitVec 4) (s : State) : Host.Outcome State Fault Refusal :=
  .next (s.gate (fun s => spnextObs (s.me.regs.ra ac).toNat s)
    (fun s => effSpnext sk sv gd (s.me.regs.ra ac).toNat s))

/-! ### Densifying copies (R188, R189, R429) -/

/-- LO or EXT of a dimension, treated as 0 and 1 at and above the rank (R189). -/
def boxLo (d : Desc) (card i : Nat) : Nat := if i < d.rank then bitsN card (128 + 32 * i) 32 else 0
def boxExt (d : Desc) (card i : Nat) : Nat := if i < d.rank then bitsN card (256 + 32 * i) 32 else 1

/-- The bytes of a densified box (R189). -/
def boxBytes (d : Desc) (card : Nat) : Nat :=
  boxExt d card 0 * boxExt d card 1 * boxExt d card 2 * boxExt d card 3 * d.ty.bytes

/-- The declared regions of a densifying copy (R189). -/
def denseRegions (d : Desc) (card : Nat) : List (Bool × Nat × Nat) :=
  [(false, bitsN card 0 64, 64), (false, d.pbase * 256, d.nnodes * 256)] ++
    (if boxBytes d card = 0 then [] else [(true, bitsN card 64 64, boxBytes d card)])

/-- The card of SPDENSE, or why it is not at hand (R188). -/
def State.denseCard (s : State) (va : Nat) : Except InputErr Nat :=
  if va % 64 != 0 then .error (.bad 0x08 va)
  else match s.xlat (s.spaceOf s.cur) .read va with
    | .fault k => .error (.fault k va)
    | .ok pa ty _ _ => if s.placeOk pa ty then .ok (s.readOwn s.cur pa 64) else .error (.bad 0x12 va)

/-- The state after the walk for the card of an SPDENSE (R90). -/
def State.touchCard (s : State) (va : Nat) : State :=
  s.commitXlat (s.spaceOf s.cur) .read (s.xlat (s.spaceOf s.cur) .read va)

/-- The first page of a node pool from a virtual address on that no sparse-region operation may name (R182), if it comes before
one that does not translate; at most `fuel` pages. -/
def State.badPage (s : State) (c : Space) : Nat → Nat → Nat → Option Nat
  | 0, _, _ => none
  | fuel + 1, va, len =>
    if len = 0 then none
    else match s.xlat c .read va, s.regionPage c .read va len with
      | .ok pa ty _ _, r =>
        if ty = 2 || s.isRemote pa || !inHbm (pa % 2 ^ 52) then some va
        else (match r with
          | .ok (r, _) => if r.len = 0 then none else badPage s c fuel (va + r.len) (len - r.len)
          | .error _ => none)
      | .fault _, _ => none

/-- The first page of a region's node pool that no sparse-region operation may name (R182). -/
def State.poolBad (s : State) (c : Space) (d : Desc) : Option Nat :=
  s.badPage c (d.nnodes * 256 / 2 ^ 16 + 16) (d.pbase * 256 % 2 ^ 64) (d.nnodes * 256)

/-- The descriptor that a card names and its box, or the fault they meet (R166, R182, R189). -/
def State.denseDesc (s : State) (card : Nat) : Except InputErr Desc :=
  let c := s.spaceOf s.cur
  let va := card % 2 ^ 64
  match s.xlat c .sparseR va, s.checkDesc c .sparseR va with
  | .fault k, .error e => .error (if va % 64 = 0 then .fault k va else .bad e.1 e.2)
  | _, .error e => .error (.bad e.1 e.2)
  | _, .ok (d, _, _) =>
    match (List.range d.rank).find? (fun i => decide (2 ^ d.dim i < boxLo d card i + boxExt d card i)) with
    | some i => .error (.bad 0x15 i)
    | none =>
      if 2 ^ 40 < boxBytes d card then .error (.bad 0x15 4)
      else match s.poolBad c d with
        | some a => .error (.bad 0x12 a)
        | none => .ok d

/-- The completion word of a densifying copy. -/
def denseWord (card : Nat) : Nat × Nat := (bitsN card 387 61 * 8, bitsN card 448 64)

/-- The engine of a densifying copy: the unit of its region (R188). -/
def denseEngine (d : Desc) : Nat := 8 + d.unit

/-- SPDENSE (R188, R189, R429). -/
def execSpdense (spec : Bool) (ac : BitVec 4) (s : State) : Host.Outcome State Fault Refusal :=
  .next (s.gate (fun s =>
      match s.denseCard (s.me.regs.ra ac).toNat with
      | .error e => e.meets spec s
      | .ok card => match s.denseDesc card with
        | .error e => e.meets spec s
        | .ok d => subObs spec (denseRegions d card) (denseRegions d card) s)
    (fun s =>
      match s.denseCard (s.me.regs.ra ac).toNat with
      | .error e => s.submitFailed e State.noWord
      | .ok card => match s.denseDesc card with
        | .error e => (s.touchCard (s.me.regs.ra ac).toNat).submitFailed e (denseWord card)
        | .ok d =>
          let s := s.touchCard (s.me.regs.ra ac).toNat
          let s := match s.checkDesc (s.spaceOf s.cur) .sparseR (card % 2 ^ 64) with
            | .ok (_, a, _) => s.useRegion (s.spaceOf s.cur) d a
            | .error _ => s
          s.submit spec .densify (denseEngine d) (denseRegions d card) (denseRegions d card) [card, d.nnodes] (denseWord card)
            none))

/-- The coordinate of a key in a dimension (R168). -/
def coordOf (d : Desc) (key i : Nat) : Nat :=
  let off := ((List.range 4).filter (fun j => decide (i < j) && decide (j < d.rank))).foldl (fun a j => a + d.dim j) 0
  bitsN key off (d.dim i)

/-- The byte offset of a key in a densified box, if it lies there (R189). -/
def boxOffset (d : Desc) (card key : Nat) : Option Nat :=
  let dims := List.range d.rank
  if dims.all (fun i => decide (boxLo d card i ≤ coordOf d key i) &&
      decide (coordOf d key i < boxLo d card i + boxExt d card i)) then
    some (dims.foldl (fun a i => a * boxExt d card i + (coordOf d key i - boxLo d card i)) 0 * d.ty.bytes)
  else none

namespace State

/-- The state with n zero bytes written at a destination of a job, in pieces. -/
def zeroLoop (die job : Nat) : Nat → Nat → Nat → State → State
  | 0, _, _, s => s
  | fuel + 1, dst, len, s =>
    if len = 0 then s
    else match s.lockedPa die job dst with
      | none => s
      | some b =>
        let n := pieceOf b b len
        zeroLoop die job fuel (dst + n) (len - n) (s.engineStore die job b n 0)

/-- The local address of a node of a densifying copy: where the job has it locked, or, for one that a later growth has added, which
the job does not read (R429), where it lies now. -/
def denseNode (s : State) (j : Job) (d : Desc) (n : Nat) : Option Nat :=
  if n < j.card.getD 1 0 then (s.lockedPa j.die j.id (nodeVa d n)).map (· % 2 ^ 52)
  else match s.access (jobSpace j.root j.priv j.die) .sparseR 64 (nodeVa d n) with
    | .ok (_, _, .mem a, _) => some a
    | _ => none

/-- The state with a pair of a node written at its place in a box, if it lies there (R189). A pair in a node that a later growth
has added is written or left 0, freely (R429). -/
def densePair (j : Job) (d : Desc) (card n : Nat) (s : State) (p : Nat × Nat) : State :=
  match boxOffset d card p.1 with
  | none => s
  | some off =>
    let (keep, s) := if n < j.card.getD 1 0 then (true, s) else (s.takeFree.1 % 2 == 1, s.takeFree.2)
    if keep then
      s.storeBytes j.die j.id d.ty.bytes ((bitsN card 64 64 + off) % 2 ^ 64) d.ty.bytes (p.2 % 256 ^ d.ty.bytes)
    else s

/-- The state with the pairs of the leaf at a node number, if it is one, written at their places in a box (R189). A free node is
no leaf (R172). Poisoned data fails the job (R290). -/
def denseLeaf (j : Job) (d : Desc) (card : Nat) (s : State) (n : Nat) : State :=
  match s.denseNode j d n with
  | none => s
  | some a =>
    let x := nodeOf (s.readMem a 256)
    if x.level != 0 then s
    else if s.poisoned a 256 && n < j.card.getD 1 0 then
      s.updJob j.id (fun j => { j with failed := some (failValue 0x3F (nodeVa d n)) })
    else (x.keys.zip x.vals).foldl (densePair j d card n) s

/-- The state with the pairs of every leaf of a region written at their places in a box (R189). -/
def denseLeaves (j : Job) (d : Desc) (card : Nat) (s : State) : State :=
  ((List.range d.bump).drop 1).foldl (denseLeaf j d card) s

end State

/-- DENSIFY_JOB (R107, R189): an active densifying copy fills zeros and writes the coordinates of its box, as the region stands
now. It reads and writes its locked ranges, and meets no page fault. -/
def execDensifyJob (die job : Nat) (s : State) : Host.Outcome State Fault Refusal :=
  match (s.die die).jobs.find? (fun j => j.id == job) with
  | none => .next s
  | some j =>
    if j.kind != .densify || j.phase != .active || j.at_ != 0 then .next s
    else
      let card := j.card.getD 0 0
      let t := (s.die die).cycle
      match s.lockedPa j.die j.id (card % 2 ^ 64) with
      | none => .next s
      | some pa =>
        let d := descOf (s.readMem (pa % 2 ^ 52) 64)
        let n := boxBytes d card
        let s := s.updJob job (fun j => { j with at_ := t + n / 128 + State.lookupLat d })
        .next (if n = 0 then s else State.denseLeaves j d card (State.zeroLoop j.die j.id n (bitsN card 64 64) n s))

/-- A densifying copy that may act. -/
def State.denseDue (s : State) : Option Instr :=
  s.dies.toList.findSome? (fun d =>
    (d.jobs.find? (fun j => j.kind == .densify && j.phase == .active && j.at_ == 0 && j.failed.isNone)).map
      (fun j => .densifyJob j.die j.id))

end Sys2Proof.Machine
end

