-- ==== Sys2Proof/Machine/Uses.lean ====
section
/-! DEFINITION. The registers that an operation reads and writes (R43, R45), and the profile of Chamois bundles (R240). -/

namespace Sys2Proof.Machine

/-- A scalar or immediate operand. -/
def srcUses : SrcB → List RegName
  | .reg r => [.s r]
  | .imm _ => []

/-- A vector or broadcast operand. -/
def vsrcUses : VSrc → List RegName
  | .vec r => [.v r]
  | .sca r => [.s r]

/-- The mask register of a masked operation. -/
def maskUses (m : MaskSel) : List RegName := if m.men then [.vm m.vm] else []

/-- The mask registers that VMASK reads (R453). -/
def maskFnUses (f : MaskFn) (a b : BitVec 3) : List RegName :=
  match f with
  | .ones | .zero => []
  | .not => [.vm a]
  | _ => [.vm a, .vm b]

/-- A scalar or address register by name. -/
def saRegName : SaReg → RegName
  | .s r => .s r
  | .a r => .a r

/-- The index of LEA. -/
def leaUses : LeaIdx → List RegName
  | .reg r _ => [.s r]
  | .imm _ => []

/-- The destination of MOV. -/
def movDstName : MovDst → RegName
  | .s r => .s r
  | .a r => .a r
  | .m r => .m r

/-- The source of MOV. -/
def movUses : MovSrc → List RegName
  | .s r => [.s r]
  | .a r => [.a r]
  | .m r => [.m r]
  | .k r => [.k r]
  | .imm _ => []

/-- The registers of a bank of the vector file (R151). -/
def bankRegs (vb : BitVec 2) : List RegName :=
  (List.range 16).map (fun i => .v (BitVec.ofNat 6 (16 * vb.toNat + i)))

/-- Every m register, as MCALL copies them (R148). -/
def mRegs : List RegName := (List.range 8).map (fun i => .m (BitVec.ofNat 3 i))

/-- The registers that an operation reads, then those it writes (R43, R45). -/
def uses : Instr → List RegName × List RegName
  | .add _ _ sd sa sb | .sub _ _ sd sa sb | .mul _ _ sd sa sb | .div _ sd sa sb | .mod _ sd sa sb
  | .and _ sd sa sb | .andn _ sd sa sb | .or _ sd sa sb | .xor _ sd sa sb | .shl _ sd sa sb | .shr _ sd sa sb
  | .sra _ sd sa sb | .max _ sd sa sb | .min _ sd sa sb => (.s sa :: srcUses sb, [.s sd])
  | .mulh _ sd sa sb | .fadd _ _ sd sa sb | .fmul _ _ sd sa sb => ([.s sa, .s sb], [.s sd])
  | .bext _ sd sa _ _ => ([.s sa], [.s sd])
  | .bins _ sd sa _ _ => ([.s sd, .s sa], [.s sd])
  | .clz _ sd sa | .popc _ sd sa | .cvti _ _ _ _ sd sa | .fcvt _ _ _ sd sa => ([.s sa], [.s sd])
  | .cmp _ _ gd sa sb => (.s sa :: srcUses sb, [.g gd])
  | .fcmp _ _ gd sa sb => ([.s sa, .s sb], [.g gd])
  | .sel _ sd gc _ sa sb => ([.g gc, .s sa, .s sb], [.s sd])
  | .gop _ gd ga _ gb _ => ([.g ga, .g gb], [.g gd])
  | .lea d base idx => (saRegName base :: leaUses idx, [saRegName d])
  | .mov d src => (movUses src, [movDstName d])
  | .movhi sd _ _ => ([.s sd], [.s sd])
  | .ffma _ _ sd sa sb sc => ([.s sa, .s sb, .s sc], [.s sd])
  | .vabs _ vd va mk | .vneg _ vd va mk | .vmov _ vd va mk | .vcvt _ _ _ vd va mk | .vexp2 _ _ vd va mk
  | .vlog2 _ _ vd va mk | .vrcp _ _ vd va mk | .vrsq _ _ vd va mk | .vscan _ _ vd va mk =>
    (.v va :: maskUses mk, [.v vd])
  | .vadd _ _ _ vd va vb mk | .vsub _ _ _ vd va vb mk | .vmul _ _ _ vd va vb mk | .vand _ vd va vb mk
  | .vor _ vd va vb mk | .vxor _ vd va vb mk | .vshl _ vd va vb mk | .vshr _ vd va vb mk | .vsra _ vd va vb mk
  | .vmax _ vd va vb mk | .vmin _ vd va vb mk | .vperm _ vd va vb mk => (.v va :: (vsrcUses vb ++ maskUses mk), [.v vd])
  | .vfma _ _ vd va vb vc mk => (.v va :: .v vc :: (vsrcUses vb ++ maskUses mk), [.v vd])
  | .vbcast _ vd sa mk => (.s sa :: maskUses mk, [.v vd])
  | .vsel _ vd va vb vm => (.v va :: .vm vm :: vsrcUses vb, [.v vd])
  | .vcmp _ _ vmd va vb mk => (.v va :: (vsrcUses vb ++ maskUses mk), [.vm vmd])
  | .vcount sd vma => ([.vm vma], [.s sd])
  | .vextr _ sd va sb => ([.v va, .s sb], [.s sd])
  | .vins _ vd sa sb => ([.s sa, .s sb], [.v vd])
  | .vmask f vmd vma vmb => (maskFnUses f vma vmb, [.vm vmd])
  | .vred _ _ _ sd va mk => (.v va :: maskUses mk, [.s sd])
  | .ld _ _ sd ea => ([.a ea.ab], [.s sd])
  | .st _ _ ea sb => ([.a ea.ab, .s sb], [])
  | .vld _ vd ea mk => (.a ea.ab :: maskUses mk, [.v vd])
  | .vst _ ea vb mk => (.a ea.ab :: .v vb :: maskUses mk, [])
  | .waitaddr _ _ sd ea sb => ([.a ea.ab, .s sb], [.s sd])
  | .cflush ea | .cinv ea => ([.a ea.ab], [])
  | .gidx _ ea sb => ([.a ea.ab, .s sb], [])
  | .sidx _ ea sb sc => ([.a ea.ab, .s sb, .s sc], [])
  | .gpop sd | .gpopRp sd | .qstat sd | .mstat sd | .lqstat sd _ | .ctlrd sd _ | .mpwr sd _ | .bdom sd _ => ([], [.s sd])
  | .amo _ _ _ sd ea sb => ([.a ea.ab, .s sb], [.s sd])
  | .amocas _ _ sd ea sb sc => ([.a ea.ab, .s sb, .s sc], [.s sd])
  | .qinc _ _ sd gd ea sb | .qwrap _ _ sd gd ea sb | .qaddl _ _ sd gd ea sb => ([.a ea.ab, .s sb], [.s sd, .g gd])
  | .qdec _ _ sd gd ea => ([.a ea.ab], [.s sd, .g gd])
  | .spld _ sd as sk => ([.a as, .s sk], [.s sd])
  | .spst _ as sk sv => ([.a as, .s sk, .s sv], [])
  | .spadd _ sd as sk sv => ([.a as, .s sk, .s sv], [.s sd])
  | .spcur ac as sk => ([.a ac, .a as, .s sk], [])
  | .spnext _ sk sv gd ac => ([.a ac], [.s sk, .s sv, .g gd])
  | .mcall _ => (mRegs, [])
  | .scld xd ab _ => ([.a ab], [.x xd])
  | .scst ab _ xs => ([.a ab, .x xs], [])
  | .lqbindTx _ sd sp sc | .lqbindRx _ sd sp sc => ([.s sp, .s sc], [.s sd])
  | .lqbindUn _ sd => ([], [.s sd])
  | .lqpush _ vb => (bankRegs vb, [])
  | .lqpushT _ vb st => (.s st :: bankRegs vb, [])
  | .lqpop _ vb => ([], bankRegs vb)
  | .xfer _ _ ad as sl ac sv => ([.a ad, .a as, .s sl, .a ac, .s sv], [])
  | .ejob _ ss | .ctlwr _ ss => ([.s ss], [])
  | .route _ aj => ([.a aj], [])
  | .abandon ab => ([.a ab], [])
  | .cload ap sn => ([.a ap, .s sn], [])
  | .carm _ ac | .spdense _ ac => ([.a ac], [])
  | .vote _ _ gand gor gsrc _ => ([.g gsrc], [.g gand, .g gor])
  | .tlbinv _ sa sb => ([.s sa, .s sb], [])
  | .kstart sd sa sb => ([.s sa, .s sb], [.s sd])
  | .bankcfg sb sc => ([.s sb, .s sc], [])
  | .jmp sa | .ret sa => ([.s sa], [])
  | .call sd _ => ([], [.s sd])
  | .lpsetCnt _ sr => ([.s sr], [])
  | .lpsetStr _ _ sr => ([.s sr], [])
  | _ => ([], [])

/-! ### The Chamois profile -/

/-- Is the Q-slot operation one that a Chamois thread may issue (R240)? -/
def qOk : Instr → Bool
  | .ctlrd _ _ | .ctlwr _ _ => true
  | _ => false

/-- Does a register name a vector register above v15? -/
def highVec : RegName → Bool
  | .v r => decide (16 ≤ r.toNat)
  | _ => false

/-- The Chamois profile of a bundle (R240): M and X slots zero, no vector operation on v16 to v63, and in the Q slot
CTLRD and CTLWR alone. -/
def chamoisOk (b : Bundle) : Bool :=
  b.mop.isNone && b.mg == ⟨0, false⟩ && b.xop.isNone && b.xg == ⟨0, false⟩ &&
  b.ops.all (fun p => !((uses p.2.op).1 ++ (uses p.2.op).2).any highVec) &&
  (match b.qop with
    | some o => qOk o.op
    | none => true)

end Sys2Proof.Machine
end

