-- ==== Sys2Proof/Machine/Bundles.lean ====
section
/-! DEFINITION. The bundle at a strand's pc, before any of it acts: fetch (R37, R41, R303), the operations that execute (R52,
R304), holds (R43), the checking scoreboard (R45) and which bundles are restart marks (R53, R54, R119). -/

namespace Sys2Proof.Machine

namespace State

/-! ### Fetch -/

/-- The bundle at a strand's pc with its length in halfwords, or the trap of its fetch (R41, R303). -/
def fetch (s : State) (sid : Nat) : Except Trap (Bundle × Nat) :=
  let off := (s.strand sid).pc.toNat
  match s.streamHalf sid off with
  | none => .error (Trap.of 0x01 0xFFFFFFFF)
  | some h =>
    if h = 0xFFFF then
      match (s.literalAt sid off).bind decodeBundle with
      | none => .error (Trap.of 0x02 off)
      | some b => if isThread sid && !chamoisOk b then .error (Trap.of 0x02 off) else .ok (b, 25)
    else if h < s.dictLen sid then
      match decodeBundle (s.dictEntry sid h) with
      | none => .error (Trap.of 0x02 0)
      | some b => .ok (b, 1)
    else .error (Trap.of 0x01 h)

end State

/-! ### The operations that execute -/

/-- Do the iteration flags of an operation hold (R52)? -/
def iterates (o : SlotOp) (r : Regs) (off : Nat) : Bool :=
  match (List.range 6).reverse.find? (fun l => (r.loop l).active && (r.loop l).holds off) with
  | none => true
  | some l =>
    let k := (r.rk (BitVec.ofNat 3 l)).toNat
    (!o.fst || k == 0) && (!o.lst || k + 1 == (r.loop l).cnt.toNat)

/-- A submission that carries `.spec` (R273). -/
def isSpec : Instr → Bool
  | .ego sp _ | .xfer _ sp _ _ _ _ _ | .route sp _ | .spdense sp _ | .carm sp _ | .ctrig sp _ => sp
  | _ => false

/-- The results in flight as the bundle at the pc issues in cycle t, with the replay entries that it puts in flight (R58). -/
def Strand.flightAt (st : Strand) (t : Nat) : List Result :=
  st.flight ++ (st.toInject st.pc).map (fun r => { r with due := r.due.map (· + t), replay := true })

/-- The guard of a submission with `.spec` whose fixed-latency result is in flight in cycle t: index, inversion and the cycle
in which it becomes visible (R273). -/
def specGuard (st : Strand) (t : Nat) (g : Guard) (o : SlotOp) : Option (BitVec 4 × Bool × Nat) :=
  if isSpec o.op && g.idx != 0 then
    match (st.flightAt t).filter (fun r => !r.lock && r.dst == .g g.idx) with
    | [] => none
    | l => some (g.idx, g.inv, l.foldl (fun a r => max a (r.due.getD 0)) 0)
  else none

/-- Does an operation execute (R273, R304)? -/
def executes (st : Strand) (t : Nat) (p : Guard × SlotOp) : Bool :=
  iterates p.2 st.regs st.pc.toNat &&
    ((specGuard st t p.1 p.2).isSome || (st.regs.rg p.1.idx != p.1.inv))

/-- A branch, which beside HALT has no effect (R372). -/
def isBranch : Instr → Bool
  | .br _ | .jmp _ | .ret _ | .call _ _ | .lbreak _ => true
  | _ => false

/-- An operation whose effect on the loop levels the one in B1 meets (R321). -/
def isLoopOp : Instr → Bool
  | .loop _ _ | .lpsetCnt _ _ | .lpsetStr _ _ _ => true
  | i => isBranch i

/-- An operation whose stores a card that a later operation of its bundle reads may hold (R305). -/
def storesAhead : Instr → Bool
  | .st _ _ _ _ | .vst _ _ _ _ | .scst _ _ _ | .sidx _ _ _ _ | .spcur _ _ _ => true
  | _ => false

/-- A submission that reads a card in memory (R228, R256, R429). -/
def readsCard : Instr → Bool
  | .route _ _ | .spdense _ _ | .carm _ _ | .cload _ _ | .kstart _ _ _ => true
  | _ => false

/-- An operation whose place the read of an SCLD in its bundle comes after (R118, R305, R421): MARK, or an atomic. -/
def beforeScld : Instr → Bool
  | .mark | .amo _ _ _ _ _ _ | .amocas _ _ _ _ _ _ | .qinc _ _ _ _ _ _ | .qwrap _ _ _ _ _ _ | .qdec _ _ _ _ _
  | .qaddl _ _ _ _ _ _ => true
  | _ => false

/-- Does a squash flag on an operation have an effect (R46)? Not on one that takes effect at issue: stores, atomics, queue
pushes and pops, and every Q-slot and M-slot operation. -/
def squashable : Instr → Bool
  | .amo _ _ _ _ _ _ | .amocas _ _ _ _ _ _ | .qinc _ _ _ _ _ _ | .qwrap _ _ _ _ _ _ | .qdec _ _ _ _ _
  | .qaddl _ _ _ _ _ _ | .spst _ _ _ _ | .spadd _ _ _ _ _ | .gpop _ | .gpopRp _ | .gidx _ _ _ | .sidx _ _ _ _
  | .lqpop _ _ | .lqbindTx _ _ _ _ | .lqbindRx _ _ _ _ | .lqbindUn _ _ | .lqstat _ _ | .mstat _ | .mpwr _ _ | .bdom _ _
  | .ctlrd _ _ | .vote _ _ _ _ _ _ | .kstart _ _ _ => false
  | _ => true

/-- The operations that execute of a bundle in cycle t. -/
def liveOps (st : Strand) (t : Nat) (b : Bundle) : List (Guard × SlotOp) :=
  let l := b.ops.filter (executes st t)
  if l.any (fun p => p.2.op == .halt) then l.filter (fun p => !isBranch p.2.op) else l

/-! ### Holds and the scoreboard (R43, R45) -/

/-- The guards that a bundle's operations read. -/
def guardsOf (b : Bundle) : List RegName :=
  (b.ops.filter (fun p => p.1.idx != 0)).map (fun p => .g p.1.idx)

/-- Has an interlocked result of one of some registers not come (R43)? Nothing waits for `s0` or `g0`. -/
def lockedOn (st : Strand) (l : List RegName) : Bool :=
  st.flight.any (fun r => r.lock && r.dst != .s 0 && r.dst != .g 0 && l.contains r.dst)

/-- The register class and number as TVAL gives them (R45). -/
def regTval (r : RegName) : Nat := (regClass r).1 * 256 + (regClass r).2

/-- A register that the bundle reads while a fixed-latency result of it is in flight (R45), a replay entry among them: the
first in the order of the operations, each guard before its operation. The guard of a submission with `.spec`, which may
issue before it is visible (R273), counts as read here all the same (DESIGN CHOICE, log 38). -/
def earlyRead (st : Strand) (b : Bundle) (live : List (Guard × SlotOp)) : Option RegName :=
  let reads := b.ops.flatMap (fun p =>
    (if p.1.idx = 0 then [] else [RegName.g p.1.idx]) ++ (if live.contains p then (uses p.2.op).1 else []))
  reads.find? (fun r => r != .s 0 && r != .g 0 && (st.flight ++ st.toInject st.pc).any (fun x => !x.lock && x.dst == r))

/-- A register that bundle `seq` has written while an earlier fixed-latency result of it comes later (R45). The time of an
interlocked result counts where it is known at issue. -/
def lateWrite (st : Strand) (seq : Nat) : Option RegName :=
  let own (x : Result) : Bool := x.seq == seq && !x.replay
  (st.flight.find? (fun x => own x && x.due.isSome && x.dst != .s 0 && x.dst != .g 0 &&
    st.flight.any (fun y => !own y && !y.lock && y.dst == x.dst && decide (x.due.getD 0 < y.due.getD 0)))).map (·.dst)

/-! ### Restart marks (R54, R119) -/

/-- An operation that cannot be repeated or that orders accesses: its bundle carries RMARK (R54, R119). -/
def marksOp : Instr → Bool
  | .amo _ _ _ _ _ _ | .amocas _ _ _ _ _ _ | .qinc _ _ _ _ _ _ | .qwrap _ _ _ _ _ _ | .qdec _ _ _ _ _
  | .qaddl _ _ _ _ _ _ | .spst _ _ _ _ | .spadd _ _ _ _ _ | .sidx _ _ _ _ | .lqpush _ _ | .lqpushT _ _ _ | .lqpop _ _
  | .mcall _ | .mark | .fence _ | .waitaddr _ _ _ _ _ => true
  | .ld _ o _ _ | .st _ o _ _ | .vld o _ _ _ | .vst o _ _ _ | .spld o _ _ _ | .spnext o _ _ _ _ => o.ord != .relaxed
  | .ego sp _ | .xfer _ sp _ _ _ _ _ | .route sp _ | .spdense sp _ | .carm sp _ | .ctrig sp _ => !sp
  | .ejob _ _ | .ctlwr _ _ | .lqbindTx _ _ _ _ | .lqbindRx _ _ _ _ | .lqbindUn _ _ | .lqstat _ _ | .abandon _
  | .cload _ _ | .arrive _ _ | .bwait _ _ | .vote _ _ _ _ _ _ | .bdom _ _ | .tlbinv _ _ _ | .kstart _ _ _
  | .bankcfg _ _ => true
  | _ => false

/-- Gated stores that an operation makes, counting one for each line (R54, R459). -/
def storeCount (st : Strand) : Instr → Nat
  | .st _ _ _ _ => 1
  | .scst _ _ _ => 2
  | .cflush _ | .cinv _ | .spcur _ _ _ | .spnext _ _ _ _ _ => 1
  | .vst _ _ _ mk => (activeLines (st.regs.byteMask mk)).length
  | _ => 0

namespace State

/-- Is an operation a load from the pop port of a FIFO bank, whose bundle is its own mark (R102)? -/
def popsFifo (s : State) : Instr → Bool
  | .ld t _ _ ea =>
    match s.access (s.spaceOf s.cur) .read t.bytes (s.me.regs.addr ea) with
    | .ok (_, _, .pop _ _, _) => true
    | _ => false
  | _ => false

/-- Does the bundle of the strand in issue carry RMARK (R53, R54, R119)? -/
def carriesMark (s : State) (b : Bundle) (live : List (Guard × SlotOp)) : Bool :=
  let st := s.me
  b.rmark || st.forceMark || !st.mark.valid || decide (st.mark.cycle + 512 ≤ s.issue.cycle) ||
    b.ops.any (fun p => marksOp p.2.op) || live.any (fun p => s.popsFifo p.2.op) ||
    decide (64 < st.gated.length + (live.map (fun p => storeCount st p.2.op)).sum)

/-- Does the bundle of the strand in issue wait for results in flight: an interlocked one of a register that it names (R43), or,
with RMARK, any but a replay entry (R53, R58)? -/
def flightHeld (s : State) (b : Bundle) (live : List (Guard × SlotOp)) : Bool :=
  lockedOn s.me (guardsOf b) || lockedOn s.me (live.flatMap (fun p => (uses p.2.op).1 ++ (uses p.2.op).2)) ||
    (s.carriesMark b live && s.me.flight.any (fun r => !r.replay))

/-- The state with a strand in issue: its visible results written (R42), and the operation's surroundings (R356). -/
def beginIssue (s : State) (sid : Nat) : State :=
  let t := s.cycleOf sid
  let s := s.settleNow sid
  let st := s.strand sid
  { s with
    cur := sid
    issue := { Issue.init with
      off := st.pc, cycle := t, seq := st.seq + 1, status := st.status, epc := st.epc, bctrap := st.sbcheck.getLsbD 1
      dbgEn := st.dbgEn, yhen := (s.core (coreOf sid)).yhen } }

/-- Would the next bundle of a strand wait for results in flight, so that it issues only once they have come (R57)? -/
def awaitsFlight (s : State) (sid : Nat) : Bool :=
  let s := s.beginIssue sid
  !s.me.halting && (match s.fetch sid with
    | .error _ => false
    | .ok (b, len) =>
      let s := { s with issue := { s.issue with len } }
      s.flightHeld b (liveOps s.me s.issue.cycle b))

end State

end Sys2Proof.Machine
end

