-- ==== Sys2Proof/Machine/Springbok.lean ====
section
/-! DEFINITION. Routing jobs: submission, scores, selection, weights, records, and the jobs' ends (R80, R227 to R239,
R247, R105, R420). -/

namespace Sys2Proof.Machine

/-! ### Fields of the card and the layer record (R227, R229) -/

def cardTokbuf (c : Nat) : Nat := bitsN c 0 64
def cardXbuf (c : Nat) : Nat := bitsN c 64 64
def cardLcfg (c : Nat) : Nat := bitsN c 128 64
def cardNtok (c : Nat) : Nat := bitsN c 192 32
def cardTbase (c : Nat) : Nat := bitsN c 224 32
def cardMb (c : Nat) : Nat := bitsN c 256 16
def cardMbend (c : Nat) : Bool := bitN c 272
def cfgK (c : Nat) : Nat := bitsN c 16 4
def cfgNexp (c : Nat) : Nat := bitsN c 21 11
def cfgGoff (c : Nat) : Nat := bitsN c 32 17
def cfgDmodel (c : Nat) : Nat := bitsN c 50 14
def cfgRank (c : Nat) : Nat := bitsN c 104 12
def cfgNrank (c : Nat) : Nat := bitsN c 116 12
def cfgGstate (c : Nat) : Nat := bitsN c 128 64
def cfgPlace (c : Nat) : Nat := bitsN c 192 64
def cfgOutbuf (c : Nat) : Nat := bitsN c 256 64
def cfgGroup (c : Nat) : Nat := bitsN c 320 64
def cfgXrowb (c : Nat) : Nat := bitsN c 384 16
def cfgDout (c : Nat) : Nat := bitsN c 400 16
def cfgPromo (c : Nat) : Nat := bitsN c 416 16
def cfgHintth (c : Nat) : Nat := bitsN c 432 16
def cfgWdog (c : Nat) : Nat := bitsN c 448 32
def cfgBstep (c : Nat) : Nat := bitsN c 480 32
def cfgDepth (c : Nat) : Nat := bitsN c 8 2

/-- Bytes of a scoring row and of a gate row (R227, R231). -/
def cfgRowBytes (c : Nat) : Nat := (cfgDmodel c + 63) / 64 * 64

/-- NREP of a placement entry: values above 4 act as 4 (R238). -/
def placeNrep (e : Nat) : Nat := min 4 (bitsN e 16 8)
/-- The bits of a placement entry that are not reserved (R4, R238). -/
def placeMask : Nat :=
  fields ([(0, 0x300FFFFFF), (320, 2 ^ 96 - 1)] ++ (List.range 4).map (fun n => (64 + 64 * n, 0x7FFF001FFFFF)))
/-- CAP of a placement entry. -/
def placeCap (e : Nat) : Nat := bitsN e 0 16
/-- A replica word of a placement entry: device, core and BINOFF (R238). -/
def placeRep (e n : Nat) : Nat × Nat × Nat :=
  let w := bitsN e (64 + 64 * n) 64
  (bitsN w 0 12, bitsN w 12 9, bitsN w 32 15)

/-- The declared regions of a routing job (R228). -/
def routeRegions (card cfg : Nat) : List (Bool × Nat × Nat) :=
  ([(false, cardTokbuf card, cardNtok card * cfgRowBytes cfg), (false, cardXbuf card, cardNtok card * cfgXrowb cfg),
    (false, cardLcfg card, 128), (false, cfgPlace cfg, 64 * cfgNexp cfg), (false, cfgGroup cfg, 2 * (cfgNrank cfg + 1)),
    (true, cfgGstate cfg, 9280), (true, cfgOutbuf cfg, cardNtok card * 2 * cfgDout cfg),
    (true, bitsN card 387 61 * 8, 8)]).filter (fun r => r.2.2 != 0)

/-- Is every field of the record in its stated range (R229)? -/
def cfgOk (c : Nat) : Bool :=
  let ok (v lo hi : Nat) : Bool := decide (lo ≤ v) && decide (v ≤ hi)
  ok (bitsN c 608 32) 1 (2 ^ 20) && ok (bitsN c 576 32) 0 8192 && ok (cfgDout c) 1 8192 && ok (cfgXrowb c) 64 16384 &&
  cfgXrowb c % 64 == 0 && cfgGstate c % 64 == 0 && decide (cfgRank c ≤ cfgNrank c) && ok (bitsN c 78 6) 1 63 &&
  ok (cfgDmodel c) 1 8192 && ok (cfgNexp c) 1 1024 && ok (cfgK c) 1 8 && bitsN c 14 2 != 3 &&
  decide (cfgGoff c * 64 + cfgNexp c * cfgRowBytes c ≤ 2 ^ 23)

/-! ### Submission (R228, R420) -/

namespace State

/-- Is a write region of a routing job in local memory (R228)? One whose translation fails is found later (R107). -/
def localRegion (s : State) (c : Space) (va len : Nat) : Bool :=
  match s.region c (true, va, len) with
  | .error _ => true
  | .ok l => l.all (fun p => !s.isRemote p.1.pa && (match regionOf (p.1.pa % 2 ^ 52) with
    | .host | .mmio _ | .imports _ | .hole => false
    | _ => true))

/-- Is a bank of a routing job there, ready and in its mode (R228, R102)? -/
def bankFits (s : State) (x : Nat × Nat × BankMode) : Bool :=
  let k := s.bank x.1 x.2.1
  decide (x.2.1 < 64) && k.mode == x.2.2 && !k.busy && !k.nrdy

/-- The lowest dictionary entry that fails the Chamois check (R40, R240): 48 bytes an entry. -/
def badEntry (dict n : Nat) : Option Nat :=
  (List.range n).find? (fun i => match decodeBundle (bitsN dict (384 * i) 384) with
    | some b => !chamoisOk b
    | none => true)

/-- The card of ROUTE, or why it is not at hand (R227, R228). -/
def routeCard (s : State) (va : Nat) : Except InputErr Nat :=
  if va % 64 != 0 then .error (.bad 0x08 va)
  else match s.readSub (s.spaceOf s.cur) va 64 with
    | .error e => .error e
    | .ok card =>
      if 65536 < cardNtok card then .error (.bad 0x15 (cardNtok card))
      else if cardLcfg card % 64 != 0 then .error (.bad 0x08 (cardLcfg card))
      else .ok card

/-- The record, dictionary and stream that a card names, or why they are not at hand (R228, R299). -/
def routeInput (s : State) (card : Nat) : Except InputErr (Nat × Nat × Nat) :=
  let c := s.spaceOf s.cur
  let die := dieOf s.cur
  let lcfg := cardLcfg card
  match s.readSub c lcfg 128 with
  | .error e => .error e
  | .ok cfg =>
    if !cfgOk cfg || !(routeBanks die cfg card).all s.bankFits ||
        decide (bitsN cfg 78 6 * 2 ^ 19 < cardNtok card * cfgK cfg * (2 * cfgDout cfg + 16)) ||
        !s.localRegion c (cfgGstate cfg) 9280 ||
        !s.localRegion c (cfgOutbuf cfg) (cardNtok card * 2 * cfgDout cfg) ||
        !(s.ready.getD 12 0).getLsbD (48 + die) || !(s.ready.getD 9 0).getLsbD (32 + die) then .error (.bad 0x12 lcfg)
    else
      let n := bitsN cfg 576 32
      let prog := bitsN cfg 512 64
      match s.readSub c prog (48 * n), s.readSub c ((prog + 48 * n) % 2 ^ 64) (2 * bitsN cfg 608 32) with
      | .error e, _ => .error e
      | _, .error e => .error e
      | .ok dict, .ok stream =>
        match badEntry dict n with
        | some i => .error (.bad 0x03 i)
        | none => .ok (cfg, dict, stream)

/-- The completion word of a routing job. -/
def routeCw (card : Nat) : Nat × Nat := (bitsN card 387 61 * 8, bitsN card 448 64)

/-- What ROUTE meets (R228, R420). -/
def routeObs (spec : Bool) (va : Nat) (s : State) : Option Obstacle :=
  match s.routeCard va with
  | .error e => e.meets spec s
  | .ok card => match s.routeInput card with
    | .error e => e.meets spec s
    | .ok (cfg, _, _) => subObs spec (routeRegions card cfg) (routeRegions card cfg) s

/-- The state with a routing job submitted: the job keeps its card, record, dictionary and stream, and holds its
banks (R228). -/
def effRoute (spec : Bool) (va : Nat) (s : State) : State :=
  match s.routeCard va with
  | .error e => s.submitFailed e noWord
  | .ok card => match s.routeInput card with
    | .error e => s.submitFailed e (routeCw card)
    | .ok (cfg, dict, stream) =>
      let c := s.spaceOf s.cur
      let n := 48 * bitsN cfg 576 32 + 2 * bitsN cfg 608 32
      let s := ((s.touchSub c va 64).touchSub c (cardLcfg card) 128).touchSub c (bitsN cfg 512 64) n
      let id := s.nextJob
      let s := s.submit spec .route 6 (routeRegions card cfg) (routeRegions card cfg) [card, cfg, dict, stream]
        (routeCw card) none
      match s.job id with
      | some j => s.refreshBanks j
      | none => s

end State

/-- ROUTE (R227, R228, R420). -/
def execRoute (spec : Bool) (aj : BitVec 4) (s : State) : Host.Outcome State Fault Refusal :=
  .next (s.gate (fun s => s.routeObs spec (s.me.regs.ra aj).toNat) (fun s => s.effRoute spec (s.me.regs.ra aj).toNat))

/-! ### Scores (R80, R233) -/

/-- RoundTo(.f32, RNE, .). -/
def r32 (v : Num) : Nat := (roundTo .f32 .rne false 0 v).1

/-- Element i of a row of FP8 bytes. -/
def fp8At (t : Ty) (row i : Nat) : Num := readFloat t (bitsN row (8 * i) 8)

/-- Chunk c of the products of a token and a gate row (R80). -/
def gateChunk (tf gf : Ty) (dm trow grow c : Nat) : Nat :=
  (pairTree ((List.range 64).map (fun k =>
    let d := 64 * c + k
    if d < dm then r32 (mulNum (fp8At tf trow d) (fp8At gf grow d)).1 else 0))).1

/-- GateScore (R80). -/
def gateScore (tf gf : Ty) (dm trow grow x : Nat) : Nat :=
  let s := ((List.range ((dm + 63) / 64 - 1)).map (· + 1)).foldl
    (fun a c => addRne .f32 a (gateChunk tf gf dm trow grow c)) (gateChunk tf gf dm trow grow 0)
  r32 (mulNum (readFloat .f32 s) (e8m0 x)).1

/-- exp of a number (R233). -/
def expOf : Num → Num
  | .nan => .nan
  | .inf true => Num.zero false
  | .inf false => .inf false
  | .fin n m e _ => expNum n m e

/-- Patterns added in order, one RNE rounding an addition. -/
def sumRne : List Nat → Nat
  | [] => 0
  | x :: rest => rest.foldl (addRne .f32) x

/-- Is a pattern a NaN? -/
def nan32 (x : Nat) : Bool := (readFloat .f32 x).isNaN

/-- The function of SFN 0. -/
def sigmoid (x : Nat) : Nat :=
  r32 (divNum (Num.ofInt 1) (addNum .rne (Num.ofInt 1) (expOf (readFloat .f32 x).flip)).1).1

/-- exp(x - m), rounded. -/
def expDiff (x m : Nat) : Nat := r32 (expOf (addNum .rne (readFloat .f32 x) (readFloat .f32 m).flip).1)

/-- A quotient, rounded. -/
def divRne (a b : Nat) : Nat := r32 (divNum (readFloat .f32 a) (readFloat .f32 b)).1

/-- The largest of patterns that are not NaN. -/
def maxPat (l : List Nat) : Nat :=
  match l.filter (fun x => !nan32 x) with
  | [] => canonNaN .f32
  | x :: rest => rest.foldl (fun a b => if cmpNum (readFloat .f32 a) (readFloat .f32 b) < 0 then b else a) x

/-- f of every expert from the scores (R233). -/
def sfnValues (sfn : Nat) (s : List Nat) : List Nat :=
  if sfn = 0 then s.map sigmoid
  else if sfn = 1 then
    let m := maxPat s
    let e := s.map (fun x => if nan32 x then canonNaN .f32 else expDiff x m)
    let z := sumRne ((s.zip e).filterMap (fun p => if nan32 p.1 then none else some p.2))
    e.map (fun x => divRne x z)
  else s

/-- A ranking with one more expert: before the first with a smaller key (R234). -/
def rankInsert (x : Nat × Nat) : List (Nat × Nat) → List (Nat × Nat)
  | [] => [x]
  | y :: rest =>
    if cmpNum (readFloat .f32 y.2) (readFloat .f32 x.2) < 0 then x :: y :: rest else y :: rankInsert x rest

/-- The eligible experts by rank: expert and key (R234). -/
def ranking (place keys : List Nat) : List (Nat × Nat) :=
  ((keys.zip place).zipIdx.filterMap (fun p =>
    if placeNrep p.1.2 = 0 || nan32 p.1.1 then none else some (p.2, p.1.1))).foldl (fun l x => rankInsert x l) []

/-- NaN keys of experts that have replicas (R234). -/
def nanKeys (place keys : List Nat) : Nat :=
  ((keys.zip place).filter (fun p => placeNrep p.2 != 0 && nan32 p.1)).length

/-- The gate weights of the chosen experts, in rank order (R235). -/
def gateWeights (sfn : Nat) (norm : Bool) (s f chosen : List Nat) : List Nat :=
  if sfn = 2 then
    let s0 := s.getD (chosen.headD 0) 0
    let e := chosen.map (fun j => expDiff (s.getD j 0) s0)
    e.map (fun x => divRne x (sumRne e))
  else
    let w := chosen.map (fun j => f.getD j 0)
    if norm then w.map (fun x => divRne x (sumRne w)) else w

/-! ### Reading a job's input -/

namespace State

/-- n bytes of a job's input, at most `fuel` lines: what was fetched from other devices, or local memory. -/
def readJob (s : State) (die : Nat) (j : Job) : Nat → Nat → Nat → Nat
  | 0, _, _ => 0
  | fuel + 1, va, n =>
    if n = 0 then 0
    else
      let k := min n (64 - va % 64)
      let v := match j.fetched.find (va / 64) with
        | some l => bitsN l (8 * (va % 64)) (8 * k)
        | none => match s.lockedPa die j.id va with
          | some pa => s.engineRead j.id (pa % 2 ^ 52) k
          | none => 0
      v + 2 ^ (8 * k) * readJob s die j fuel ((va + k) % 2 ^ 64) (n - k)

/-- The lines of n bytes of a job's input from an address that other devices hold and that are not fetched yet: virtual
and physical address. -/
def remoteLines (s : State) (die : Nat) (j : Job) (va n : Nat) : List (Nat × Nat) :=
  if !(s.die die).locks.any (fun l => l.2.job == j.id && l.2.phys.any (fun r => s.isRemote r.pa)) then []
  else (List.range ((va + n + 63) / 64 - va / 64)).filterMap (fun i =>
    let a := max va ((va / 64 + i) * 64)
    match s.lockedPa die j.id a with
    | some pa => if s.isRemote pa && (j.fetched.find (a / 64)).isNone then some (a / 64 * 64, pa / 64 * 64) else none
    | none => none)

/-- The state with lines of a job's input asked of other devices. -/
def fetchLines (s : State) (die : Nat) (j : Job) (l : List (Nat × Nat)) : State :=
  l.foldl (fun s p => s.engineRequest die j.id p.2 (2 ^ 65 + p.1) 1 6 0 0) s

/-- The address of a poisoned byte in the local input of a job (R290). -/
def poisonIn (s : State) (j : Job) : Option Nat :=
  s.poison.find? (fun a => j.reads.any (fun r =>
    !s.isRemote r.pa && decide (r.pa % 2 ^ 52 ≤ a) && decide (a < r.pa % 2 ^ 52 + r.len)))

/-- n bytes of the gate state block of a job at an offset (R232). -/
def gateByte (s : State) (die : Nat) (j : Job) (r : RouteJob) (off n : Nat) : Nat :=
  s.engineRead j.id ((s.lockedPa die j.id (cfgGstate r.cfg + off)).getD 0 % 2 ^ 52) n

/-- The scores of token i (R80, R233), free where a store has met the gate rows since the job was submitted (R231). -/
def tokenScores (s : State) (die : Nat) (j : Job) (r : RouteJob) (i : Nat) : List Nat :=
  let rb := cfgRowBytes r.cfg
  let trow := s.readJob die j (rb / 64 + 1) (cardTokbuf r.card + i * rb) rb
  let fmt (b : Nat) : Ty := if bitN r.cfg b then .e5m2 else .e4m3
  let rows := gateBase + die * 2 ^ 23 + cfgGoff r.cfg * 64
  match (s.jobStored j.id).find? (fun x => meets x.1 x.2.1 rows (cfgNexp r.cfg * rb)) with
  | some x => (List.range (cfgNexp r.cfg)).map (fun e => bitsN x.2.2 (32 * (i * cfgNexp r.cfg + e)) 32)
  | none => (List.range (cfgNexp r.cfg)).map (fun e =>
    gateScore (fmt 11) (fmt 12) (cfgDmodel r.cfg) trow
      (s.readMem (rows + e * rb) rb) (s.gateByte die j r (64 + e) 1))

/-- The state with counter i of the routing job of a die raised (R232). -/
def countRoute (s : State) (die i n : Nat) : State :=
  s.updDie die (fun d => { d with route := d.route.map (fun r => { r with
    counts := r.counts.insert i (r.counts.getD i 0 + n) }) })

end State

/-- The routing job with token i scored, its choices made (R233 to R235). `act` is the bias bank. -/
def RouteJob.addToken (r : RouteJob) (i : Nat) (s bias : List Nat) : RouteJob :=
  let k := cfgK r.cfg
  let f := sfnValues (bitsN r.cfg 14 2) s
  let keys := (f.zip bias).map (fun p => addRne .f32 p.1 p.2)
  let rank := (ranking r.place keys).map (·.1)
  let chosen := rank.take k
  let w := gateWeights (bitsN r.cfg 14 2) (bitN r.cfg 13) s f chosen
  let t := (cardTbase r.card + i) % 2 ^ 32
  { r with
    records := r.records ++ ((chosen.zip w).zipIdx.map (fun p => ⟨t, p.1.2, p.1.1, p.2, 0⟩))
    backups := (r.backups.insert i ((rank.drop k).take (cfgDepth r.cfg)))
    counts := (r.counts.insert 0 (r.counts.getD 0 0 + nanKeys r.place keys)).insert 1
      (r.counts.getD 1 0 + (k - chosen.length))
    cnt := chosen.foldl (fun m e => m.insert e (m.getD e 0 + 1)) r.cnt
    slots := (List.range k).foldl (fun m c => m.insert (i * k + c)
      ⟨if c < chosen.length then .pending else .empty, 0, []⟩) r.slots }

/-- The records of a round in order: by expert, then as they come, which is by token (R237). -/
def sortRecords (nexp : Nat) (l : List RRec) : List RRec :=
  (List.range nexp).flatMap (fun e => l.filter (fun x => x.expert == e))

/-- The 16 bytes of a record (R237). -/
def RRec.image (x : RRec) : Nat :=
  fields [(0, x.token % 2 ^ 32), (32, x.wgt % 2 ^ 32), (64, x.expert % 2 ^ 16), (80, x.crank % 256), (88, x.round % 256)]

namespace State

/-- The local addresses of the record array and the SEG array of a routing job (R237, R241). -/
def sorterArrays (die : Nat) (r : RouteJob) : Nat × Nat :=
  let x := sorterOf die r.cfg r.card
  (x.1, x.2 - 2 ^ 19)

/-- The state with the record and SEG arrays of the current round written (R237). -/
def writeRound (s : State) (die : Nat) (r : RouteJob) : State :=
  let a := sorterArrays die r
  let s := r.records.zipIdx.foldl (fun s p => s.writeSram (a.1 + 16 * p.2) 16 p.1.image) s
  (List.range (cfgNexp r.cfg)).foldl (fun s e =>
    let before := (r.records.filter (fun x => decide (x.expert < e))).length
    let n := (r.records.filter (fun x => x.expert == e)).length
    s.writeSram (a.2 + 8 * e) 8 (before + n * 2 ^ 32)) s

/-! ### Outputs (R81, R247) -/

/-- Is no slot of token i pending? -/
def tokenDone (r : RouteJob) (i : Nat) : Bool :=
  (List.range (cfgK r.cfg)).all (fun c => match r.slots.find (i * cfgK r.cfg + c) with
    | some x => x.st != .pending
    | none => true)

/-- Column c of the output of token i (R81). -/
def outputAt (r : RouteJob) (i c : Nat) : Nat :=
  let full := (List.range (cfgK r.cfg)).filterMap (fun k => match r.slots.find (i * cfgK r.cfg + k) with
    | some x => if x.st == .full then some (bitsN (x.chunks.getD (c / 128) 0) (16 * (c % 128)) 16) else none
    | none => none)
  match full with
  | [] => 0
  | _ => (roundTo .bf16 .rne false 0 (readFloat .f32 (sumRne (full.map (fun x => r32 (readFloat .bf16 x)))))).1

/-- The state with the output row of token i written, if no slot of it is pending any more (R247). -/
def finishToken (s : State) (die i : Nat) : State :=
  match (s.die die).route with
  | none => s
  | some r =>
    if r.written.contains i || !tokenDone r i || cardNtok r.card ≤ i then s
    else
      let n := 2 * cfgDout r.cfg
      let (row, s) := s.orFree (r.odd || r.blind) (packLanes 16 ((List.range (cfgDout r.cfg)).map (outputAt r i)))
      let s := s.storeBytes die r.job n (cfgOutbuf r.cfg + i * n) n row
      s.updDie die (fun d => { d with route := some { r with written := r.written ++ [i] } })

/-- The state with the outputs of every token that has no slot pending written. -/
def finishTokens (s : State) (die : Nat) : State :=
  match (s.die die).route with
  | none => s
  | some r => (List.range (cardNtok r.card)).foldl (fun s i => s.finishToken die i) s

/-- The state with the completion word of a routing job written part of the way, if it is time (R247). -/
def routeWord (s : State) (die : Nat) : State :=
  match (s.die die).route with
  | none => s
  | some r =>
    let n := r.written.length
    let t := (s.die die).cycle
    match (s.die die).jobs.find? (fun j => j.id == r.job) with
    | none => s
    | some j =>
      if r.lastCw < n && n < cardNtok r.card && r.cwAt ≤ t then
        (s.writeJobCw j (j.cwVal + n)).updDie die (fun d => { d with
          route := d.route.map (fun r => { r with lastCw := n, cwAt := t + 64 }) })
      else s

/-! ### Start of a job -/

/-- The active routing job of a die. -/
def activeRoute (s : State) (die : Nat) : Option Job :=
  (s.die die).jobs.find? (fun j => j.kind == .route && j.phase == .active && j.failed.isNone)

/-- The routing job of a die has nothing more to wait for before it is scored. -/
def routeStartDue (s : State) (die : Nat) : Bool :=
  match s.activeRoute die, (s.die die).route with
  | some _, none => true
  | some j, some r => r.job == j.id && r.place.isEmpty && !s.jobOut j.id
  | _, _ => false

/-- A routing job as it starts (R228). -/
def newRoute (j : Job) : RouteJob :=
  { job := j.id, cfg := j.card.getD 1 0, card := j.card.getD 0 0, seq := 0, round := 0, started := false
    records := [], refused := [], backups := [], reqs := [], closed := [], slots := [], written := []
    lastCw := 0, cwAt := 0, wdogFrom := none, roundsOver := false, cnt := [], counts := [], place := [], group := []
    gate := 0, odd := false, blind := false }

/-- The die with the micro-batch of a starting job counted on (R236, R242): the job's sequence number, the choices of
the micro-batch so far with the job's, and, when it is the first, every replica at the start of a micro-batch. -/
def countBatch (d : Die) (r : RouteJob) : Die :=
  let g := r.gate
  let mb := cardMb r.card
  let old := d.mbs.find? (fun m => m.gate == g && m.mb == mb)
  let rest := d.mbs.filter (fun m => !(m.gate == g && m.mb == mb))
  let o := old.getD ⟨g, mb, 0, []⟩
  let cnt := r.cnt.foldl (fun m p => m.insert p.1 (m.getD p.1 0 + p.2)) o.cnt
  { d with
    mbs := if cardMbend r.card then rest else rest ++ [⟨g, mb, o.seq + 1, cnt⟩]
    group := r.group
    permits := d.permits.map (fun p => { p with
      grants := [], here := [], written := false
      mbs := if old.isNone && p.gate == g then p.mbs.filter (fun m => m.mb != mb) else p.mbs })
    route := some { r with seq := o.seq, cnt } }

/-- What the members of a group have to agree on about a job (R230). -/
def ranOf (r : RouteJob) : Ran :=
  { mb := cardMb r.card, seq := r.seq, last := cardMbend r.card, nexp := cfgNexp r.cfg, k := cfgK r.cfg, depth := cfgDepth r.cfg
    nrank := cfgNrank r.cfg, group := r.group, place := r.place }

/-- Does a group list name a die of this device (R230)? -/
def groupNames (s : State) (group : List Nat) (die : Nat) : Bool :=
  group.any (fun e => e % 4096 == s.devid.toNat % 4096 && bitsN e 12 2 == die)

/-- Does the job that a die started last, running or retired, disagree with one that another die of its group starts after
`prev` (R230)? A member has started the same job, or is still at the one before: no job's rounds end before every member has
posted for them (R242). -/
def disagrees (s : State) (die : Nat) (prev : Option Ran) (r : Ran) (d : Nat) : Bool :=
  match (s.die d).ran with
  | none => false
  | some m =>
    let names := s.groupNames r.group d
    let back := s.groupNames m.group die
    d != die && m != r && prev != some m && ((names && back) || ((names || back) && m.mb == r.mb && m.seq == r.seq))

/-- The state with the job of a die kept as the last that it started, and it and the jobs of the other dies of its group that
disagree with it marked: their outputs, bins and counters are undefined (R230). What a job that has retired has left stays
(DEDUCED, log 21). -/
def markOdd (s : State) (die : Nat) : State :=
  match (s.die die).route with
  | none => s
  | some r =>
    let prev := (s.die die).ran
    let l := (List.range 4).filter (s.disagrees die prev (ranOf r))
    let s := s.updDie die (fun d => { d with ran := some (ranOf r), layers := d.layers.insert r.gate r.place })
    (if l.isEmpty then [] else die :: l).foldl (fun s d =>
      s.updDie d (fun x => { x with route := x.route.map (fun q => { q with odd := true }) })) s

/-- The state with a routing job scored, selected and sorted (R233 to R237). -/
def scoreJob (s : State) (die : Nat) (j : Job) (r : RouteJob) : State :=
  let nexp := cfgNexp r.cfg
  let read (va n : Nat) : Nat := s.readJob die j (n / 64 + 2) va n
  let r := { r with
    place := (List.range nexp).map (fun e => read (cfgPlace r.cfg + 64 * e) 64 &&& placeMask)
    group := (List.range (cfgNrank r.cfg + 1)).map (fun i => read (cfgGroup r.cfg + 2 * i) 2 % 2 ^ 14) }
  let r := { r with gate := (s.lockedPa die j.id (cfgGstate r.cfg)).getD 0 }
  let act := s.gateByte die j r 0 4 % 2
  let bias := (List.range nexp).map (fun e => s.gateByte die j r (1088 + 4096 * act + 4 * e) 4)
  let r := (List.range (cardNtok r.card)).foldl (fun r i => r.addToken i (s.tokenScores die j r i) bias) r
  let r := { r with records := sortRecords nexp r.records }
  let s := (s.updDie die (fun d => countBatch d r)).markOdd die
  (s.writeRound die r).finishTokens die

end State

/-- ROUTING_JOB_START (R228, R233 to R237): the job asks for what lies on other devices; when its input is there, its
tokens are scored. -/
def execRoutingJobStart (die : Nat) (s : State) : Host.Outcome State Fault Refusal :=
  if !s.routeStartDue die then .next s
  else match s.activeRoute die with
    | none => .next s
    | some j =>
      match s.poisonIn j, (s.die die).route with
      | some a, _ => .next (s.updJob j.id (fun j => { j with failed := some (State.failValue 0x3F a) }))
      | none, some r => .next (s.scoreJob die j r)
      | none, none =>
        let r := State.newRoute j
        match ((routeRegions r.card r.cfg).filter (fun x => !x.1)).flatMap (fun x => s.remoteLines die j x.2.1 x.2.2) with
        | [] => .next (s.scoreJob die j r)
        | l => .next ((s.updDie die (fun d => { d with route := some r })).fetchLines die j l)

/-! ### The end of a job (R105, R232, R236, R247) -/

namespace State

/-- Is a routing job ready to retire: rounds over, every output written, the bins it received written, and its
completion word free (R247)? -/
def routeDone (s : State) (j : Job) : Bool :=
  match (s.die j.die).route with
  | some r =>
    r.job == j.id && r.roundsOver && decide (cardNtok r.card ≤ r.written.length) &&
      decide (r.cwAt ≤ (s.die j.die).cycle) && (s.die j.die).permits.all (fun p => p.grants.isEmpty || p.written)
  | none => false

/-- The new bias of an expert (R236). -/
def newBias (b step nrep cnt e t : Nat) : Nat :=
  if nrep = 0 || cnt * e = t then b
  else if cnt * e < t then addRne .f32 b step
  else (fSub .f32 .rne false 0 b step).1

/-- The state with a 32-bit word of the gate state block changed (R232). -/
def updGate (s : State) (die : Nat) (j : Job) (r : RouteJob) (off : Nat) (f : Nat → Nat) : State :=
  match s.lockedPa die j.id (cfgGstate r.cfg + off) with
  | some pa => s.engineStore die j.id pa 4 (f (s.engineRead j.id (pa % 2 ^ 52) 4) % 2 ^ 32)
  | none => s

/-- The state with the bias updated by a job with MBEND (R236). -/
def updateBias (s : State) (die : Nat) (j : Job) (r : RouteJob) : State :=
  if !cardMbend r.card || cfgBstep r.cfg % 2 ^ 31 = 0 then s
  else
    let at_ (off : Nat) : Nat := s.gateByte die j r off 4
    let act := at_ 0 % 2
    let e := (r.place.filter (fun p => placeNrep p != 0)).length
    let t := r.cnt.foldl (fun a p => a + p.2) 0
    let s := (List.range (cfgNexp r.cfg)).foldl (fun s x =>
      let (b, s) := s.orFree r.blind
        (newBias (at_ (1088 + 4096 * act + 4 * x)) (cfgBstep r.cfg) (placeNrep (r.place.getD x 0)) (r.cnt.getD x 0) e t)
      s.updGate die j r (1088 + 4096 * (1 - act) + 4 * x) (fun _ => b)) s
    s.updGate die j r 0 (fun w => w - w % 2 + (1 - act))

/-- POLICY of a placement entry (R105, R238). -/
def placePolicy (e : Nat) : Nat := bitsN e 32 2

/-- The bytes that the RESIDENT experts of every layer that a die runs take on a core, from offset 0 of its resident area (R105,
log 20). -/
def residentBytes (s : State) (die core : Nat) : Nat :=
  ((s.die die).layers.flatMap (·.2)).foldl (fun a e =>
    let here (n : Nat) : Bool := (placeRep e n).1 == s.devid.toNat % 4096 && (placeRep e n).2.1 == core
    if placePolicy e == 0 && (List.range (placeNrep e)).any here then a + bitsN e 384 32 else a) 0

/-- The lowest place for n bytes of weights at or above an offset, below the end of the resident area, that no promoted
expert of the core takes: at the offset itself or where one of them ends (R105, log 20). -/
def residentPlace (d : Die) (core lo n top : Nat) : Option Nat :=
  let taken := (d.permits.filter (fun p => p.resident && decide (p.wbase / 2 ^ 23 = core))).map (fun p =>
    (p.wbase % 2 ^ 23, p.wlen))
  let fits (x : Nat) : Bool := decide (lo ≤ x) && decide (x + n ≤ top) && taken.all (fun t =>
    decide (x + n ≤ t.1) || decide (t.1 + t.2 ≤ x))
  let at_ := (lo :: taken.map (fun t => t.1 + t.2)).filter fits
  at_.foldl (fun a x => match a with | some y => some (min x y) | none => some x) none

/-- The resident area of a core in bytes (R105). -/
def residentArea (s : State) (core : Nat) : Nat := min 7 (s.core core).wscfg.toNat * 2 ^ 20

/-- The state with weights copied from HBM into a place of a core's weight-stack slice (R105); a stack that is not ready serves
nothing (R14, log 40). -/
def stageWeights (s : State) (core off e n : Nat) : State :=
  let src := bitsN e 320 64 % 2 ^ 52
  if inHbm (src + n) && !s.stackOff src then s.writeMem (weightBase + core * 2 ^ 23 + off) n (s.readMem src n) else s

/-- The state with a replica's residency decided at the end of a micro-batch (R105). -/
def promote (s : State) (die : Nat) (r : RouteJob) (expert rep : Nat) : State :=
  let d := s.die die
  let e := r.place.getD expert 0
  match d.permits.find? (fun p => p.gate == r.gate && p.expert == expert && p.rep == rep) with
  | none => s
  | some p =>
    if placePolicy e != 2 then s
    else
      let core := (placeRep e rep).2.1
      let n := bitsN e 384 32
      let got := match p.mbs.find? (fun m => m.mb == cardMb r.card) with
        | some m => m.granted
        | none => 0
      let enough := decide (cfgPromo r.cfg ≤ got)
      let place := if enough && !p.resident then residentPlace d core (s.residentBytes die core) n (s.residentArea core) else none
      let low := if enough then 0 else p.low + 1
      let q : Permit := { p with
        resident := (p.resident || place.isSome) && decide (low < 4), low := if low < 4 then low else 0
        wbase := match place with | some x => core * 2 ^ 23 + x | none => p.wbase
        wlen := if place.isSome then n else p.wlen }
      let s := s.updDie die (fun d => { d with permits := d.permits.map (fun x => if x = p then q else x) })
      match place with
      | some x => s.stageWeights core x e n
      | none => s

/-- The state at the end of a micro-batch: every replica's residency is decided, in increasing expert index (R105), and its
count of the micro-batch is done with. -/
def promoteAll (s : State) (die : Nat) (r : RouteJob) : State :=
  if !cardMbend r.card then s
  else
    let s := (List.range (cfgNexp r.cfg)).foldl (fun s e => (List.range 4).foldl (fun s n => s.promote die r e n) s) s
    s.updDie die (fun d => { d with permits := d.permits.map (fun p =>
      if p.gate == r.gate then { p with mbs := p.mbs.filter (fun m => m.mb != cardMb r.card) } else p) })

/-- The state with the threads of a die's Chamois cores stopped. -/
def stopThreads (s : State) (die : Nat) : State :=
  { s with strands := s.strands.map (fun p =>
      if isThread p.1 && dieOf p.1 == die then (p.1, { p.2 with run := .off }) else p) }

/-- The state with a routing job retired: counters, bias, residency, the final completion value (R232, R236, R247). -/
def retireRoute (s : State) (j : Job) : State :=
  match (s.die j.die).route with
  | none => s
  | some r =>
    let s := (List.range 8).foldl (fun s i =>
      let (c, s) := s.orFree (r.odd || r.blind) (r.counts.getD i 0)
      s.updGate j.die j r (4 + 4 * i) (fun w => w + c)) s
    let s := ((s.updateBias j.die j r).promoteAll j.die r).stopThreads j.die
    let s := s.updDie j.die (fun d => { d with route := none })
    let s := s.settleJob j
    (s.writeJobCw j (j.cwVal + cardNtok r.card)).dropJob j.id

end State

end Sys2Proof.Machine
end

