-- ==== Sys2Proof/Machine/Permits.lean ====
section
/-! DEFINITION. Chamois rounds, permits, bins and combine (R240 to R250, R333). -/

namespace Sys2Proof.Machine

/-! ### Bins (R239, R242) -/

/-- The bins of a group: expert and replica (R239). -/
def RouteJob.bins (r : RouteJob) : List (Nat × Nat) :=
  r.place.zipIdx.flatMap (fun p => (List.range (placeNrep p.1)).map (fun n => (p.2, n)))

/-- The records of a bin in this round, in token order (R239). -/
def RouteJob.bin (r : RouteJob) (expert rep : Nat) : List RRec :=
  r.records.filter (fun x => x.expert == expert && x.token % max 1 (placeNrep (r.place.getD expert 0)) == rep)

/-- The index of a token within its job (R227). -/
def RouteJob.index (r : RouteJob) (token : Nat) : Nat := (token + 2 ^ 32 - cardTbase r.card) % 2 ^ 32

/-- The die of a replica: device and die (R239). -/
def RouteJob.receiver (r : RouteJob) (expert rep : Nat) : Nat × Nat :=
  let x := placeRep (r.place.getD expert 0) rep
  (x.1, x.2.1 / 128)

/-- A bin area (R245): the local addresses of header, records and payload, and whether it fits in tile memory. -/
def binArea (e rep xrowb : Nat) : Nat × Nat × Nat × Bool :=
  let x := placeRep e rep
  let up (n : Nat) : Nat := (n + 63) / 64 * 64
  let recs := up (64 + 32 * ((placeCap e + 127) / 128))
  let pay := up (recs + 8 * placeCap e)
  let base := tileBase + x.2.1 * 2 ^ 21 + x.2.2 * 64
  (base, base + recs, base + pay, decide (x.2.2 * 64 + pay + placeCap e * xrowb ≤ 2 ^ 21))

/-- An empty replica at its receiver. -/
def Permit.init (gate expert rep : Nat) : Permit :=
  { gate, expert, rep, mbs := [], grants := [], here := [], written := false, hdr := 0, recs := 0, key := (0, 0), group := []
    resident := false, low := 0, wbase := 0, wlen := 0 }

/-- A micro-batch at a replica, as it begins with the replica's capacity (R242). -/
def Permit.batch (p : Permit) (mb cap : Nat) : PermitMb := (p.mbs.find? (fun m => m.mb == mb)).getD ⟨mb, cap, 0, false, 0⟩

namespace State

/-- The state with the routing job of a die changed. -/
def updRoute (s : State) (die : Nat) (f : RouteJob → RouteJob) : State :=
  s.updDie die (fun d => { d with route := d.route.map f })

/-- The layer that a die's routing job runs, by its gate state block (log 20). -/
def layerOf (s : State) (die : Nat) : Nat :=
  match (s.die die).route with
  | some r => r.gate
  | none => 0

/-- A replica of the layer that a die runs. -/
def permit (s : State) (die expert rep : Nat) : Option Permit :=
  (s.die die).permits.find? (fun p => p.gate == s.layerOf die && p.expert == expert && p.rep == rep)

/-- The state with a replica of the layer that a die runs changed, or entered. -/
def updPermit (s : State) (die expert rep : Nat) (f : Permit → Permit) : State :=
  let g := s.layerOf die
  s.updDie die (fun d =>
    if d.permits.any (fun p => p.gate == g && p.expert == expert && p.rep == rep) then
      { d with permits := d.permits.map (fun p => if p.gate == g && p.expert == expert && p.rep == rep then f p else p) }
    else { d with permits := d.permits ++ [f (Permit.init g expert rep)] })

/-- The state with a request for a bin posted to its receiver (R242): to a die of this device, or out (log 9). -/
def postRequest (s : State) (die : Nat) (r : RouteJob) (expert rep count tid : Nat) : State :=
  let s := s.updRoute die (fun r => { r with reqs := r.reqs ++ [⟨expert, rep, count, none, false, tid, false⟩] })
  let dest := r.receiver expert rep
  if dest.1 = s.devId then
    s.post [.permitRequest dest.2 expert rep (cardMb r.card) r.seq r.round (cfgRank r.cfg) count]
  else s.send (.engine dest.1 dest.2 1 [expert, rep, cardMb r.card, r.seq, r.round, cfgRank r.cfg, count])

/-! ### Rounds (R241) -/

/-- The threads of a die's Chamois cores. -/
def threadsOf (die : Nat) : List Nat := (List.range 128).map (fun u => 2048 + die * 128 + u)

/-- Is the Chamois core of a thread ready (R299)? -/
def chamoisReady (s : State) (tid : Nat) : Bool := (s.ready.getD 10 0).getLsbD (coreOf tid - 512)

/-- A thread as it starts a round (R240, R241). -/
def chamoisThread (r : RouteJob) (j : Job) (die u : Nat) : Strand :=
  let a := sorterArrays die r
  let w (n : Nat) : Word := BitVec.ofNat 64 n
  let regs := { Regs.init with
    s := ((Regs.init.s.set 1 (w u)).set 2 (w r.round)).set 3 (w (cardNtok r.card))
    a := ((Regs.init.a.set 0 (w a.2)).set 1 (w a.1)).set 2 (w (cfgPlace r.cfg)) }
  { Strand.init with run := .ready, regs, ptroot := w j.root }

/-- Have all threads of a die closed their requests? -/
def allClosed (r : RouteJob) (die : Nat) : Bool := (threadsOf die).all (fun t => r.closed.contains t)

/-- Have all threads of a die halted, with every store they made visible (R116, R241)? -/
def allHalted (s : State) (die : Nat) : Bool :=
  (threadsOf die).all (fun t => !s.chamoisReady t || (((s.strand t).run == .halted || (s.strand t).run == .off) &&
    (s.strand t).unseen.isEmpty))

/-- The rows of a bin that its receiver granted (R242): the first of its records. -/
def grantedRows (r : RouteJob) (q : BinReq) : List RRec := (r.bin q.expert q.rep).take (q.granted.getD 0)

/-- The row record of a choice of this die: combine slot, then weight (R245, R246). -/
def rowRecord (r : RouteJob) (x : RRec) (wgt : Nat) : Nat :=
  (cfgRank r.cfg * 2 ^ 20 + (r.index x.token * cfgK r.cfg + x.crank) % 2 ^ 20) % 2 ^ 32 + wgt % 2 ^ 32 * 2 ^ 32

/-- The payload row of a choice (R227). -/
def payloadRow (s : State) (die : Nat) (j : Job) (r : RouteJob) (x : RRec) : Nat :=
  let n := cfgXrowb r.cfg
  s.readJob die j (n / 64 + 2) (cardXbuf r.card + r.index x.token * n) n

/-- The rows before those of a sender in a round (R245): the grants of earlier rounds, and of lower ranks. -/
def rowsBefore (p : Permit) (round rank : Nat) : Nat :=
  (p.grants.filter (fun g => decide (g.1 < round) || (g.1 == round && decide (g.2.1 < rank)))).foldl
    (fun a g => a + g.2.2) 0

/-- The state with rows placed in a bin (R245): row records, then payload rows, from row `base` on. -/
def placeRows (s : State) (area : Nat × Nat × Nat × Bool) (xrowb base : Nat) (rows : List (Nat × Nat)) : State :=
  rows.zipIdx.foldl (fun s x =>
    let s := s.publish none (area.2.1 + 8 * (base + x.2)) 8 x.1.1 255
    (List.range (xrowb / 64)).foldl (fun s i =>
      s.publish none (area.2.2.1 + xrowb * (base + x.2) + 64 * i) 64 (bitsN x.1.2 (512 * i) 512) (2 ^ 64 - 1)) s) s

/-- The state with the rows of a bin sent to its receiver (R241, R245). Where a store has left the job's scores undefined, so are
the weights that come from them (R231). -/
def emitBin (s : State) (die : Nat) (j : Job) (r : RouteJob) (q : BinReq) : State :=
  let rows := grantedRows r q
  let dest := r.receiver q.expert q.rep
  let s := s.updRoute die (fun r => { r with reqs := r.reqs.map (fun y =>
    if y.expert == q.expert && y.rep == q.rep then { y with emitted := true } else y) })
  let (free, s) := s.orFree r.blind 0
  let wgt (x : RRec) (i : Nat) : Nat := if r.blind then free / 2 ^ (32 * i) else x.wgt
  let data := rows.zipIdx.map (fun x => (rowRecord r x.1 (wgt x.1 x.2), s.payloadRow die j r x.1))
  if rows.isEmpty then s
  else if dest.1 = s.devId then s.post [.binWrite dest.2 q.expert (.rows q.rep r.round (cfgRank r.cfg) data)]
  else s.send (.engine dest.1 dest.2 2 ([q.expert, q.rep, r.round, cfgRank r.cfg] ++ data.flatMap (fun x => [x.1, x.2])))

/-- The state with every granted bin that has not been sent sent (R241). -/
def emitAll (s : State) (die : Nat) (j : Job) (r : RouteJob) : State :=
  (r.reqs.filter (fun q => !q.emitted)).foldl (fun s q => s.emitBin die j r q) s

/-- Is every bin of the group requested and granted? -/
def allGranted (r : RouteJob) : Bool :=
  r.bins.all (fun b => r.reqs.any (fun q => q.expert == b.1 && q.rep == b.2 && q.granted.isSome))

/-- The refused records of a round, by token and choice rank (R242, R243). -/
def refusedOf (r : RouteJob) : List RRec :=
  let l := r.bins.flatMap (fun b => (r.bin b.1 b.2).drop
    ((r.reqs.find? (fun q => q.expert == b.1 && q.rep == b.2)).bind (·.granted) |>.getD 0))
  (List.range (cardNtok r.card)).flatMap (fun i => (List.range (cfgK r.cfg)).flatMap (fun c =>
    l.filter (fun x => r.index x.token == i && x.crank == c)))

/-- The routing job with one refused record given its token's next backup, or dropped (R243). -/
def refuseOne (r : RouteJob) (x : RRec) : RouteJob :=
  let i := r.index x.token
  match decide (r.round < cfgDepth r.cfg), r.backups.getD i [] with
  | true, e :: rest =>
    { r with
      backups := r.backups.insert i rest
      counts := r.counts.insert 2 (r.counts.getD 2 0 + 1)
      refused := r.refused ++ [{ x with expert := e, round := r.round + 1 }] }
  | _, _ =>
    { r with
      counts := r.counts.insert 3 (r.counts.getD 3 0 + 1)
      slots := r.slots.insert (i * cfgK r.cfg + x.crank) ⟨.dropped, 0, []⟩ }

/-- Has every thread of a die halted, and every request of its round been answered (R241)? -/
def settleDue (s : State) (die : Nat) : Bool :=
  match (s.die die).route, s.activeRoute die with
  | some r, some _ => r.started && !r.roundsOver && allClosed r die && allGranted r && s.allHalted die
  | _, _ => false

/-- The state when every thread of a die has halted and every request of the round is answered: the bins leave and the
next round begins, or the rounds are over (R241, R242). -/
def settleRound (s : State) (die : Nat) : State :=
  match (s.die die).route, s.activeRoute die with
  | some r, some j =>
    if !s.settleDue die then s
    else
      let s := s.emitAll die j r
      if cfgDepth r.cfg ≤ r.round then
        s.updRoute die (fun r => { r with roundsOver := true, started := false, wdogFrom := some (s.die die).cycle })
      else
        let next := sortRecords (cfgNexp r.cfg) r.refused
        let s := s.updRoute die (fun r => { r with
          round := r.round + 1, started := false, records := next, refused := [], reqs := [], closed := [] })
        match (s.die die).route with
        | some r => s.writeRound die r
        | none => s
  | _, _ => s

/-- The state when threads of a die have closed: with the last, a zero request for every bin not requested (R241). -/
def closeRound (s : State) (die : Nat) : State :=
  match (s.die die).route with
  | none => s
  | some r =>
    let s := if !allClosed r die then s
      else (r.bins.filter (fun b => !r.reqs.any (fun q => q.expert == b.1 && q.rep == b.2))).foldl
        (fun s b => s.postRequest die r b.1 b.2 0 0) s
    s.settleRound die

/-- May a die's Chamois cores start a round? -/
def roundDue (s : State) (die : Nat) : Bool :=
  match (s.die die).route with
  | some r => !r.place.isEmpty && !r.started && !r.roundsOver && (s.activeRoute die).isSome
  | none => false

end State

/-- CHAMOIS_ROUND_START (R241): every thread of each ready core starts; the others count as closed. -/
def execChamoisRoundStart (die : Nat) (s : State) : Host.Outcome State Fault Refusal :=
  if !s.roundDue die then .next s
  else match (s.die die).route, s.activeRoute die with
    | some r, some j =>
      let dlen := bitsN r.cfg 576 32
      let slen := bitsN r.cfg 608 32
      let s := (List.range 128).foldl (fun s u =>
        let t := 2048 + die * 128 + u
        if s.chamoisReady t then s.setStrand t (State.chamoisThread r j die u) else s) s
      let s := (List.range 16).foldl (fun s c =>
        let n := 512 + die * 16 + c
        if s.chamoisReady (2048 + (n - 512) * 8) then
          (s.updCore n (fun x => { x with dictbase := 0, dictlen := BitVec.ofNat 14 dlen, slen })).reselect
            (2048 + (n - 512) * 8 + 7) (s.die die).cycle
        else s) s
      let s := s.updRoute die (fun r => { r with
        started := true, closed := (State.threadsOf die).filter (fun t => !s.chamoisReady t) })
      .next (s.closeRound die)
    | _, _ => .next s

/-- CHREQ_END (R241), and HALT, which implies it. -/
def execChreqEnd (tid : Nat) (s : State) : Host.Outcome State Fault Refusal :=
  let die := dieOf tid
  .next ((s.updRoute die (fun r => { r with closed := if r.closed.contains tid then r.closed else r.closed ++ [tid] })).closeRound
    die)

/-- CHREQ_REQUEST (R241): clipped to the bin; a request that names no bin of the round, or a second one, is ignored. -/
def execChreqRequest (tid : Nat) (value : Word) (s : State) : Host.Outcome State Fault Refusal :=
  let die := dieOf tid
  let v := value.toNat
  let e := bitsN v 0 10
  let n := bitsN v 16 2
  match (s.die die).route with
  | none => .next s
  | some r =>
    if !r.started || bitsN v 18 2 != r.round || r.closed.contains tid || cfgNexp r.cfg ≤ e ||
        placeNrep (r.place.getD e 0) ≤ n || r.reqs.any (fun q => q.expert == e && q.rep == n) then .next s
    else .next (s.postRequest die r e n (min (bitsN v 32 16) (r.bin e n).length) tid)

/-- CHEMIT (R241): a granted bin of the round is sent early. -/
def execChemit (tid : Nat) (value : Word) (s : State) : Host.Outcome State Fault Refusal :=
  let die := dieOf tid
  let v := value.toNat
  match (s.die die).route, s.activeRoute die with
  | some r, some j =>
    match r.reqs.find? (fun q => q.expert == bitsN v 0 10 && q.rep == bitsN v 16 2) with
    | some q =>
      if bitsN v 18 2 == r.round && q.granted.isSome && !q.emitted then .next (s.emitBin die j r q) else .next s
    | none => .next s
  | _, _ => .next s

/-! ### Grants (R242 to R244) -/

namespace State

/-- The grants of a replica to requests in increasing rank: rank and grant, with what is left (R242). -/
def grantAll : Nat → List PostedReq → List (Nat × Nat) × Nat
  | rem, [] => ([], rem)
  | rem, q :: rest =>
    let g := min q.count rem
    let x := grantAll (rem - g) rest
    ((q.rank, g) :: x.1, x.2)

/-- The state with a grant sent to a rank of a routing job of a die (R242). -/
def sendGrant (s : State) (r : RouteJob) (expert rep rank g : Nat) : State :=
  let e := r.group.getD rank 0
  if e % 4096 = s.devId then s.post [.permitGrant (bitsN e 12 2) expert rep r.round g]
  else s.send (.engine (e % 4096) (bitsN e 12 2) 3 [expert, rep, r.round, g])

/-- The state with a hint record written (R244, R285). -/
def writeHint (s : State) (die : Nat) (r : RouteJob) (expert rep refused : Nat) : State :=
  let rec_ := fields [(0, expert), (16, rep), (24, r.round), (32, cardMb r.card),
    (48, placeCap (r.place.getD expert 0)), (64, refused % 2 ^ 32), (96, s.devId)]
  let clu := die * 16 + bitsN r.cfg 100 4
  let b := bitsN r.cfg 94 6
  (((s.pushFifo clu b (BitVec.ofNat 64 rec_)).pushFifo clu b (BitVec.ofNat 64 (rec_ / 2 ^ 64))).countRoute die 4 1).setIrqs
    (some die) 4

/-- The state at the end of a round: when every replica that a die holds has granted, each whose refusals first exceed
`HINTTH` writes its hint, in increasing expert and replica (R244, R248, log 20). -/
def writeHints (s : State) (die : Nat) : State :=
  match (s.die die).route with
  | none => s
  | some r =>
    let mb := cardMb r.card
    let mine := r.bins.filter (fun b => r.receiver b.1 b.2 == (s.devId, die))
    if cfgHintth r.cfg = 0 || !mine.all (fun b => match s.permit die b.1 b.2 with
        | some p => p.grants.any (fun g => g.1 == r.round)
        | none => false) then s
    else mine.foldl (fun s b => match s.permit die b.1 b.2 with
      | none => s
      | some p =>
        let m := p.batch mb 0
        if m.hinted || m.refused ≤ cfgHintth r.cfg then s
        else (s.updPermit die b.1 b.2 (fun p => { p with mbs := p.mbs.map (fun x =>
          if x.mb == mb then { x with hinted := true } else x) })).writeHint die r b.1 b.2 m.refused) s

/-- The state after a request has come: when every member has posted for the round that this die is in, the replica
grants (R242), and hints may follow (R244). -/
def tryGrant (s : State) (die expert rep : Nat) : State :=
  match (s.die die).route with
  | some r =>
    let mb := cardMb r.card
    let now (q : PostedReq) : Bool :=
      q.expert == expert && q.rep == rep && q.mb == mb && q.seq == r.seq && q.round == r.round
    let posts := (s.die die).posts.filter now
    let n := cfgNrank r.cfg + 1
    if r.place.isEmpty || (List.range n).any (fun k => !posts.any (fun q => q.rank == k)) then s
    else
      let e := r.place.getD expert 0
      let area := binArea e rep (cfgXrowb r.cfg)
      let p := (s.permit die expert rep).getD (Permit.init r.gate expert rep)
      let m := p.batch mb (placeCap e)
      let sorted := (List.range n).filterMap (fun k => posts.find? (fun q => q.rank == k))
      let g := grantAll (if area.2.2.2 then m.rem else 0) sorted
      let given := g.1.foldl (fun a x => a + x.2) 0
      let asked := sorted.foldl (fun a q => a + q.count) 0
      let m' : PermitMb := { m with
        rem := if area.2.2.2 then g.2 else m.rem, refused := m.refused + (asked - given), granted := m.granted + given }
      let q : Permit := { p with
        mbs := p.mbs.filter (fun x => x.mb != mb) ++ [m']
        grants := p.grants ++ g.1.map (fun x => (r.round, x.1, x.2)) }
      let q : Permit := if given = 0 then q else { q with hdr := area.1, recs := area.2.1, key := (mb, r.seq), group := r.group }
      let s := (s.updPermit die expert rep (fun _ => q)).updDie die (fun d => { d with
        posts := d.posts.filter (fun q => !now q) })
      g.1.foldl (fun s x => s.sendGrant r expert rep x.1 x.2) (s.writeHints die)
  | none => s

end State

/-- PERMIT_REQUEST (R242, R244). -/
def execPermitRequest (die expert rep mb seq round rank count : Nat) (s : State) : Host.Outcome State Fault Refusal :=
  let q : PostedReq := ⟨expert, rep, mb, seq, round, rank, count⟩
  let same (x : PostedReq) : Bool :=
    x.expert == expert && x.rep == rep && x.mb == mb && x.seq == seq && x.round == round && x.rank == rank
  let s := s.updDie die (fun d => if d.posts.any same then d else { d with posts := d.posts ++ [q] })
  .next (s.tryGrant die expert rep)

/-- PERMIT_GRANT (R242, R243): with the last grant of a round the refused choices take backups or are dropped. -/
def execPermitGrant (die expert rep round count : Nat) (s : State) : Host.Outcome State Fault Refusal :=
  match (s.die die).route with
  | none => .next s
  | some r =>
    if r.round != round || State.allGranted r then .next s
    else
      let r := { r with reqs := r.reqs.map (fun q =>
        if q.expert == expert && q.rep == rep && q.granted.isNone then { q with granted := some (min count q.count) }
        else q) }
      let r := if State.allGranted r then (State.refusedOf r).foldl State.refuseOne r else r
      let s := s.updDie die (fun d => { d with route := some r })
      .next ((s.finishTokens die).settleRound die)

/-! ### Bins at the receiver (R245) -/

namespace State

/-- Are the rows of every sender at a replica (R245)? -/
def rowsHere (p : Permit) : Bool := p.grants.all (fun g => g.2.2 == 0 || p.here.contains (g.1, g.2.1))

/-- A replica whose bin is complete. -/
def binDue (s : State) (die : Nat) : Option Permit :=
  match (s.die die).route with
  | some r =>
    if !r.roundsOver then none
    else (s.die die).permits.find? (fun p => !p.grants.isEmpty && !p.written && rowsHere p)
  | none => none

/-- The state with the group table and the header of a bin written (R245). -/
def writeBin (s : State) (r : RouteJob) (p : Permit) : State :=
  let e := r.place.getD p.expert 0
  let area := binArea e p.rep (cfgXrowb r.cfg)
  let rows := p.grants.foldl (fun a g => a + g.2.2) 0
  if !area.2.2.2 then s
  else
    let s := (List.range ((placeCap e + 127) / 128)).foldl (fun s n =>
      s.publish none (area.1 + 64 + 32 * n) 32 (fields [(0, min 128 (rows - 128 * n)),
        (32, 128 * n * cfgXrowb r.cfg % 2 ^ 32), (128, 1024 * n)]) (2 ^ 32 - 1)) s
    let seq := s.readMem (area.1 + 4) 4
    let s := s.publish none (area.1 + 8) 56 0 (2 ^ 56 - 1)
    let s := s.publish none area.1 8 (rows + (seq + 1) % 2 ^ 32 * 2 ^ 32) 255
    if r.odd then
      let f := s.takeFree
      f.2.writeMem area.1 (area.2.2.1 - area.1 + placeCap e * cfgXrowb r.cfg) f.1
    else s

/-- The state with the weights of an expert that is not resident copied into the idle staging half before its bin is
used (R105). -/
def streamIn (s : State) (r : RouteJob) (p : Permit) : State :=
  let e := r.place.getD p.expert 0
  let core := (placeRep e p.rep).2.1
  if placePolicy e = 0 || p.resident then s
  else
    let lo := s.residentArea core
    let n := (2 ^ 23 - lo) / 2
    let k := s.core core
    let s := s.stageWeights core (lo + (if k.half then 0 else n)) e (min n (bitsN e 384 32))
    s.updCore core (fun c => { c with half := !c.half })

end State

/-- The replica of a message about a bin. -/
def binRep : BinMsg → Nat
  | .complete n | .rows n _ _ _ => n

/-- BIN_WRITE (R245): a sender's rows are placed by round, rank and token; when all are there and visible, the table and the
header of the bin are written. -/
def execBinWrite (die expert : Nat) (msg : BinMsg) (s : State) : Host.Outcome State Fault Refusal :=
  let rep := binRep msg
  match (s.die die).route, s.permit die expert rep with
  | some r, some p =>
    match msg with
    | .rows _ round rank data =>
      let area := binArea (r.place.getD expert 0) rep (cfgXrowb r.cfg)
      let n := (p.grants.filter (fun g => g.1 == round && g.2.1 == rank)).foldl (fun a g => a + g.2.2) 0
      if p.written || p.here.contains (round, rank) || n = 0 || data.length != n then .next s
      else
        let s := s.placeRows area (cfgXrowb r.cfg) (State.rowsBefore p round rank) data
        .next (s.updPermit die expert rep (fun p => { p with here := p.here ++ [(round, rank)] }))
    | .complete _ =>
      if !r.roundsOver || p.written || p.grants.isEmpty || !State.rowsHere p then .next s
      else
        let s := (s.streamIn r p).writeBin r p
        .next (s.updPermit die expert rep (fun p => { p with written := true }))
  | _, _ => .next s

/-! ### Combine (R246 to R250) -/

/-- A slot with a chunk arrived: full when chunks 0 to n - 1 are in (R246). -/
def CombSlot.put (x : CombSlot) (n c data : Nat) : CombSlot :=
  let mask := x.mask ||| 2 ^ c
  { st := if (List.range n).all (bitN mask) then .full else x.st, mask, chunks := x.chunks.insert c data }

namespace State

/-- The state with the columns of a row taken at a slot of a die's job, or discarded (R246, R247). -/
def takeRow (s : State) (die slot : Nat) (po : Int) (data : Nat) : State :=
  match (s.die die).route with
  | none => s
  | some r =>
    let n := (cfgDout r.cfg + 127) / 128
    match r.slots.find slot with
    | none => s.countRoute die 7 1
    | some x =>
      if po < 0 || po % 128 != 0 || x.st == .empty then s.countRoute die 7 1
      else if x.st == .dropped || n ≤ po.toNat / 128 then s
      else
        let s := s.updRoute die (fun r => { r with slots := r.slots.insert slot (x.put n (po.toNat / 128) data) })
        (s.finishToken die (slot / max 1 (cfgK r.cfg))).routeWord die

/-- The state with a combine send of a core accepted by its home (R150). -/
def sendAccepted (s : State) (core : Nat) : State := s.updCore core (fun c => { c with sends := c.sends - 1 })

end State

/-- COMBINE_SEND (R150, R246, R247): the home takes the row or discards it, and the sender learns that it is accepted. -/
def execCombineSend (die slot : Nat) (po : Int) (msg : CombMsg) (s : State) : Host.Outcome State Fault Refusal :=
  match msg with
  | .accepted core => .next (s.sendAccepted core)
  | .row dev core data =>
    let s := s.takeRow die slot po data
    .next (if dev = s.devId then s.sendAccepted core else s.send (.engine dev (dieOfCore core) 7 [core]))

namespace State

/-- The state with pending slots of a die's job dropped, counted in counter i. -/
def dropSlots (s : State) (die i : Nat) (l : List Nat) : State :=
  match (s.die die).route with
  | none => s
  | some r =>
    let l := l.filter (fun k => match r.slots.find k with | some x => x.st == .pending | none => false)
    let s := (s.updRoute die (fun r => { r with slots := l.foldl (fun m k => m.insert k ⟨.dropped, 0, []⟩) r.slots })).countRoute
      die i l.length
    (l.foldl (fun s k => s.finishToken die (k / max 1 (cfgK r.cfg))) s).routeWord die

/-- Has the watchdog of a die's routing job run out with slots pending (R250)? -/
def wdogDue (s : State) (die : Nat) : Bool :=
  match (s.die die).route with
  | some r => cfgWdog r.cfg != 0 && (match r.wdogFrom with
      | some t => decide (t + cfgWdog r.cfg ≤ (s.die die).cycle)
      | none => false) && r.slots.any (fun p => p.2.st == .pending)
  | none => false

end State

/-- The state with a drop of a strand's ABANDON accepted (R249). -/
def State.dropAccepted (s : State) (sid tag : Nat) : State :=
  s.updStrand sid (fun st => st.onRequest (fun p =>
    if p.sent && p.tag == tag then { p with got := p.got ++ [(p.got.length, 0)] } else p))

/-- COMBINE_DROP (R249): a drop of ABANDON at the home of a slot, if it still runs the job; the strand learns that it is
accepted. -/
def execCombineDrop (die : Nat) (msg : DropMsg) (s : State) : Host.Outcome State Fault Refusal :=
  match msg with
  | .accepted sid tag => .next (s.dropAccepted sid tag)
  | .drop slot mb seq dev sid tag =>
    let s := match (s.die die).route with
      | some r => if cardMb r.card = mb && r.seq = seq then s.dropSlots die 6 [slot] else s
      | none => s
    .next (if dev = s.devId then s.dropAccepted sid tag else s.send (.engine dev (dieOf sid) 8 [sid, tag]))

/-- COMBINE_WATCHDOG (R250). -/
def execCombineWatchdog (die : Nat) (s : State) : Host.Outcome State Fault Refusal :=
  if !s.wdogDue die then .next s
  else match (s.die die).route with
    | some r => .next (s.dropSlots die 5 (r.slots.map (·.1)))
    | none => .next s

/-! ### ABANDON (R249, R333) -/

namespace State

/-- The address of row record i of a bin area, from its header's (R245). -/
def recordVa (p : Permit) (h i : Nat) : Nat := (h + (p.recs - p.hdr) + 8 * i) % 2 ^ 64

/-- Does a member of a bin's group still run the job whose rows it holds, as far as this device sees (R249)? -/
def binOpen (s : State) (p : Permit) : Bool :=
  p.group.any (fun e => e % 4096 != s.devId || (match (s.die (bitsN e 12 2)).route with
    | some r => (cardMb r.card, r.seq) == p.key
    | none => false))

/-- The bin area whose header lies at an address, into which an unretired job has granted rows, and the drops that its rows
ask for (R333): the translations of header and records, the job, and device, die and slot of each; a cause with its address,
where a page is not to be read. -/
def abandonArea (s : State) (h : Nat) : Except (Nat × Nat) (List Xlat × (Nat × Nat) × List (Nat × Nat × Nat)) :=
  let c := s.spaceOf s.cur
  match s.access c .read 8 h with
  | .error e => .error (e, h)
  | .ok (pa, _, .mem a, x) =>
    (match s.dies.toList.findSome? (fun d => d.permits.find? (fun p => p.hdr == a && p.hdr != 0 && s.binOpen p)) with
      | none => .ok ([x], (0, 0), [])
      | some p =>
        (List.range (s.readOwn s.cur pa 4)).foldr (fun i l => match s.access c .read 8 (recordVa p h i), l with
          | .error e, _ => .error (e, recordVa p h i)
          | .ok _, .error e => .error e
          | .ok (pa, _, _, x), .ok (xs, k, ds) =>
            let slot := s.readOwn s.cur pa 4
            let e := p.group.getD (bitsN slot 20 12) 0
            .ok (x :: xs, k, if bitsN slot 20 12 < p.group.length then (e % 4096, bitsN e 12 2, slot % 2 ^ 20) :: ds else ds))
          (.ok ([x], p.key, [])))
  | .ok (_, _, _, x) => .ok ([x], (0, 0), [])

/-- What ABANDON meets (R249, R333): privilege, alignment, a page that is not to be read, then the drops that are not all
accepted. -/
def abandonObs (h : Nat) (s : State) : Option Obstacle :=
  (needKernel 0 s).or (
    if h % 64 != 0 then rollTrap 0x08 h
    else if s.asked (.drops (0, 0) []) then s.askObs (.drops (0, 0) [])
    else match s.abandonArea h with
      | .error e => rollTrap e.1 e.2
      | .ok (_, _, []) => none
      | .ok (_, k, ds) => some (.ask (.drops k ds)))

/-- The state after an ABANDON whose drops are accepted: the translations it made are kept (R90). -/
def effAbandon (h : Nat) (s : State) : State :=
  match s.abandonArea h with
  | .ok (xs, _, _) => (xs.foldl (fun s x => s.commitXlat (s.spaceOf s.cur) .read x) s).endRequest
  | .error _ => s.endRequest

end State

/-- ABANDON (R249, R333). -/
def execAbandon (ab : BitVec 4) (s : State) : Host.Outcome State Fault Refusal :=
  .next (s.gate (fun s => s.abandonObs (s.me.regs.ra ab).toNat) (State.effAbandon (s.me.regs.ra ab).toNat))

/-- The first thing that routing has ready. -/
def State.routeDue (s : State) : Option Instr :=
  (List.range 4).findSome? (fun d =>
    if s.routeStartDue d then some (Instr.routingJobStart d)
    else if s.settleDue d then some (Instr.chreqEnd (2048 + d * 128))
    else if s.roundDue d then some (Instr.chamoisRoundStart d)
    else if s.wdogDue d then some (Instr.combineWatchdog d)
    else (s.binDue d).map (fun p => Instr.binWrite d p.expert (.complete p.rep)))

end Sys2Proof.Machine
end

