-- ==== Sys2Proof/Machine/Impala.lean ====
section
/-! DEFINITION. Collective programs: slots, work entries, triggers, steps and chunks (R251 to R262, R349, R352, R357). -/

namespace Sys2Proof.Machine

/-! ### Steps (R252, R253) -/

def stepOp (w : Nat) : Nat := bitsN w 124 4
def stepXor (w : Nat) : Bool := bitN w 123
def stepPeer (w : Nat) : Nat := bitsN w 111 12
def stepPeer2 (w : Nat) : Nat := bitsN w 99 12
def stepNp (w : Nat) : Nat := bitsN w 96 3
def stepRop (w : Nat) : Nat := bitsN w 94 2
def stepSb (w : Nat) : Nat := bitsN w 92 2
def stepDb (w : Nat) : Nat := bitsN w 90 2
def stepTgt (w : Nat) : Nat := bitsN w 84 6
def stepCtr (w : Nat) : Nat := bitsN w 82 2

/-- The bits of a step that its operation uses (R252, R254). -/
def stepUses (op : Nat) : Nat :=
  let f (l : List (Nat × Nat)) : Nat := l.foldl (fun a p => a + (2 ^ p.2 - 1) * 2 ^ p.1) 0
  let chunk := [(80, 2), (72, 8), (56, 16), (40, 16)]
  (15 * 2 ^ 124) + (match op with
    | 1 => f ([(123, 1), (111, 12), (96, 3), (92, 2)] ++ chunk)
    | 2 => f ([(123, 1), (111, 12), (96, 3), (94, 2), (90, 2)] ++ chunk)
    | 3 => f ([(123, 1), (111, 12), (99, 12), (94, 2), (90, 2)] ++ chunk)
    | 4 => f ([(92, 2), (90, 2)] ++ chunk)
    | 6 => f [(84, 6), (82, 2)]
    | _ => 0)

/-- Does step i hold no reserved value (R251, R252, R254)? -/
def stepOk (i w : Nat) : Bool :=
  let op := stepOp w
  decide (op ≤ 6) && w &&& stepUses op == w && (op != 6 || decide (stepTgt w < i)) &&
  (!(op == 1 || op == 2) || !stepXor w || stepNp w == 0) && (op != 2 || stepRop w != 0 || stepNp w == 0) &&
  (op != 3 || stepRop w != 0)

/-- The ranks that a peer field names, those absent left out (R252, R253). -/
def peersOf (xor : Bool) (peer np rank n : Nat) : List Nat :=
  if xor then (if Nat.xor rank peer < n then [Nat.xor rank peer] else [])
  else (List.range (np + 1)).map (fun k => (rank + peer + k) % n)

/-! ### The card (R256) -/

def wRank (c : Nat) : Nat := bitsN c 640 12
def wRanks (c : Nat) : Nat := bitsN c 652 12 + 1
def wLine (c : Nat) : Nat := bitsN c 664 4
def wDis (c : Nat) : Bool := bitN c 668
def wEntry (c : Nat) : Nat := bitsN c 669 5
def wSlot (c : Nat) : Nat := bitsN c 674 4
def wDt (c : Nat) : Nat := bitsN c 678 3
def wArrival (c : Nat) : Bool := bitN c 681
def wWin (c : Nat) : Nat := bitsN c 682 6
def wCh (c : Nat) : Nat := bitsN c 690 14 * 128
def wNch (c : Nat) : Nat := bitsN c 704 16
def wLcnt (c i : Nat) : Nat := max 1 (bitsN c (720 + 16 * i) 16)
def wRuns (c : Nat) : Nat := bitsN c 784 16
def wTval (c : Nat) : Nat := bitsN c 800 32
def wTaddr (c : Nat) : Nat := bitsN c 832 64
def wBase (c b : Nat) : Nat := bitsN c (128 * b) 64
/-- The completion word of a work entry. -/
def wWord (c : Nat) : Nat × Nat := (bitsN c 899 61 * 8, bitsN c 960 64)
def wSpan (c b : Nat) : Nat := bitsN c (128 * b + 64) 32 * 128
def wStride (c b : Nat) : Int := sintN 32 (bitsN c (128 * b + 96) 32) * 128

/-- Does a step of a program name a base as source, or as destination (R254, R257)? -/
def namesBase (prog : List Nat) (dst : Bool) (b : Nat) : Bool :=
  prog.any (fun w =>
    let op := stepOp w
    if dst then (op == 2 || op == 3 || op == 4) && stepDb w == b else (op == 1 || op == 4) && stepSb w == b)

/-- The declared regions of a work entry (R257). -/
def impalaRegions (card : Nat) (prog : List Nat) : List (Bool × Nat × Nat) :=
  ((List.range 4).flatMap (fun b =>
    (if namesBase prog false b then [(false, wBase card b, wSpan card b)] else []) ++
    (if namesBase prog true b then [(true, wBase card b, wSpan card b)] else []))).filter (fun r => r.2.2 != 0)

/-- The distinct ranks that a program receives from (R257). -/
def recvPeers (card : Nat) (prog : List Nat) : List Nat :=
  (prog.flatMap (fun w => if stepOp w == 2 || stepOp w == 3
    then peersOf (stepXor w) (stepPeer w) (if stepOp w == 2 then stepNp w else 0) (wRank card) (wRanks card)
    else [])).foldl (fun l x => if l.contains x then l else l ++ [x]) []

/-- Is a number a power of two? -/
def isPow2 (n : Nat) : Bool := n != 0 && 2 ^ Nat.log2 n == n

/-- Do the masks rise from step to step? -/
def rising : List Nat → Bool
  | x :: y :: rest => decide (x < y) && rising (y :: rest)
  | _ => true

/-- The rule of fixed order (R261). -/
def fixedOk (card : Nat) (prog : List Nat) : Bool :=
  let red := prog.filter (fun w => (stepOp w == 2 && stepRop w != 0) || stepOp w == 3)
  wArrival card || (isPow2 (wRanks card) &&
    red.all (fun w => stepXor w && stepNp w == 0 && isPow2 (stepPeer w)) && rising (red.map stepPeer))

/-- Is every field of the card in its range (R256, R257)? -/
def impalaCardOk (card : Nat) : Bool :=
  let ok (v lo hi : Nat) : Bool := decide (lo ≤ v) && decide (v ≤ hi)
  ok (wNch card) 1 65535 && ok (bitsN card 690 14) 1 8192 && ok (wWin card) 1 32 && decide (wDt card ≤ 3) &&
  ok (bitsN card 560 6) 1 63 && decide (bitsN card 566 6 + bitsN card 560 6 ≤ 64) && wTaddr card % 8 == 0 &&
  decide (wRank card < wRanks card)

/-! ### CLOAD (R251, R352) -/

namespace State

/-- The image of CLOAD: its steps, or why they are not at hand (R251). -/
def cloadImage (s : State) (va slot : Nat) : Except InputErr (List Nat) :=
  let c := s.spaceOf s.cur
  if va % 64 != 0 then .error (.bad 0x08 va)
  else match s.readSub c va 16 with
    | .error e => .error e
    | .ok h =>
      let n := h % 128
      if n = 0 || 64 < n || (s.die (dieOf s.cur)).ientries.any (fun e => wSlot e.2.card == slot) then .error (.bad 0x12 64)
      else match s.readSub c (va + 16) (16 * n) with
        | .error e => .error e
        | .ok img =>
          let l := (List.range n).map (fun i => bitsN img (128 * i) 128)
          match (List.range n).find? (fun i => !stepOk i (l.getD i 0)) with
          | some i => .error (.bad 0x12 i)
          | none => .ok l

end State

/-- CLOAD (R251, R352). -/
def execCload (ap : BitVec 4) (sn : BitVec 6) (s : State) : Host.Outcome State Fault Refusal :=
  .next (s.gate (fun s => match s.cloadImage (s.me.regs.ra ap).toNat ((s.me.regs.rs sn).toNat % 16) with
      | .error e => e.obstacle s
      | .ok _ => none)
    (fun s =>
      let slot := (s.me.regs.rs sn).toNat % 16
      match s.cloadImage (s.me.regs.ra ap).toNat slot with
      | .error _ => s
      | .ok l =>
        (s.touchSub (s.spaceOf s.cur) (s.me.regs.ra ap).toNat (16 + 16 * l.length)).updDie (dieOf s.cur)
          (fun d => { d with islots := d.islots.insert slot l })))

/-! ### CARM and CTRIG (R256 to R258, R349, R357) -/

namespace State

/-- A work entry of a die. -/
def wentry (s : State) (die e : Nat) : Option WorkEntry := (s.die die).ientries.find e

/-- The state with a work entry changed. -/
def updEntry (s : State) (die e : Nat) (f : WorkEntry → WorkEntry) : State :=
  s.updDie die (fun d => { d with ientries := d.ientries.map (fun p => if p.1 == e then (p.1, f p.2) else p) })

/-- The card of CARM, or why it is not at hand (R256, R257). -/
def carmCard (s : State) (va : Nat) : Except InputErr Nat :=
  if va % 64 != 0 then .error (.bad 0x08 va) else s.readSub (s.spaceOf s.cur) va 128

/-- The program of a card that arms and its group, or why they are not at hand (R257). -/
def carmInput (s : State) (card : Nat) : Except InputErr (List Nat × List Nat) :=
  let die := dieOf s.cur
  let prog := (s.die die).islots.getD (wSlot card) []
  if (s.wentry die (wEntry card)).isSome || prog.isEmpty || !impalaCardOk card || !fixedOk card prog ||
      decide (bitsN card 560 6 * 2 ^ 19 < wWin card * wCh card * (recvPeers card prog).length) ||
      !((List.range (bitsN card 560 6)).all (fun i =>
        s.bankFits (die * 16 + bitsN card 572 4, bitsN card 566 6 + i, .scratchpad))) then .error (.bad 0x12 (wEntry card))
  else match s.readSub (s.spaceOf s.cur) (bitsN card 576 64) (2 * wRanks card) with
    | .error e => .error e
    | .ok g => .ok (prog, (List.range (wRanks card)).map (fun i => bitsN g (16 * i) 16))

/-- What CARM meets (R257, R349). -/
def carmObs (spec : Bool) (va : Nat) (s : State) : Option Obstacle :=
  match s.carmCard va with
  | .error e => e.meets spec s
  | .ok card =>
    if wDis card then subObs spec [] [] s
    else match s.carmInput card with
      | .error e => e.meets spec s
      | .ok (prog, _) => subObs spec (impalaRegions card prog) (impalaRegions card prog) s

/-- The state with an entry armed (R256). -/
def armEntry (s : State) (die card job : Nat) (group : List Nat) : State :=
  let w : WorkEntry :=
    { card, job, group, run := 0, fired := 0, pc := none, ctr := [0, 0, 0, 0], disarm := false, outstanding := []
      taken := [] }
  s.updDie die (fun d => { d with ientries := d.ientries.insert (wEntry card) w })

/-- The state with an entry freed and its locks released (R258). -/
def freeEntry (s : State) (die e : Nat) : State :=
  match s.wentry die e with
  | none => s
  | some w => (s.updDie die (fun d => { d with ientries := SMap.erase d.ientries e })).dropJob w.job

/-- The state with an entry to be disarmed after its current run (R256, R258). -/
def disarmEntry (s : State) (die e : Nat) : State :=
  match s.wentry die e with
  | none => s
  | some w => if w.pc.isSome then s.updEntry die e (fun w => { w with disarm := true }) else s.freeEntry die e

/-- The state with the line t fired (R258). -/
def fireLine (s : State) (die t : Nat) : State :=
  s.updDie die (fun d => { d with ientries := d.ientries.map (fun p =>
    if wTaddr p.2.card == 0 && wLine p.2.card == t then (p.1, { p.2 with fired := p.2.fired + 1 }) else p) })

/-- The state after CARM, or with its command in the commit buffer (R133, R273). -/
def effCarm (spec : Bool) (va : Nat) (s : State) : State :=
  match s.carmCard va with
  | .error e => s.submitFailed e noWord
  | .ok card =>
    let die := dieOf s.cur
    let late := spec || s.ownStores
    let input := s.carmInput card
    let s := s.touchSub (s.spaceOf s.cur) va 128
    if wDis card then (if late then s.addCommit spec .dev 2 [0, card] else s.disarmEntry die (wEntry card))
    else match input with
    | .error e => s.submitFailed e (wWord card)
    | .ok (prog, group) =>
      let s := s.touchSub (s.spaceOf s.cur) (bitsN card 576 64) (2 * wRanks card)
      let id := s.nextJob
      let r := impalaRegions card prog
      let f := (s.subFault r).map (fun f => State.failValue f.1 f.2)
      let scope := s.subScope r
      let s := s.enterJob die .impala 0 late s.me.ptroot.toNat s.me.priv s.cur r [card] (wWord card) f
      let s := match s.job id with
        | some j => s.refreshBanks j
        | none => s
      if late then s.addCommit spec scope 2 ([id, card] ++ group) else s.armEntry die card id group

end State

/-- CARM (R256, R257, R349). -/
def execCarm (spec : Bool) (ac : BitVec 4) (s : State) : Host.Outcome State Fault Refusal :=
  .next (s.gate (fun s => s.carmObs spec (s.me.regs.ra ac).toNat) (fun s => s.effCarm spec (s.me.regs.ra ac).toNat))

/-- CTRIG (R258, R357). -/
def execCtrig (spec : Bool) (t : BitVec 4) (s : State) : Host.Outcome State Fault Refusal :=
  .next (s.gate (fun s =>
      if spec then (if s.commitFull then some .hold else none)
      else if s.releaseHeld s.cur .dev then some .hold else none)
    (fun s => if spec || s.ownStores then s.addCommit spec .dev 1 [t.toNat] else s.fireLine (dieOf s.cur) t.toNat))

/-! ### Runs -/

namespace State

/-- The current step of a work entry, if it has a run. -/
def stepAt (s : State) (die : Nat) (w : WorkEntry) : Option Nat :=
  w.pc.bind (fun i => ((s.die die).islots.getD (wSlot w.card) [])[i]?)

/-- The chunk that a step works on (R253). -/
def chunkOf (w : WorkEntry) (step : Nat) : Nat :=
  let i := w.ctr.getD (bitsN step 80 2) 0
  ((sintN 16 (bitsN step 40 16) + sintN 8 (bitsN step 72 8) * i + sintN 16 (bitsN step 56 16) * wRank w.card) %
    (wNch w.card : Int)).toNat

/-- The address of a chunk of a base, if it lies in the declared region (R253, R257). -/
def chunkVa (w : WorkEntry) (b j : Nat) : Except Nat Nat :=
  let a := (wBase w.card b : Int) + wStride w.card b * w.run + (j * wCh w.card : Nat)
  if (wBase w.card b : Int) ≤ a && a + wCh w.card ≤ (wBase w.card b + wSpan w.card b : Nat) then .ok a.toNat
  else .error (a % 2 ^ 64).toNat

/-- The state with a run stopped by a step fault (R260). -/
def failRun (s : State) (w : WorkEntry) (va : Nat) : State :=
  match s.job w.job with
  | some j => s.failJob j (State.failValue 0x12 va)
  | none => s

/-- The state with a chunk sent to a rank (R254, R255): to a die of this device, or out (log 9). -/
def sendChunk (s : State) (die e : Nat) (w : WorkEntry) (rank j data : Nat) : State :=
  let g := w.group.getD rank 0
  let here := g % 4096 == s.devId
  let src := s.devId + die % 4 * 2 ^ 12
  let s := s.updEntry die e (fun x => { x with
    taken := x.taken ++ [rank], outstanding := x.outstanding ++ [(w.run, rank, j, here)] })
  if here then s.post [.chunkArrival (bitsN g 12 2) e w.run (wRank w.card) j (.bytes src rank data)]
  else s.send (.engine (g % 4096) (bitsN g 12 2) 5 [e, w.run, wRank w.card, j, src, rank, data])

/-- The chunk that waits for a step of an entry from one of some ranks (R253). -/
def waiting (s : State) (die e : Nat) (w : WorkEntry) (ranks : List Nat) (j : Nat) : Option Chunk :=
  (s.die die).staged.find? (fun c => c.entry == e && c.run == w.run && c.chunk == j && ranks.contains c.rank)

/-- Is an outstanding chunk the one of a run to a rank? -/
def isChunk (run rank chunk : Nat) (o : Nat × Nat × Nat × Bool) : Bool := o.1 == run && o.2.1 == rank && o.2.2.1 == chunk

/-- An entry with a chunk that it has sent consumed at its receiver (R255): of several with one tag, the first. -/
def chunkConsumed (run rank chunk : Nat) (w : WorkEntry) : WorkEntry :=
  { w with outstanding := w.outstanding.eraseP (isChunk run rank chunk) }

/-- An entry with a chunk that it has sent acknowledged by its receiver (R254): of several with one tag, the first that is not. -/
def chunkAcked (run rank chunk : Nat) (w : WorkEntry) : WorkEntry :=
  match w.outstanding.findIdx? (fun o => isChunk run rank chunk o && !o.2.2.2) with
  | some i => { w with outstanding := w.outstanding.modify i (fun o => (o.1, o.2.1, o.2.2.1, true)) }
  | none => w

/-- The state with a chunk consumed: gone from staging, and no longer outstanding at its sender (R255). -/
def consume (s : State) (die e : Nat) (w : WorkEntry) (c : Chunk) : State :=
  let g := w.group.getD c.rank 0
  let s := s.updDie die (fun d => { d with staged := d.staged.erase c })
  let s := s.updEntry die e (fun w => { w with taken := w.taken ++ [c.rank] })
  if g % 4096 = s.devId then
    s.updEntry (bitsN g 12 2) e (chunkConsumed w.run (wRank w.card) c.chunk)
  else s.send (.engine (g % 4096) (bitsN g 12 2) 6 [e, w.run, wRank w.card, c.chunk])

/-- The state with a run moved to its next step. -/
def stepOn (s : State) (die e : Nat) : State :=
  s.updEntry die e (fun w => { w with pc := w.pc.map (· + 1), taken := [] })

end State

/-- One element of a reduction (R259): DT, ROP, both patterns. -/
def reduceElem (dt rop x y : Nat) : Nat :=
  let t : Ty := [Ty.f32, .bf16, .i32, .n32].getD dt .f32
  if dt < 2 then
    if rop = 1 then addRne t x y
    else
      let a := readFloat t x
      let b := readFloat t y
      if a.isNaN || b.isNaN then canonNaN t
      else (roundTo t .rne false 0 (if rop = 2 then maxNum a b else minNum a b)).1
  else
    let a := intOf t x
    let b := intOf t y
    wrapTy t (if rop = 1 then a + b else if rop = 2 then max a b else min a b)

/-- n elements of w bits reduced (R259). -/
def reduceChunk (dt rop w : Nat) : Nat → Nat → Nat → Nat
  | 0, _, _ => 0
  | n + 1, x, y => reduceElem dt rop (x % 2 ^ w) (y % 2 ^ w) + 2 ^ w * reduceChunk dt rop w n (x / 2 ^ w) (y / 2 ^ w)

/-- Two chunks of n bytes reduced. -/
def reduceBytes (dt rop n x y : Nat) : Nat :=
  let w := if dt = 1 then 16 else 32
  reduceChunk dt rop w (8 * n / w) x y

namespace State

/-- What a step needs read at an address before it may act: nothing more, lines of another device, or poison (R290). -/
def stepNeeds (s : State) (die : Nat) (j : Job) (va n : Nat) : List (Nat × Nat) := s.remoteLines die j va n

/-- The step of an entry with the memory it reads in hand: `act` on the chunk read; or the lines asked for; or the run
failed on poisoned data (R290). -/
def withChunk (s : State) (die : Nat) (w : WorkEntry) (va : Nat) (act : Nat → State → State) : State :=
  match s.job w.job with
  | none => s
  | some j =>
    let n := wCh w.card
    match s.remoteLines die j va n with
    | [] =>
      match s.lockedPa die j.id va with
      | some pa =>
        if !s.isRemote pa && s.poisoned (pa % 2 ^ 52) n then s.failJob j (State.failValue 0x3F va)
        else (act (s.readJob die j (n / 64 + 2) va n) s).updJob j.id (fun j => { j with fetched := [] })
      | none => s
    | l => if s.jobOut j.id then s else s.fetchLines die j l

/-- The peers of a step (R252). -/
def stepPeers (w : WorkEntry) (step : Nat) : List Nat :=
  peersOf (stepXor step) (stepPeer step) (if stepOp step = 3 then 0 else stepNp step) (wRank w.card) (wRanks w.card)

/-- Has an entry room for another outstanding chunk (R255)? -/
def windowOpen (w : WorkEntry) : Bool := decide (w.outstanding.length < wWin w.card)

/-- The state after a SEND step of an entry (R254): one more chunk handed over, or the step done. -/
def doSend (s : State) (die e : Nat) (w : WorkEntry) (step : Nat) : State :=
  let j := chunkOf w step
  match (stepPeers w step).find? (fun p => !w.taken.contains p) with
  | none => s.stepOn die e
  | some p =>
    match chunkVa w (stepSb step) j with
    | .error a => s.failRun w a
    | .ok va => if !windowOpen w then s else s.withChunk die w va (fun v s => s.sendChunk die e w p j v)

/-- The state with a received chunk taken into DB (R254): stored, or reduced. -/
def takeChunk (s : State) (die e : Nat) (w : WorkEntry) (step : Nat) (c : Chunk) : State :=
  let n := wCh w.card
  match chunkVa w (stepDb step) c.chunk with
  | .error a => s.failRun w a
  | .ok va =>
    if stepRop step = 0 then (s.storeBytes die w.job n va n c.data).consume die e w c
    else s.withChunk die w va (fun v s =>
      (s.storeBytes die w.job n va n (reduceBytes (wDt w.card) (stepRop step) n v c.data)).consume die e w c)

/-- The state after a RECV step: one more chunk taken, or the step done (R254, R262). -/
def doRecv (s : State) (die e : Nat) (w : WorkEntry) (step : Nat) : State :=
  let left := (stepPeers w step).filter (fun p => !w.taken.contains p)
  if left.isEmpty then s.stepOn die e
  else match s.waiting die e w left (chunkOf w step) with
    | none => s
    | some c => s.takeChunk die e w step c

/-- The peer that an RRS step sends to (R252). -/
def rrsPeer (w : WorkEntry) (step : Nat) : List Nat :=
  peersOf (stepXor step) (stepPeer2 step) 0 (wRank w.card) (wRanks w.card)

/-- The state after an RRS step: the chunk reduced, then the result sent (R254). -/
def doRrs (s : State) (die e : Nat) (w : WorkEntry) (step : Nat) : State :=
  let j := chunkOf w step
  let from_ := stepPeers w step
  if from_.all (fun p => w.taken.contains p) then
    match rrsPeer w step with
    | [] => s.stepOn die e
    | p :: _ =>
      if !windowOpen w then s
      else match chunkVa w (stepDb step) j with
        | .error a => s.failRun w a
        | .ok va => s.withChunk die w va (fun v s => (s.sendChunk die e w p j v).stepOn die e)
  else match s.waiting die e w from_ j with
    | none => s
    | some c => s.takeChunk die e w step c

/-- The state after a COPY step (R254). -/
def doCopy (s : State) (die e : Nat) (w : WorkEntry) (step : Nat) : State :=
  let j := chunkOf w step
  match chunkVa w (stepSb step) j, chunkVa w (stepDb step) j with
  | .error a, _ => s.failRun w a
  | _, .error a => s.failRun w a
  | .ok a, .ok b => s.withChunk die w a (fun v s => (s.storeBytes die w.job (wCh w.card) b (wCh w.card) v).stepOn die e)

/-- The state after a LOOP step (R254). -/
def doLoop (s : State) (die e : Nat) (w : WorkEntry) (step : Nat) : State :=
  let c := stepCtr step
  let i := w.ctr.getD c 0
  if i + 1 < wLcnt w.card c then s.updEntry die e (fun w => { w with ctr := w.ctr.set c (i + 1), pc := some (stepTgt step) })
  else s.updEntry die e (fun w => { w with ctr := w.ctr.set c 0, pc := w.pc.map (· + 1) })

/-- The state after the end of a run (R258): the completion value; the entry frees or waits for its next trigger. -/
def doEnd (s : State) (die e : Nat) (w : WorkEntry) : State :=
  match s.job w.job with
  | none => s
  | some j =>
    let s := (s.settleJob j).writeJobCw j (j.cwVal + w.run + 1)
    if w.run + 1 = wRuns w.card || w.disarm then s.freeEntry die e
    else s.updEntry die e (fun w => { w with run := w.run + 1, pc := none, taken := [] })

/-- The event of the step that an entry is at; a run past its last step ends (R254). -/
def stepEvent (s : State) (die e : Nat) (w : WorkEntry) : Option Instr :=
  match w.pc, s.stepAt die w with
  | none, _ => none
  | some _, none => some (.impalaEnd die e)
  | some _, some step =>
    match stepOp step with
    | 1 => some (.impalaSend die e)
    | 2 => some (.impalaRecv die e)
    | 3 => some (.impalaRrs die e)
    | 4 => some (.impalaCopy die e)
    | 5 => some (.impalaWait die e)
    | 6 => some (.impalaLoop die e)
    | _ => some (.impalaEnd die e)

/-- A step of an entry, if its event is the one given and the entry's Impala is ready (R299). -/
def onStep (s : State) (die e : Nat) (i : Instr) (f : WorkEntry → Nat → State → State) : State :=
  match s.wentry die e with
  | none => s
  | some w =>
    if s.stepEvent die e w = some i && (s.ready.getD 9 0).getLsbD (36 + die % 4) then f w ((s.stepAt die w).getD 0) s
    else s

/-- May an entry start its next run (R258)? Its job's edges are satisfied (R134). -/
def runDue (s : State) (w : WorkEntry) : Bool :=
  w.pc.isNone && decide (w.run < w.fired) && (match s.job w.job with
    | some j => j.edges.isEmpty && j.failed.isNone
    | none => false)

/-- Does an entry wait for its trigger word (R258)? -/
def wordWaits (w : WorkEntry) : Bool := wTaddr w.card != 0 && w.pc.isNone && decide (w.fired ≤ w.run)

/-- The trigger word of an entry (R258): the 8 bytes here, the line that another device has sent, or the physical address of
the line to ask for. -/
def triggerWord (s : State) (die : Nat) (w : WorkEntry) : Except Nat Nat :=
  match s.job w.job with
  | none => .ok 0
  | some j => match s.access (jobSpace j.root j.priv die) .read 8 (wTaddr w.card) with
    | .ok (_, _, .mem a, _) => .ok (s.engineRead j.id a 8)
    | .ok (_, _, .mmio off, _) => .ok (s.mmioRead off 8)
    | .ok (pa, _, .remote, _) => (match j.fetched.find (wTaddr w.card / 64) with
      | some l => .ok (bitsN l (8 * (wTaddr w.card % 64)) 64)
      | none => .error (pa / 64 * 64))
    | _ => .ok 0

/-- Does the trigger word of an entry fire for its next run (R258)? -/
def wordFires (s : State) (die : Nat) (w : WorkEntry) : Bool :=
  wordWaits w && (match s.triggerWord die w with
    | .ok v => decide (wTval w.card + w.run ≤ v)
    | .error _ => false)

/-- Has a line to be asked for, or one that did not fire to be given up, for the trigger word of an entry? -/
def wordPolls (s : State) (die : Nat) (w : WorkEntry) : Bool :=
  wordWaits w && !s.jobOut w.job && (match s.triggerWord die w with
    | .ok _ => (s.job w.job).any (fun j => !j.fetched.isEmpty)
    | .error _ => true)

/-- The state after the trigger word of an entry has been looked at in vain: its line is asked for again (R258). -/
def pollWord (s : State) (die : Nat) (w : WorkEntry) : State :=
  let s := s.updJob w.job (fun j => { j with fetched := [] })
  match s.triggerWord die w with
  | .error pa => s.engineRequest die w.job pa (2 ^ 65 + wTaddr w.card / 64 * 64) 1 6 0 0
  | .ok _ => s

end State

/-- WORD_TRIGGER (R258): the word fires, or its line is read again where another device holds it. -/
def execWordTrigger (die entry : Nat) (s : State) : Host.Outcome State Fault Refusal :=
  match s.wentry die entry with
  | some w =>
    if s.wordFires die w then
      .next ((s.updJob w.job (fun j => { j with fetched := [] })).updEntry die entry (fun w => { w with fired := w.run + 1 }))
    else if s.wordPolls die w then .next (s.pollWord die w)
    else .next s
  | none => .next s

/-- IMPALA_RUN_START (R254, R258): counters start at 0. -/
def execImpalaRunStart (die entry : Nat) (s : State) : Host.Outcome State Fault Refusal :=
  match s.wentry die entry with
  | some w => if s.runDue w
      then .next (s.updEntry die entry (fun w => { w with pc := some 0, ctr := [0, 0, 0, 0], taken := [] })) else .next s
  | none => .next s

/-- IMPALA_SEND (R254, R255). -/
def execImpalaSend (die entry : Nat) (s : State) : Host.Outcome State Fault Refusal :=
  .next (s.onStep die entry (.impalaSend die entry) (fun w step s => s.doSend die entry w step))

/-- IMPALA_RECV (R254, R259, R261, R262). -/
def execImpalaRecv (die entry : Nat) (s : State) : Host.Outcome State Fault Refusal :=
  .next (s.onStep die entry (.impalaRecv die entry) (fun w step s => s.doRecv die entry w step))

/-- IMPALA_RRS (R254, R259). -/
def execImpalaRrs (die entry : Nat) (s : State) : Host.Outcome State Fault Refusal :=
  .next (s.onStep die entry (.impalaRrs die entry) (fun w step s => s.doRrs die entry w step))

/-- IMPALA_COPY (R254). -/
def execImpalaCopy (die entry : Nat) (s : State) : Host.Outcome State Fault Refusal :=
  .next (s.onStep die entry (.impalaCopy die entry) (fun w step s => s.doCopy die entry w step))

/-- Are the earlier chunks of an entry's run acknowledged and its earlier receives complete (R254)? -/
def State.waitOver (s : State) (w : WorkEntry) : Bool := !s.jobOut w.job && w.outstanding.all (fun o => o.1 != w.run || o.2.2.2)

/-- IMPALA_WAIT (R254). -/
def execImpalaWait (die entry : Nat) (s : State) : Host.Outcome State Fault Refusal :=
  .next (s.onStep die entry (.impalaWait die entry) (fun w _ s => if s.waitOver w then s.stepOn die entry else s))

/-- IMPALA_LOOP (R254). -/
def execImpalaLoop (die entry : Nat) (s : State) : Host.Outcome State Fault Refusal :=
  .next (s.onStep die entry (.impalaLoop die entry) (fun w step s => s.doLoop die entry w step))

/-- IMPALA_END (R136, R258): with every byte visible, remote ones acknowledged. -/
def execImpalaEnd (die entry : Nat) (s : State) : Host.Outcome State Fault Refusal :=
  .next (s.onStep die entry (.impalaEnd die entry) (fun w _ s => if s.jobOut w.job then s else s.doEnd die entry w))

/-- CHUNK_ARRIVAL (R253 to R255): a chunk is staged until a step accepts it, and one that another device has sent is acknowledged;
of one sent to another device, word comes that it is there, or that it has been consumed (log 9). -/
def execChunkArrival (die entry run rank chunk : Nat) (msg : ChunkMsg) (s : State) : Host.Outcome State Fault Refusal :=
  match msg with
  | .bytes src dst data =>
    let s := s.updDie die (fun d => { d with staged := d.staged ++ [⟨entry, run, rank, chunk, data⟩] })
    .next (if src % 4096 = s.devId then s else s.send (.engine (src % 4096) (bitsN src 12 2) 9 [entry, run, dst, chunk]))
  | .acked => .next (s.updEntry die entry (State.chunkAcked run rank chunk))
  | .consumed => .next (s.updEntry die entry (State.chunkConsumed run rank chunk))

namespace State

/-- May the step of an entry act now? -/
def stepReady (s : State) (die e : Nat) (w : WorkEntry) : Bool :=
  let idle := !s.jobOut w.job
  match s.stepAt die w with
  | none => idle
  | some step =>
    let left := (stepPeers w step).filter (fun p => !w.taken.contains p)
    match stepOp step with
    | 1 => left.isEmpty || (windowOpen w && idle)
    | 2 => left.isEmpty || ((s.waiting die e w left (chunkOf w step)).isSome && idle)
    | 3 => idle && (if left.isEmpty then (rrsPeer w step).isEmpty || windowOpen w
        else (s.waiting die e w left (chunkOf w step)).isSome)
    | 4 => idle
    | 5 => s.waitOver w
    | 6 => true
    | _ => idle

/-- The first thing that collectives have ready on a die, entries in turn (R258). -/
def impalaDueOn (s : State) (die : Nat) : Option Instr :=
  let d := s.die die
  if d.ientries.isEmpty || !(s.ready.getD 9 0).getLsbD (36 + die) then none
  else
    let l := d.ientries.filter (fun p => decide (d.iturn < p.1)) ++ d.ientries.filter (fun p => decide (p.1 ≤ d.iturn))
    l.findSome? (fun p =>
      if s.wordFires die p.2 || s.wordPolls die p.2 then some (Instr.wordTrigger die p.1)
      else if s.runDue p.2 then some (Instr.impalaRunStart die p.1)
      else if p.2.pc.isSome && s.stepReady die p.1 p.2 then s.stepEvent die p.1 p.2
      else none)

/-- The first thing that collectives have ready. -/
def impalaDue (s : State) : Option Instr := (List.range 4).findSome? s.impalaDueOn

/-- The entry that an event of Impala is about. -/
def impalaEntry : Instr → Option (Nat × Nat)
  | .impalaSend d e | .impalaRecv d e | .impalaRrs d e | .impalaCopy d e | .impalaWait d e | .impalaLoop d e
  | .impalaEnd d e | .impalaRunStart d e | .wordTrigger d e => some (d, e)
  | _ => none

/-- The state with the turn passed on after a step of an entry (R258). -/
def passTurn (s : State) (i : Instr) : State :=
  match impalaEntry i with
  | some (d, e) => s.updDie d (fun x => { x with iturn := e })
  | none => s

end State

end Sys2Proof.Machine
end

