-- ==== Sys2Proof/Machine/Launches.lean ====
section
/-! DEFINITION. Launch packets and tasks (R15 to R18, R40, R263 to R268, R274, R280, R286, R372, R374, R375). -/

namespace Sys2Proof.Machine

/-! ### The launch packet (R264) -/

def pktCode (p : Nat) : Nat := fieldN p 64 8
def pktIoff (p : Nat) : Nat := fieldN p 72 4
def pktDlen (p : Nat) : Nat := fieldN p 76 2
def pktSlen (p : Nat) : Nat := fieldN p 80 4
def pktGrid (p : Nat) : List Nat := [fieldN p 84 1, fieldN p 85 1, fieldN p 86 1]
def pktOrdered (p : Nat) : Bool := bitN (fieldN p 87 1) 0
def pktSetb (p : Nat) : Bool := bitN (fieldN p 87 1) 1
def pktKpriv (p : Nat) : Bool := bitN (fieldN p 87 1) 2
def pktRerun (p : Nat) : Bool := bitN (fieldN p 87 1) 3
def pktStrands (p : Nat) : Nat := fieldN p 88 1 % 16
def pktAxis (p d : Nat) : Nat := bitsN (fieldN p 89 1) (2 * d) 2
def pktExtent (p d : Nat) : Nat := fieldN p (96 + 4 * d) 4
def pktGranule (p d : Nat) : Nat := fieldN p (112 + 2 * d) 2 + 1
def pktArg (p : Nat) : Nat := fieldN p 120 8
def pktBmemb (p : Nat) (hi : Bool) : Nat := fieldN p (if hi then 136 else 128) 8
def pktRoot (p : Nat) : Nat := fieldN p 144 8
def pktBudget (p : Nat) : Nat := fieldN p 152 8
def pktCwaddr (p : Nat) : Nat := fieldN p 160 8
def pktCwval (p : Nat) : Nat := fieldN p 168 8
def pktFoot (p : Nat) : Nat := fieldN p 176 8
def pktSave (p : Nat) : Nat := fieldN p 184 8
def pktPresrc (p : Nat) : Nat := fieldN p 192 8
def pktPrelen (p : Nat) : Nat := fieldN p 200 4
def pktPrebank (p : Nat) : Nat := fieldN p 204 1 % 64
def pktFab (p : Nat) : Bool := bitN (fieldN p 205 1) 0

/-- Bytes of the code image: the dictionary, then the stream (R264). -/
def pktImage (p : Nat) : Nat := 48 * pktDlen p + 2 * pktSlen p

/-- The grid position of the k-th core: x, y and stage (R15). -/
def gridPos (p k : Nat) : List Nat :=
  let g := pktGrid p
  let gx := g.getD 0 1
  let gy := g.getD 1 1
  [k % gx, k / gx % gy, k / (gx * gy)]

/-- Origin and extent of the k-th core in a dimension (R16). -/
def partition (p k d : Nat) : Nat × Nat :=
  let a := pktAxis p d
  let len := pktExtent p d
  if a = 0 then (0, len)
  else
    let n := (pktGrid p).getD (a - 1) 1
    let q := pktGranule p d
    let blk := ((len + n - 1) / n + q - 1) / q * q
    let org := (gridPos p k).getD (a - 1) 0 * blk
    let ext := min blk (len - org)
    (if ext = 0 then len else org, ext)

/-- The strands of a core that a mask names. -/
def maskStrands (core mask : Nat) : List Nat := (pathStrands core).filter (fun i => bitN mask (strandIn i))

/-- The strands of a packet in order: cores rising, then strands (R15, R286). -/
def pktSids (p : Nat) : List Nat := (State.pktCores p).flatMap (fun c => maskStrands c (pktStrands p))

/-- Bytes of the save area of a task: one area for each of its strands (log 25). -/
def saveLen (p : Nat) : Nat := saveBytes * (pktSids p).length

namespace State

/-- Is a core ready (R298), and neither its cluster nor its die failed (R14)? -/
def coreReady (s : State) (n : Nat) : Bool := bitN (s.readyWord (n / 64)) (n % 64) && !s.coreOff n

/-- The privilege of a launch (R265). -/
def pktPriv (s : State) (q p : Nat) : Nat := if pktKpriv p && (s.queue q).kern then 1 else 0

/-- The space of a packet's addresses: its PTROOT on die 0 (R264, R286). -/
def pktSpace (s : State) (q p : Nat) : Space := jobSpace (pktRoot p) (s.pktPriv q p) 0

/-- The footprint that a packet names (R265), its block read here or in the lines that other devices have sent. -/
def pktFootprint (s : State) (q p : Nat) : Except InputErr (List (Bool × Nat × Nat)) :=
  if pktFoot p = 0 then .ok []
  else match s.readInput (s.pktSpace q p) (fun pa k => s.readMem (pa % 2 ^ 52) k) (fun _ va => (s.queue q).foot.find (va / 64))
      4 (pktFoot p) 128 with
    | .error e => .error e
    | .ok v => .ok (cardRegions ((List.range 16).map (fun i => fieldN v (8 * i) 8)))

/-- The number under which the coordinator's requests for a queue's footprint block go (R264). -/
def footJob (q : Nat) : Nat := 2 ^ 40 + q

/-- The state with a line of a queue's footprint block asked of another device. -/
def fetchFoot (s : State) (q pa va : Nat) : State :=
  s.engineRequest 0 (footJob q) (pa / 64 * 64) (2 ^ 65 + va / 64 * 64) 1 6 0 0

/-- The regions that a launch reads beside its footprint: the image and the bank preload. -/
def pktInputs (p : Nat) : List (Bool × Nat × Nat) :=
  [(false, pktCode p, pktImage p), (false, pktPresrc p, pktPrelen p)].filter (fun r => r.2.2 != 0)

/-- The save area as a region (R286). -/
def pktSaveRegion (p : Nat) : List (Bool × Nat × Nat) :=
  if pktSave p = 0 then [] else [(true, pktSave p, saveLen p)]

/-- Is a field of a packet out of its range, or its core count wrong (R15, R264, R268)? -/
def pktBad (p : Nat) : Bool :=
  let g := pktGrid p
  (pktCores p).length != g.getD 0 0 * g.getD 1 0 * g.getD 2 0 || g.any (· == 0) || decide (16 < g.getD 2 0) ||
    pktStrands p == 0 || decide (8192 < pktDlen p) || (List.range 4).any (fun d => pktExtent p d == 0) ||
    pktCode p % 16 != 0 || decide (2 ^ 15 ≤ pktIoff p) || pktCwaddr p % 8 != 0 || pktSave p % 64 != 0 ||
    pktPrelen p % 64 != 0 || decide (524288 < pktPrelen p)

/-- The lowest dictionary entry that does not fit in the instruction store (R40). -/
def pastStore (ioff dlen : Nat) : Option Nat :=
  let n := (2 ^ 19 - ioff * 16) / 48
  if n < dlen then some n else none

/-- The clusters with a core of a packet. -/
def pktClusters (p : Nat) : List Nat := (List.range 64).filter (fun c => bitsN p (8 * c) 8 != 0)

/-- Is a bank that a packet preloads no scratchpad (R102, R264)? -/
def preloadBad (s : State) (p : Nat) : Bool :=
  pktPrelen p != 0 && (pktClusters p).any (fun c =>
    let k := s.bank c (pktPrebank p)
    k.mode != .scratchpad || k.busy || k.nrdy)

/-- Why a packet is rejected at acceptance (R263, R265, R268): the cause and its TVAL, or a line of its footprint block to
wait for. A dictionary that runs past the instruction store is left to the check of R40. -/
def pktFault (s : State) (q p : Nat) : Option InputErr :=
  if pktKpriv p && !(s.queue q).kern then some (.bad 0x04 0)
  else if pktBad p || !(pktCores p).all s.coreReady ||
      ((pastStore (pktIoff p) (pktDlen p)).isNone && decide (2 ^ 19 < pktIoff p * 16 + pktImage p)) then some (.bad 0x12 0)
  else match (s.queue q).footBad with
    | some e => some (.bad e.1 e.2)
    | none => match s.pktFootprint q p with
      | .error e => some e
      | .ok foot =>
        ((s.regionFault (s.pktSpace q p) (foot ++ pktInputs p)).or
          (s.regionFault (jobSpace (pktRoot p) 1 0) (pktSaveRegion p))).elim
            (if s.preloadBad p then some (.bad 0x12 0) else none) (fun e => some (.fault e.1 e.2))

/-- A queue without its head. -/
def popHead (s : State) (q : Nat) : State :=
  s.setQueue q { s.queue q with packets := (s.queue q).packets.drop 1, foot := [], footBad := none }

/-- The state with the packet at the head of a queue rejected with a failure value (R268). -/
def rejectHead (s : State) (q p v : Nat) : State :=
  let s := if pktCwaddr p % 8 = 0 then s.writeWordAt (pktRoot p) (s.pktPriv q p) 0 (pktCwaddr p) v 0 else s
  (s.popHead q).queueError q (v / 2 ^ 48 % 256) true

/-- The state with an accepted task rejected before any core has started (R268). -/
def rejectTask (s : State) (t : Task) (v : Nat) : State :=
  let s := s.rejectHead t.queue t.pkt v
  ({ s with tasks := s.tasks.filter (fun u => u.id != t.id) }).dropJob t.id

/-- The state with a packet accepted (R266, R268, R286): its footprint, inputs and save area translated and locked. It
enters the schedulers when it starts. -/
def acceptPacket (s : State) (q p : Nat) : State :=
  let c := s.pktSpace q p
  let ck := jobSpace (pktRoot p) 1 0
  let foot := match s.pktFootprint q p with
    | .ok l => l
    | .error _ => []
  let dies := ((List.range 4).filter (fun d => bitsN p (128 * d) 128 != 0)).foldl (fun a d => a + 2 ^ d) 0
  let id := s.nextJob
  let s := if pktFoot p = 0 then s else s.touchInput c 2 (pktFoot p) 128
  let s := s.enterJob 0 .task 0 true (pktRoot p) c.priv 0 foot [dies] (pktCwaddr p, pktCwval p) none
  let s := (s.commitRegions c (pktInputs p)).lockRegions c id (pktInputs p)
  let s := (s.commitRegions ck (pktSaveRegion p)).lockRegions ck id (pktSaveRegion p)
  { s with
    nextTask := s.nextTask + 1
    tasks := s.tasks ++ [{ id, queue := q, pkt := p, order := s.nextTask, started := false, preloaded := false
                           redo := false, passStop := false, pending := [], deadline := none, leaving := false, saved := [], kept := [], doomed := none }] }

/-! ### Which head starts (R266, R274) -/

/-- The accepted head of a queue. -/
def headTask (s : State) (q : Nat) : Option Task := s.tasks.find? (fun t => t.queue == q && !t.started)

/-- The lowest queue whose head is not accepted yet and may be: enabled, not stopped, with room for its job and locks on
die 0 (R108, R134). -/
def newHead (s : State) : Option (Nat × Nat) :=
  if 256 ≤ (s.die 0).jobs.length || 4096 < (s.die 0).locks.length + 11 then none
  else s.lnq.findSome? (fun x =>
    if x.2.en && !x.2.stop && (s.headTask x.1).isNone && !s.jobOut (footJob x.1) then x.2.packets.head?.map (fun p => (x.1, p)) else none)

/-- Is a core idle (R266, R375)? -/
def coreIdle (s : State) (n : Nat) : Bool := (s.core n).task.isNone && (s.core n).cw.isNone

/-- Are all contexts of a task that leaves its cores saved (R274)? -/
def allSaved (t : Task) : Bool :=
  t.leaving && !t.pending.isEmpty && t.pending.all (fun c => t.saved.any (fun x => x.1 == c && (x.2.1 ||| x.2.2) == pktStrands t.pkt))

/-- Does the launch's queue still take its start? A task that is preloaded starts although the budget failure of the task before
it has stopped the queue (R274), until software clears STOP (R266). -/
def queueStarts (s : State) (t : Task) : Bool :=
  (s.queue t.queue).en && (!(s.queue t.queue).stop || (t.passStop && t.preloaded))

/-- The conditions of R266 that a task's own queue, cores and edges set: no unretired launch that has started, and no
unretired job on the dies of its cores, meets its footprint. -/
def headReady (s : State) (t : Task) : Bool :=
  !t.started && s.queueStarts t && (pktCores t.pkt).all s.coreIdle && !s.jobOut t.id &&
    (match s.job t.id with
     | some j => j.failed.isNone &&
       (s.edgesOf ((List.range 4).filter (fun d => bitN (j.card.getD 0 0) d)) true j.reads j.writes).1.isEmpty
     | none => false)

/-- Do two tasks use a core in common? -/
def shareCore (a b : Task) : Bool := (a.pkt % 2 ^ 512) &&& (b.pkt % 2 ^ 512) != 0

/-- May a head start (R266, R274)? A rerun for the same cores goes before a preloaded task, and a resumption that waits for
a core before any other head. -/
def startable (s : State) (t : Task) : Bool :=
  s.headReady t &&
    (if t.preloaded then
      !s.tasks.any (fun r => pktRerun r.pkt && r.pkt % 2 ^ 512 == t.pkt % 2 ^ 512 && r.id != t.id && s.headReady r)
    else !s.tasks.any (fun u => u.leaving && shareCore u t))

/-- The head that the coordinator serves next (R266): of the highest priority, the first at or after the queue that follows
the last one served. Of heads for the same cores at one priority the preloaded one goes first (R274; DESIGN CHOICE, log 39). -/
def nextHead (s : State) : Option Task :=
  let l := s.tasks.filter s.startable
  (List.range 8).reverse.findSome? (fun p =>
    let lp := l.filter (fun t => (s.queue t.queue).prio.toNat == p)
    let from_ := s.rot.getD p 63 + 1
    ((List.range 64).findSome? (fun i => lp.find? (fun t => t.queue == (from_ + i) % 64))).map (fun t =>
      ((lp.find? (fun u => u.preloaded && shareCore u t && !pktRerun t.pkt)).getD t)))

/-! ### Starts -/

/-- The lines of a launch's image and preload that other devices hold and that are not fetched. -/
def launchLines (s : State) (t : Task) : List (Nat × Nat) :=
  match s.job t.id with
  | none => []
  | some j => (pktInputs t.pkt).flatMap (fun r => s.remoteLines 0 j r.2.1 r.2.2)

/-- The state with lines of a launch's input asked of other devices. -/
def fetchLaunch (s : State) (t : Task) (l : List (Nat × Nat)) : State :=
  match s.job t.id with
  | none => s
  | some j => s.fetchLines 0 j l

/-- n bytes of a launch's input. -/
def launchInput (s : State) (t : Task) (va n : Nat) : Nat :=
  match s.job t.id with
  | none => 0
  | some j => s.readJob 0 j (n / 64 + 2) va n

/-- The lowest entry of a dictionary that fails the check (R40). -/
def badDict (dict n : Nat) : Option Nat :=
  (List.range n).find? (fun i => (decodeBundle (bitsN dict (384 * i) 384)).isNone)

/-- The lowest dictionary entry of a core's instruction store that fails the check of R40: one whose contents are wrong, or the
first that runs past the store. -/
def coreDict (s : State) (n ioff dlen : Nat) : Option Nat :=
  let fit := min dlen ((2 ^ 19 - ioff * 16) / 48)
  (badDict (s.readMem (istoreBase + n * 2 ^ 19 + ioff * 16) (48 * fit)) fit).or (pastStore ioff dlen)

/-- The lowest dictionary entry of a launch that fails the check of R40: of a preloaded one in the instruction stores, where its
image stands, and of any other in the image that its cores are to be given. -/
def dictFault (s : State) (t : Task) : Option Nat :=
  let p := t.pkt
  if t.preloaded then
    ((pktCores p).filterMap (fun c => s.coreDict c (pktIoff p) (pktDlen p))).foldl (fun a e => some (min e (a.getD e))) none
  else
    let fit := min (pktDlen p) ((2 ^ 19 - pktIoff p * 16) / 48)
    (badDict (s.launchInput t (pktCode p) (48 * fit)) fit).or (pastStore (pktIoff p) (pktDlen p))

/-- The state with a launch's image and bank preload written (R138, R264, R274). -/
def loadImage (s : State) (t : Task) : State :=
  let p := t.pkt
  let img := s.launchInput t (pktCode p) (pktImage p)
  let s := (pktCores p).foldl (fun s c => s.writeSram (istoreBase + c * 2 ^ 19 + pktIoff p * 16) (pktImage p) img) s
  if pktPrelen p = 0 then s
  else
    let v := s.launchInput t (pktPresrc p) (pktPrelen p)
    (pktClusters p).foldl (fun s c => s.writeSram (sramBase + c * 2 ^ 25 + pktPrebank p * 2 ^ 19) (pktPrelen p) v) s

/-- The state with the registers of the k-th core of a launch written (R15 to R18, R28, R264). -/
def loadCore (s : State) (t : Task) (k core : Nat) : State :=
  let p := t.pkt
  let parts := (List.range 4).map (partition p k)
  let s := s.updCore core (fun c => { c with
    dictbase := BitVec.ofNat 15 (pktIoff p), dictlen := BitVec.ofNat 14 (pktDlen p), slen := pktSlen p
    stage := BitVec.ofNat 4 ((gridPos p k).getD 2 0)
    org := Vector.ofFn (fun i => BitVec.ofNat 32 (parts.getD i.val (0, 0)).1)
    ext := Vector.ofFn (fun i => BitVec.ofNat 32 (parts.getD i.val (0, 0)).2)
    task := some t.id })
  if pktSetb p then
    (s.writeBmemb core false (BitVec.ofNat 64 (pktBmemb p false))).writeBmemb core true (BitVec.ofNat 64 (pktBmemb p true))
  else s

/-- The state with the core registers of a launch written on its cores that are not done. -/
def loadCores (s : State) (t : Task) (cores : List Nat) : State :=
  (pktCores t.pkt).zipIdx.foldl (fun s x => if cores.contains x.1 then s.loadCore t x.2 x.1 else s) s

/-- When a task's budget ends, counted from now (R264). -/
def budgetEnd (s : State) (t : Task) : Option Nat :=
  if pktBudget t.pkt = 0 then none else some ((s.die 0).cycle + pktBudget t.pkt)

/-- The state with a task changed. -/
def updTask (s : State) (id : Nat) (f : Task → Task) : State :=
  { s with tasks := s.tasks.map (fun t => if t.id == id then f t else t) }

/-- The state with a head started (R266, R15, R40, R138): its image, unless preloaded, and its registers written, and the
start messages sent. A preload of another task that the image or bank overlaps is discarded (R274). -/
def startTask (s : State) (t : Task) : State :=
  let p := t.pkt
  let q := t.queue
  let s := if t.preloaded then s else s.loadImage t
  let s := { s with tasks := s.tasks.map (fun (u : Task) =>
    if u.preloaded && u.id != t.id && shareCore u t &&
        (overlap [⟨pktIoff p * 16, pktImage p⟩] [⟨pktIoff u.pkt * 16, pktImage u.pkt⟩] ||
          (pktPrelen p != 0 && pktPrelen u.pkt != 0 && pktPrebank p == pktPrebank u.pkt))
    then { u with preloaded := false, redo := true } else u) }
  let s := s.loadCores t (pktCores p)
  let s := (s.popHead q).updJob t.id (fun j => { j with phase := .active })
  let s := { s with rot := s.rot.setD (s.queue q).prio.toNat 63 q }
  (s.updTask t.id (fun t => { t with started := true, preloaded := false, redo := false, pending := pktCores p, deadline := s.budgetEnd t })).post
    ((pktCores p).map (fun c => .startMessage t.id c))

/-- The state after the coordinator has served a startable head: its remote input is asked for, its cores' readiness and the
dictionary are checked, and it starts or is rejected (R40, R266, R268). -/
def serveHead (s : State) (t : Task) : State :=
  let l := if t.preloaded then [] else s.launchLines t
  if !(pktCores t.pkt).all s.coreReady then s.rejectTask t (failValue 0x12 0)
  else if !l.isEmpty then s.fetchLaunch t l
  else match s.dictFault t with
    | some e => s.rejectTask t (failValue 0x03 e)
    | none => if s.preloadBad t.pkt then s.rejectTask t (failValue 0x12 0) else s.startTask t

/-- A head that a failure it depends on ends before it starts (R269). -/
def failedHead (s : State) : Option (Task × Nat) :=
  s.tasks.findSome? (fun t => if t.started then none else match s.job t.id with
    | some j => j.failed.map (fun v => (t, v))
    | none => none)

/-- The state with a strand as a start leaves it (R35, R265): what belongs to the hardware strand stays, and PTROOT's reserved bits
are 0 (R4, R86). -/
def startStrand (s : State) (sid : Nat) (pc : BitVec 18) (s1 s2 root : Word) (priv : Nat) : State :=
  (s.clearChannels sid).updStrand sid (fun st => { Strand.init with
    run := .ready, pc, ptroot := root &&& 0xFFFFFFFFFFFF8001#64, status := BitVec.ofNat 64 priv
    regs := { Regs.init with s := (Regs.init.s.set 1 s1).set 2 s2 }
    tvec := st.tvec, dbgEn := st.dbgEn, bundles := st.bundles, storeQ := st.storeQ, passed := st.passed
    seq := st.seq, relSeq := st.seq, fenceSeq := st.fenceSeq, lastIssue := st.lastIssue })

/-- The state after a start message has reached a core (R20, R22, R40, R265). -/
def startCore (s : State) (core mask : Nat) (pc : BitVec 18) (s1 s2 root : Word) (priv base : Nat) : State :=
  let s := s.updCore core (fun c => { c with started := BitVec.ofNat 4 mask })
  let s := (maskStrands core mask).foldl (fun s i => s.startStrand i pc s1 s2 root priv) s
  s.reselect (core * 4 + 3) base

/-! ### Ends -/

/-- Are the stores of the strands of a core visible at a scope (R267)? -/
def coreVisible (s : State) (core : Nat) (fab : Bool) : Bool :=
  (pathStrands core).all (fun i => (s.strand i).unseen.isEmpty && !(fab && s.postedOut i))

/-- The scope of the completion word of what a core runs. -/
def coreFab (s : State) (core : Nat) : Bool :=
  match (s.core core).cw with
  | some w => w.fab
  | none => match s.tasks.find? (fun t => some t.id == (s.core core).task) with
    | some t => pktFab t.pkt
    | none => false

/-- Has every strand that was started on a core halted, its routines completed and its stores become visible (R372)? -/
def coreEnds (s : State) (core : Nat) : Bool :=
  let c := s.core core
  (c.task.isSome || c.cw.isSome) &&
    (if c.started = 0 then c.cw.isSome && (pathStrands core).all (fun i => (s.strand i).run == .off)
     else (maskStrands core c.started.toNat).all (fun i => (s.strand i).run == .halted)) &&
    c.calls.isEmpty && c.routine.isNone && s.coreVisible core (s.coreFab core)

/-- The queues of a core that belong to what runs there. -/
def coreQueues (s : State) (core : Nat) : List Lq :=
  (s.core core).lq.toList.filter (fun x => x.role != .unbound && decide (x.owner < 8))

/-- Has a core something to do for its completion (R372)? -/
def completionDue (s : State) (core : Nat) : Bool := s.coreEnds core && (s.coreQueues core).all (fun x => !x.closing)

/-- The state with the lent bank of a core returned and its queues let go (R372). -/
def closeCore (s : State) (core : Nat) : State :=
  (List.range 16).foldl (fun s q => s.closeLq core q) (s.updCore core (fun c => { c with
    lent := match c.lent with
      | some (st, b) => if st < 8 then none else some (st, b)
      | none => none }))

/-- The state with a core's completion reported (R20, R267, R375). -/
def reportCore (s : State) (core : Nat) : State :=
  let c := s.core core
  let s := (pathStrands core).foldl (fun s i => s.updStrand i (fun st =>
    { st with run := if st.run = .halted then .off else st.run })) s
  let s := s.updCore core (fun c => { c with started := 0, task := none, cw := none })
  let s := match c.cw with
    | some w => s.writeWordAt w.root w.priv (dieOfCore core) w.addr w.val 0
    | none => s
  match c.task with
  | some id => s.updTask id (fun t => { t with pending := t.pending.erase core })
  | none => s

/-- May a task retire (R267, R274, R280)? A failed one once its queues have let go. -/
def taskDone (s : State) (t : Task) : Bool :=
  t.started && t.pending.isEmpty &&
    (match t.doomed with
     | some _ => (pktCores t.pkt).all (fun c => ((s.core c).task != some t.id || (s.coreQueues c).isEmpty) &&
         (s.core c).lq.toList.all (fun x => x.role == .unbound || x.owner / 8 != t.id))
     | none => !pktOrdered t.pkt || s.tasks.all (fun u => u.queue != t.queue || decide (t.order ≤ u.order)))

/-- The state with a task retired (R136, R267). -/
def retireTask (s : State) (t : Task) : State :=
  let s := match s.job t.id with
    | some j => s.writeJobCw j (t.doomed.getD j.cwVal)
    | none => s
  let s := { s with
    tasks := s.tasks.filter (fun u => u.id != t.id)
    cores := s.cores.map (fun (p : Nat × Core) => if p.2.task == some t.id then (p.1, { p.2 with task := none }) else p) }
  s.dropJob t.id

/-- May a task be preloaded now (R274)? It is a head whose cores are those of a running task that no resumption waits
for, and its image lies clear of the code that runs there. -/
def preloadable (s : State) (t : Task) : Bool :=
  !t.started && !t.preloaded && !s.jobOut t.id && !s.preloadBad t.pkt &&
    (match s.job t.id with | some j => j.failed.isNone | none => false) &&
    s.tasks.any (fun r => r.started && !r.leaving && r.doomed.isNone && r.pkt % 2 ^ 512 == t.pkt % 2 ^ 512 &&
      (!overlap (s.launchRanges t.id (pktCode t.pkt)).1 (s.launchRanges r.id 0).2 ||
        (pktSids r.pkt).all (fun i => (s.strand i).depth == 0))) &&
    !s.tasks.any (fun u => u.leaving && shareCore u t) &&
    (pktCores t.pkt).all (fun c => !(s.core c).codeHit (pktIoff t.pkt * 16) (pktImage t.pkt))

/-- A task that waits for its cores to resume (R274): all saved, the cores idle, and no preloaded task to go first. -/
def resumable (s : State) (t : Task) : Bool :=
  allSaved t && t.pending.all s.coreIdle && !s.tasks.any (fun u => u.preloaded && shareCore u t && s.startable u)

/-- Has a running task's budget run out (R274)? -/
def overBudget (s : State) (t : Task) : Bool :=
  t.started && !t.leaving && t.doomed.isNone && !t.pending.isEmpty &&
    (match t.deadline with | some d => decide (d ≤ (s.die 0).cycle) | none => false)

/-- A task of the coordinator by number. -/
def task (s : State) (id : Nat) : Option Task := s.tasks.find? (fun t => t.id == id)

end State

/-- LAUNCH_PACKET_APPEND (R263): the staging window of a queue is appended. -/
def execLaunchPacketAppend (queue : Nat) (s : State) : Host.Outcome State Fault Refusal :=
  .next (s.appendPacket queue (s.queue queue).window)

/-- DISPATCH (R266, R268, R269): a head is accepted, rejected or started. -/
def execDispatch (s : State) : Host.Outcome State Fault Refusal :=
  match s.failedHead with
  | some (t, v) => .next (s.rejectTask t v)
  | none => match s.newHead with
    | some (q, p) => match s.pktFault q p with
      | some (.away pa va) => .next (s.fetchFoot q pa va)
      | some (.fault c v) | some (.bad c v) => .next (s.rejectHead q p (State.failValue c v))
      | none => .next (s.acceptPacket q p)
    | none => match s.nextHead with
      | some t => .next (s.serveHead t)
      | none => .next s

/-- START_MESSAGE (R20, R35, R40, R265): the strands of a launch start on a core, after the cycles of the dictionary check. -/
def execStartMessage (task core : Nat) (s : State) : Host.Outcome State Fault Refusal :=
  match s.task task with
  | none => .next s
  | some t =>
    let c := s.core core
    if !t.started || t.leaving || t.doomed.isSome || !t.pending.contains core || c.started != 0 || c.task != some task then .next s
    else
      let p := t.pkt
      let k := (State.pktCores p).findIdx (· == core)
      let priv := match s.job t.id with
        | some j => j.priv
        | none => 0
      .next (s.startCore core (pktStrands p) 0 (BitVec.ofNat 64 (pktArg p)) (BitVec.ofNat 64 k) (BitVec.ofNat 64 (pktRoot p))
        priv ((s.die (dieOfCore core)).cycle + (pktDlen p + 7) / 8))

/-- CORE_COMPLETION (R20, R372, R375). -/
def execCoreCompletion (core : Nat) (s : State) : Host.Outcome State Fault Refusal :=
  if !s.completionDue core then .next s
  else
    let s := s.closeCore core
    if (s.coreQueues core).isEmpty then .next (s.reportCore core) else .next s

/-- TASK_RETIRE (R267, R268, R274, R280). -/
def execTaskRetire (task : Nat) (s : State) : Host.Outcome State Fault Refusal :=
  match s.task task with
  | none => .next s
  | some t => if s.taskDone t then .next (s.retireTask t) else .next s

/-- PRELOAD (R138, R274): the image and bank of a head are written while its cores still run; what other devices hold is
asked for first. -/
def execPreload (task : Nat) (s : State) : Host.Outcome State Fault Refusal :=
  match s.task task with
  | none => .next s
  | some t =>
    if !s.preloadable t then .next s
    else
      let l := s.launchLines t
      if !l.isEmpty then .next (s.fetchLaunch t l)
      else match s.dictFault t with
        | some _ => .next (s.updTask t.id (fun t => { t with redo := false }))
        | none => .next ((s.loadImage t).updTask t.id (fun t => { t with preloaded := true, redo := false }))

/-- BUDGET_EXPIRY (R274): the task is to be saved, or fails with cause 0x38. -/
def execBudgetExpiry (task : Nat) (s : State) : Host.Outcome State Fault Refusal :=
  match s.task task with
  | none => .next s
  | some t =>
    if !s.overBudget t then .next s
    else if pktSave t.pkt = 0 then
      let open_ := !(s.queue t.queue).stop
      let s := { s with tasks := s.tasks.map (fun (u : Task) =>
        if open_ && u.preloaded && u.queue == t.queue && State.shareCore u t then { u with passStop := true } else u) }
      .next ((s.queueError t.queue 0x38 true).doomTask t (State.failValue 0x38 0))
    else .next ((s.queueError t.queue 0x38 false).updTask task (fun t => { t with leaving := true, deadline := none }))

/-- TASK_RESUME (R274): the registers of the task's cores are written again, and its contexts may come back. -/
def execTaskResume (task : Nat) (s : State) : Host.Outcome State Fault Refusal :=
  match s.task task with
  | none => .next s
  | some t =>
    if !s.resumable t then .next s
    else
      let s := s.loadCores t t.pending
      let back := t.saved.filter (fun x => t.pending.contains x.1)
      let s := back.foldl (fun s x =>
        let s := s.updCore x.1 (fun c => { c with started := BitVec.ofNat 4 (pktStrands t.pkt) })
        (maskStrands x.1 x.2.2).foldl (fun s i => s.updStrand i (fun st => { st with run := .halted })) s) s
      .next (s.updTask task (fun t => { t with leaving := false, deadline := s.budgetEnd t }))

namespace State

/-! ### KSTART (R374, R375) -/

/-- The start record that KSTART names, or why it is not at hand. -/
def kRecord (s : State) (va : Nat) : Except InputErr Nat := s.readSub (s.spaceOf s.cur) va 64

/-- The physical address of the record. -/
def kRecordPa (s : State) (va : Nat) : Nat :=
  match s.xlat (s.spaceOf s.cur) .read va with
  | .ok pa _ _ _ => pa
  | .fault _ => 0

/-- Is a field of a start record out of range, or a reserved bit set (R374)? -/
def kBad (r : Nat) : Bool :=
  decide (2 ^ 15 ≤ fieldN r 0 4) || decide (8192 < fieldN r 4 2) || fieldN r 6 2 != 0 ||
    decide (fieldN r 8 4 ≤ fieldN r 12 4) || decide (2 ^ 18 ≤ fieldN r 12 4) || fieldN r 16 1 % 16 == 0 ||
    decide (16 ≤ fieldN r 16 1) || decide (4 ≤ fieldN r 17 1) || fieldN r 18 6 != 0 || fieldN r 40 8 % 8 != 0 ||
    fieldN r 56 8 != 0

/-- Why KSTART refuses before it releases (R375), or 0. -/
def kRefuse (s : State) (r n : Nat) : Nat :=
  if kBad r then 4
  else if !s.coreReady n then 2
  else if (pathStrands n).any (fun i => (s.strand i).run != .off) then 1
  else 0

/-- What KSTART meets (R374, R375). -/
def kstartObs (sa sb : BitVec 6) (s : State) : Option Obstacle :=
  let va := (s.me.regs.rs sa).toNat
  (needKernel 0 s).or (
    if va % 64 != 0 then rollTrap 0x08 va
    else match s.kRecord va with
      | .error e => e.obstacle s
      | .ok r =>
        if s.kRefuse r ((s.me.regs.rs sb).toNat % 512) = 0 && s.releaseHeld s.cur .dev then some .hold else none)

/-- The state with a core started from a record (R375). -/
def kStart (s : State) (r n : Nat) : State :=
  let priv := fieldN r 17 1 % 2
  let s := s.updCore n (fun c => { c with
    slen := fieldN r 8 4, stage := 0, org := Vector.replicate 4 0, ext := Vector.replicate 4 1
    cw := some ⟨fieldN r 40 8, fieldN r 48 8, bitN (fieldN r 17 1) 1, fieldN r 32 8, priv⟩ })
  s.startCore n (fieldN r 16 1) (BitVec.ofNat 18 (fieldN r 12 4)) (BitVec.ofNat 64 (fieldN r 24 8)) 0
    (BitVec.ofNat 64 (fieldN r 32 8)) priv ((s.die (dieOfCore n)).cycle + (fieldN r 4 2 + 7) / 8)

/-- The latency of KSTART's result (R375). -/
def kLat (r : Nat) : Nat := 20 + (fieldN r 4 2 + 7) / 8

/-- What KSTART answers once it has released, and the state after it (R375): a dictionary that fails the check, or the start. -/
def kTry (s : State) (r n : Nat) : Nat × State :=
  let s := s.updCore n (fun c => { c with dictbase := BitVec.ofNat 15 (fieldN r 0 4), dictlen := BitVec.ofNat 14 (fieldN r 4 2) })
  match s.coreDict n (fieldN r 0 4) (fieldN r 4 2) with
  | some e => (3 + e * 2 ^ 32, s)
  | none => (0, s.kStart r n)

/-- The state after a KSTART that has waited for the stores of its own bundle (R133, R375). -/
def kCommit (s : State) (sid : Nat) (card : List Nat) : State :=
  let r := card.getD 0 0
  let n := card.getD 1 0
  let why := s.kRefuse r n
  let x := if why != 0 then (why, s) else s.kTry r n
  x.2.answerTag sid (card.getD 2 0) (BitVec.ofNat 2048 x.1) false (max (card.getD 3 0) (s.cycleOf sid))

/-- The state after KSTART (R375). -/
def effKstart (sd sa sb : BitVec 6) (s : State) : State :=
  let va := (s.me.regs.rs sa).toNat
  let n := (s.me.regs.rs sb).toNat % 512
  match s.kRecord va with
  | .error _ => s
  | .ok r =>
    let lat := kLat r
    let pa := s.kRecordPa va
    let s := s.touchSub (s.spaceOf s.cur) va 64
    let s := if s.isRemote pa then s else s.poisonReport s.cur pa 64
    let why := s.kRefuse r n
    if why != 0 then s.putSLock sd (BitVec.ofNat 64 why) lat
    else if s.ownStores then
      let k := s.nextTag * 4
      ((({ s with nextTag := s.nextTag + 1 }.await (.s sd) (BitVec.allOnes 2048) k).updMe Strand.release).addCommit false .dev 3
        [r, n, k, s.issue.cycle + lat])
    else
      let x := s.kTry r n
      x.2.putSLock sd (BitVec.ofNat 64 x.1) lat

end State

/-- KSTART (R374, R375). -/
def execKstart (sd sa sb : BitVec 6) (s : State) : Host.Outcome State Fault Refusal :=
  .next (s.gate (State.kstartObs sa sb) (State.effKstart sd sa sb))

end Sys2Proof.Machine
end

