-- ==== Sys2Proof/Machine/Preempt.lean ====
section
/-! DEFINITION. The commit buffer (R273), pre-emption and restore (R57, R58, R286, R287), and what the coordinator and the
jobs have due (R136, R269, R272). -/

namespace Sys2Proof.Machine

namespace State

/-! ### The commit buffer -/

/-- How the guard of a commit entry has resolved, if it has (R273). -/
def commitGuard (s : State) (e : Commit) : Option Bool :=
  match e.settled with
  | some b => some b
  | none =>
    if e.guardDue ≤ s.cycleOf e.sid then
      some (((s.strand e.sid).settle e.guardDue).regs.rg e.guardIdx != e.guardInv)
    else none

/-- Has what the release of a commit entry covers performed, so that its turn has come (R114, R133, R273)? -/
def commitTurn (s : State) (core idx : Nat) (e : Commit) : Bool :=
  let st := s.strand e.sid
  (st.run != .run || decide (e.seq ≤ st.relSeq)) && !s.releaseOut e.sid e.scope e.seq &&
    (((s.core core).commit.take idx).all (fun x => x.sid != e.sid))

/-- The state without a commit entry. -/
def dropCommit (s : State) (core idx : Nat) : State := s.updCore core (fun c => { c with commit := c.commit.eraseIdx idx })

/-- The state with a command of the commit buffer carried out (R269, R273): a job enters, a line fires, an entry is armed or
disarmed; one whose translation failed fails. -/
def runCommit (s : State) (e : Commit) : State :=
  let die := dieOf e.sid
  let id := e.card.getD 0 0
  match e.kind with
  | 0 => (s.updJob id (fun j => { j with phase := if j.phase = .spec then .waiting else j.phase })).takePacket id e.seq
  | 1 => s.fireLine die id
  | 3 => s.kCommit e.sid e.card
  | _ =>
    let card := e.card.getD 1 0
    if id = 0 then s.disarmEntry die (wEntry card)
    else match s.job id with
      | none => s
      | some j =>
        let s := s.updJob id (fun j => { j with phase := .waiting })
        match j.failed with
        | some v => s.failJob { j with phase := .waiting } v
        | none => s.armEntry die card id (e.card.drop 2)

/-- What a core's commit buffer has ready: commands that commit or go. -/
def commitDue (s : State) (core : Nat) : Option Instr :=
  (s.core core).commit.zipIdx.findSome? (fun p =>
    match s.commitGuard p.1 with
    | none => none
    | some false => some (.commitEntryDiscard core p.2)
    | some true => if s.commitTurn core p.2 p.1 then some (.commitEntryCommit core p.2) else none)

/-! ### Pre-emption -/

/-- The task that is being saved from the core of a strand. -/
def leavingTask (s : State) (sid : Nat) : Option Task :=
  s.tasks.find? (fun t => t.leaving && some t.id == (s.core (coreOf sid)).task)

/-- The cycle in which the next bundle of a strand would have issued (R57). -/
def nextCycle (s : State) (sid : Nat) : Nat :=
  let st := s.strand sid
  match st.stopAt with
  | some n => n
  | none => if st.run = .run then max (s.cycleOf sid) st.nextIssue else s.cycleOf sid

/-- May a strand be pre-empted (R57, R273, R278, R286)? It has stopped at its boundary or is not in RUN, its elements have
completed or parked, its commit entries have resolved, no answer of Oryx or of a remote atomic and no interlocked result is
out, and nothing comes before pre-emption at this boundary. -/
def preemptDue (s : State) (sid : Nat) : Bool :=
  let st := s.strand sid
  let c := s.core (coreOf sid)
  !isThread sid && (s.leavingTask sid).isSome && c.started.getLsbD (strandIn sid) &&
    (st.run == .ready || (st.run == .run && st.stopAt.isSome) || st.run == .waiting) && st.takeable.isEmpty &&
    (s.interruptOf sid).isNone && !s.awaitsFlight sid && st.aq.isEmpty && st.stashed.all (fun p => p.2.answeredYet) &&
    (match c.overflow with | some e => e.sid != sid | none => true) &&
    c.commit.all (fun e => e.sid != sid || (s.commitGuard e).isSome) && s.breakable sid &&
    st.flight.all (fun r => !r.lock || (match r.due with | some d => decide (d ≤ s.cycleOf sid) | none => false))

/-- The replay entries of the results in flight at cycle n, the oldest visible cycle first (R57): a partial result takes
the rest of its register. -/
def captureFlight (st : Strand) (n : Nat) : List Result :=
  ((st.flight.foldr insertByDue []).foldl (fun (a : List Result × Strand) r =>
    let st := a.2.write r.dst r.val r.mask
    (a.1 ++ [{ r with val := st.regVal r.dst, mask := BitVec.allOnes 2048, due := some (r.due.getD n - n), replay := true }], st))
    ([], st)).1

/-- The strand with its interlocked results written (R57). -/
def landLocks (st : Strand) : Strand :=
  let l := (st.flight.filter (fun r => r.lock)).foldr insertByDue []
  (l.map (Result.gain st.flight)).foldl Strand.land { st with flight := st.flight.filter (fun r => !r.lock) }

/-- The strand with its results visible by cycle n and its interlocked ones written and the others in its replay buffer, with
the flags that they set (R57, R363): an entry of R57 has no place for flags, so that FPCTL has them from the save on, those of a
result too that a branch after the restore cancels (R46; DESIGN CHOICE, log 25). What a rollback has left for a mark's bundle goes to the replay buffer too, as the save
area holds no other place for it (log 25). -/
def captured (st : Strand) (n : Nat) : Strand :=
  let st := landLocks (st.release.settle n)
  let flags := st.flight.foldl (fun a r => a ||| r.flags) 0
  { st with
    replay := st.replay ++ st.reinject.flatMap (fun x => x.2.2) ++ captureFlight st n, flight := [], reinject := []
    fpctl := st.fpctl ||| BitVec.ofNat 64 (flags * 256) }

/-- The address of the save area of a strand of a task (R286, log 25). -/
def areaOf (t : Task) (sid : Nat) : Nat := pktSave t.pkt + saveBytes * (pktSids t.pkt).findIdx (· == sid)

/-- The state with the calls, queues and lent bank of a context under another number (R287). -/
def renameContext (s : State) (core sid new : Nat) : State :=
  s.updCore core (fun c => { c with
    calls := c.calls.map (fun k => if k.sid == sid then { k with sid := new } else k)
    lq := c.lq.map (fun x => if x.role != .unbound && x.owner == ownerOf sid then { x with owner := ownerOf new } else x)
    lent := c.lent.map (fun x => if x.1 == ownerOf sid then (ownerOf new, x.2) else x) })

/-- The state with a strand saved (R57, R286, R287). The table of R20 names no change for the HALTED strands of a pre-empted
task: they go OFF with the last context of their core, and come back HALTED when the task resumes (DESIGN CHOICE, log 37). -/
def saveStrand (s : State) (t : Task) (sid : Nat) : State :=
  let core := coreOf sid
  let n := s.nextCycle sid
  let wasRun := (s.strand sid).run == .run
  let s := s.resolveGuards sid
  let s := s.updStrand sid (fun st => captured st n)
  let img := s.contextImage sid
  let s := s.storeBytes 0 t.id saveBytes (areaOf t sid) saveBytes img
  let s := s.renameContext core sid (savedId t.id sid)
  let last := (s.strand sid).seq + 1
  let kept := (sid, (s.strand sid).depth, ((s.core core).parked sid).length, last)
  let lent := match (s.core core).lent with
    | some (o, _) => o == ownerOf (savedId t.id sid)
    | none => false
  let s := s.updStrand (savedId t.id sid) (fun st => { st with
    stash := (s.strand sid).stashed, v := if lent then (s.strand sid).v else st.v })
  let s := s.updStrand sid (fun st => { st with
    run := .off, wait := .none, dq := [], replay := [], request := none, stash := [], stopAt := none, holdFrom := none
    halting := false, seq := last, mark := Mark.init })
  let s := s.updCore core (fun c => { c with fq := c.fq.filter (fun e => e.sid != sid) })
  let old := ((t.saved.find? (fun x => x.1 == core)).map (fun x => x.2.1)).getD 0
  let saved := old ||| 2 ^ strandIn sid
  let halted := (maskStrands core 15).foldl (fun a i =>
    if (s.strand i).run == .halted then a + 2 ^ strandIn i else a) 0
  let s := s.updTask t.id (fun t => { t with
    saved := t.saved.filter (fun x => x.1 != core) ++ [(core, saved, halted)], kept := t.kept ++ [kept] })
  let s := if saved ||| halted = pktStrands t.pkt then
      (maskStrands core halted).foldl (fun s i => s.updStrand i (fun st => { st with run := .off }))
        (s.updCore core (fun c => { c with started := 0, task := none }))
    else s
  if wasRun then s.reselect sid n else s

/-- May a context come back to a strand (R20, R286, R287)? -/
def restoreDue (s : State) (sid : Nat) (t : Task) : Bool :=
  let core := coreOf sid
  (s.core core).task == some t.id && t.started && !t.leaving && (s.strand sid).run == .off &&
    t.saved.any (fun x => x.1 == core && bitN x.2.1 (strandIn sid))

/-- The state with a task's saved context of a strand given up. -/
def forgetSaved (s : State) (t : Task) (sid : Nat) : State :=
  s.updTask t.id (fun t => { t with
    kept := t.kept.filter (fun k => k.1 != sid)
    saved := t.saved.map (fun x =>
    if x.1 == coreOf sid then (x.1, x.2.1 &&& (15 - 2 ^ strandIn sid), x.2.2) else x) })

/-- The image of a saved context. -/
def savedImage (s : State) (t : Task) (sid : Nat) : Nat :=
  match s.job t.id with
  | some j => s.readJob 0 j (saveBytes / 64 + 2) (areaOf t sid) saveBytes
  | none => 0

/-- The state with a context restored (R58, R286): its parked elements are in the fault queue again and their fault is
raised, its calls and queues are its own, and it is inside as many handlers as at the save, whatever `STATUS.INH` (R225). -/
def restoreStrand (s : State) (t : Task) (sid : Nat) (img : Nat) : State :=
  let core := coreOf sid
  let old := savedId t.id sid
  let parked := parkedOf img sid (s.strand sid).nextSlot
  let late := (s.strand old).reports
  let depth := ((t.kept.find? (fun k => k.1 == sid)).map (fun k => k.2.1)).getD (b2n (bitN (fieldN img 24 8) 10))
  let pc := BitVec.ofNat 18 (fieldN img 16 8)
  let stash := (s.strand old).stash
  let s := s.renameContext core old sid
  let s := s.setStrand old Strand.init
  let s := s.updCore core (fun c => { c with fq := c.fq ++ parked })
  let report := match parked with
    | e :: _ => [Trap.mk e.cause (if e.cause = 0x15 then e.index else e.va) true false]
    | [] => []
  let s := s.updStrand sid (fun st => { (st.ofImage img) with
    run := .ready, wait := .none, flight := [], reinject := [], gated := [], loadQ := [], aq := [], mark := Mark.init
    request := (stash.find? (fun p => p.1 == depth && p.2.off == pc)).map (·.2), stopAt := none
    stash := stash.filter (fun p => decide (p.1 < depth))
    holdFrom := none, qcount := 0, forceMark := true, halting := false, depth
    reports := report ++ late, relSeq := st.seq })
  (s.forgetSaved t sid).settleChans.wake sid

/-! ### Jobs -/

/-- May a job retire: failed, or its work done and its remote bytes acknowledged (R136, R269)? -/
def retireDue (s : State) (j : Job) : Bool :=
  (j.failed.isSome && j.phase != .spec && j.kind != .task) ||
    (j.kind == .route && s.routeDone j) ||
    (j.phase == .active && (j.kind == .copy || j.kind == .launch || j.kind == .densify) && j.at_ != 0 &&
      decide (j.at_ ≤ (s.die j.die).cycle) && !s.jobOut j.id)

/-- The first thing that jobs and engines have ready. -/
def jobDue (s : State) : Option Instr :=
  s.dies.toList.zipIdx.findSome? (fun p =>
    let jobs := p.1.jobs
    if jobs.isEmpty then none
    else
      ((jobs.find? s.retireDue).map (fun j => Instr.jobRetire p.2 j.id)).or
        (((List.range 104).find? (s.engineDue p.2)).map (fun e => Instr.jobStart p.2 e)))

/-! ### What the coordinator has ready -/

/-- Has the fault queue of a strand's core room for the parked elements of its saved context (R287)? -/
def restoreFits (s : State) (sid : Nat) (t : Task) : Bool :=
  decide ((s.core (coreOf sid)).fq.length + min 256 (fieldN (s.savedImage t sid) 14 2) ≤ 256)

/-- The first thing that a core has ready for the coordinator. -/
def coreDue (s : State) (core : Nat) : Option Instr :=
  (s.commitDue core).or
    (if s.completionDue core then some (.coreCompletion core)
     else (((pathStrands core).find? s.preemptDue).map Instr.preemption).or
      (match s.tasks.find? (fun t => some t.id == (s.core core).task) with
       | none => none
       | some t => ((pathStrands core).find? (fun i => s.restoreDue i t && s.restoreFits i t)).map
           (fun i => Instr.contextRestore i t.id)))

/-- The first thing that launches have ready (R266, R267, R273, R274). -/
def launchDue (s : State) : Option Instr :=
  (s.cores.findSome? (fun p => if p.1 < 512 then s.coreDue p.1 else none)).or (
    ((s.tasks.find? s.taskDone).map (fun t => Instr.taskRetire t.id)).or (
      ((s.tasks.find? s.overBudget).map (fun t => Instr.budgetExpiry t.id)).or (
        ((s.tasks.find? s.resumable).map (fun t => Instr.taskResume t.id)).or (
          ((s.tasks.find? (fun t => t.redo && s.preloadable t)).map (fun t => Instr.preload t.id)).or (
          if s.failedHead.isSome || s.newHead.isSome || s.nextHead.isSome then some .dispatch else none)))))

end State

/-- COMMIT_ENTRY_COMMIT (R269, R273): the command of a resolved entry takes effect in its place among the stores. -/
def execCommitEntryCommit (core idx : Nat) (s : State) : Host.Outcome State Fault Refusal :=
  match (s.core core).commit[idx]? with
  | none => .next s
  | some e =>
    if s.commitGuard e == some true && s.commitTurn core idx e then .next ((s.dropCommit core idx).runCommit e)
    else .next s

/-- COMMIT_ENTRY_DISCARD (R273): the entry goes, with its job and locks, and nothing is written. -/
def execCommitEntryDiscard (core idx : Nat) (s : State) : Host.Outcome State Fault Refusal :=
  match (s.core core).commit[idx]? with
  | none => .next s
  | some e =>
    if s.commitGuard e == some false then
      let s := s.dropCommit core idx
      .next (if e.kind = 1 || e.kind = 3 || e.card.getD 0 0 = 0 then s else s.dropJob (e.card.getD 0 0))
    else .next s

/-- PREEMPTION (R20, R57, R286): the context of a strand goes to its save area, and the strand is OFF. -/
def execPreemption (sid : Nat) (s : State) : Host.Outcome State Fault Refusal :=
  if !s.preemptDue sid then .next s
  else match s.leavingTask sid with
    | some t => .next (s.saveStrand t sid)
    | none => .next s

/-- CONTEXT_RESTORE (R58, R286, R287): a saved context comes back; a pinned one on another core is refused with cause
0x12, and without room in the fault queue the restore waits. -/
def execContextRestore (sid task : Nat) (s : State) : Host.Outcome State Fault Refusal :=
  match s.task task with
  | none => .next s
  | some t =>
    if !s.restoreDue sid t then .next s
    else
      let img := s.savedImage t sid
      if !s.restoreFits sid t then .next s
      else if bitN (fieldN img 6 1) 0 && fieldN img 4 2 != coreOf sid then
        .next ((s.queueError t.queue 0x12 false).forgetSaved t sid)
      else .next (s.restoreStrand t sid img)

/-- JOB_RETIRE (R107, R134, R136, R247): the completion word is written, locks and edges are released; a failed job fails. -/
def execJobRetire (die job : Nat) (s : State) : Host.Outcome State Fault Refusal :=
  match (s.die die).jobs.find? (fun j => j.id == job) with
  | none => .next s
  | some j =>
    if !s.retireDue j then .next s
    else match j.failed with
      | some v => .next (s.failJob j v)
      | none => if j.kind == .route then .next (s.retireRoute j)
        else .next (((s.settleCopy j).writeJobCw j j.cwVal).dropJob j.id)

end Sys2Proof.Machine
end

