-- ==== Sys2Proof/Machine/Events.lean ====
section
/-! DEFINITION. Interrupts and debug (R20, R285, R288, R289), readiness (R14, R298, R299), supply droop (R300), machine
checks (R290), and reset and start-up (R295 to R297). -/

namespace Sys2Proof.Machine

namespace State

/-! ### Interrupts -/

/-- May a strand take an interrupt at this boundary, at which it has stopped since its bundle does not trap (R278, R285)? -/
def interruptDue (s : State) (sid : Nat) : Bool :=
  (s.strand sid).run == .run && (s.strand sid).stopAt.isSome && (s.strand sid).takeable.isEmpty && s.breakable sid &&
    (s.interruptOf sid).isSome

/-- The state after a strand has taken its lowest pending interrupt (R279, R285): its gated stores leave, and EPC is the
bundle at the boundary. -/
def takeInterrupt (s : State) (sid : Nat) : State :=
  match s.interruptOf sid with
  | some i => (s.updStrand sid Strand.release).takeTrap sid ⟨i, 0, false, true⟩ (s.strand sid).pc
  | none => s

/-- Has CYCLE newly reached TCMP (R285)? -/
def timerDue (s : State) (sid : Nat) : Bool :=
  decide ((s.strand sid).tcmp.toNat ≤ s.cycleOf sid) && !(s.strand sid).ipend.getLsbD 1

/-! ### Debug -/

/-- The state with every issue path that has lost its strand in RUN given to the next (R22). -/
def reselectAll (s : State) : State :=
  s.cores.foldl (fun s p =>
    s.reselect (p.1 * 4 + p.2.cur.toNat) ((s.die (dieOfCore p.1)).cycle)) s

/-! ### Readiness (R298, R299) -/

/-- Are n bits of a readiness word from a bit all 1? -/
def allReady (s : State) (word lo n : Nat) : Bool := (List.range n).all (fun i => (s.ready.getD word 0).getLsbD (lo + i))

/-- Oryx or L2 units from unit n of a die that are ready, with the word that holds units 0 to 63 (R299). -/
def slicesReady (s : State) (word die : Nat) : Bool :=
  (List.range 24).all (fun i =>
    let n := die * 24 + i
    if n < 64 then (s.ready.getD word 0).getLsbD n else (s.ready.getD (word + 1) 0).getLsbD (n - 64))


/-- Does a readiness bit exist that a function's own self-test sets? The grouped bits follow from others. -/
def ownBit (word bit : Nat) : Bool :=
  (decide (word < 9) && decide (bit < 64)) || (word == 9 && (decide (bit < 40) || bit == 52 || bit == 53)) ||
    ((word == 10 || word == 11 || word == 13) && decide (bit < 64)) || (word == 12 && decide (bit < 56)) ||
    (word == 14 && decide (bit < 32))

/-- A link's bit: the only kind that returns to 1 (R298). -/
def linkBit (word bit : Nat) : Bool := word == 9 && decide (16 ≤ bit) && decide (bit < 32)

/-- An HBM stack's bit (R298). -/
def stackBit (word bit : Nat) : Bool := word == 9 && decide (4 ≤ bit) && decide (bit < 16)

/-- May a function be used: it has passed its self-test and not failed since, and with a stack every L2 slice of its die is ready,
with a link its router (R298, R299)? -/
def usable (s : State) (word bit : Nat) : Bool :=
  (s.passed.getD word 0).getLsbD bit && !(s.lost.getD word 0).getLsbD bit &&
    (if stackBit word bit then s.slicesReady 13 ((bit - 4) / 3)
     else if linkBit word bit then s.routerReady ((bit - 16) / 4)
     else true)

/-- The state with the bits of READY9 that rest on other units as those units are: stacks, links, and the bits that group several
units of a die (R298, R299). -/
def groupReady (s : State) : State :=
  let s := (List.range 28).foldl (fun s i => s.setReady 9 (4 + i) (s.usable 9 (4 + i))) s
  (List.range 4).foldl (fun s d =>
    ((s.setReady 9 (40 + d) (s.allReady 12 (32 + 4 * d) 4)).setReady 9 (44 + d) (s.allReady 10 (16 * d) 16)).setReady 9
      (48 + d) (s.slicesReady 11 d)) s

/-- The state with a readiness bit fallen to 0, and the vector of R293 where it was 1. -/
def fall (s : State) (word bit : Nat) : State :=
  let was := (s.ready.getD word 0).getLsbD bit
  let s := s.loseBit word bit
  if was then s.send (.msix 69) else s

/-- Does a job need a unit that has failed (R14): a routing job its Springbok and gate SRAM, a collective its Impala, and these and a
densifying copy the HBM stacks that its regions lie in? -/
def unitGone (s : State) (j : Job) : Bool :=
  let off (r : Range) : Bool := !s.isRemote r.pa && (List.range 12).any (fun i =>
    meets (r.pa % 2 ^ 52) r.len (i * 2 ^ 36) (2 ^ 36) && (s.lost.getD 9 0).getLsbD (4 + i))
  match j.kind with
  | .route => (s.lost.getD 9 0).getLsbD (32 + j.die) || (s.lost.getD 12 0).getLsbD (48 + j.die) || (j.reads ++ j.writes).any off
  | .impala => (s.lost.getD 9 0).getLsbD (36 + j.die) || (j.reads ++ j.writes).any off
  | .densify => (j.reads ++ j.writes).any off
  | _ => false

/-- The state with the jobs failed whose unit is gone, as a submission would be (R299); what a copy engine had not made active yet
waits for another (R272); and the threads of a Chamois core off, which counts as closed (R241). The manual does not say what becomes
of work on a unit that fails (DESIGN CHOICE, log 40). -/
def dropUnit (s : State) (word bit : Nat) : State :=
  let s : State := { s with dies := s.dies.map (fun d => { d with jobs := d.jobs.map (fun j =>
    let j := if s.unitGone j && j.failed.isNone then { j with failed := some (failValue 0x12 0) } else j
    if word == 12 && j.kind == .copy && j.phase == .shadow && bit == 32 + j.die * 4 + j.engine then { j with phase := .waiting }
    else j) }) }
  if word != 10 then s
  else
    let mine := (List.range 8).map (fun t => 2048 + bit * 8 + t)
    let s := mine.foldl (fun s t => s.updStrand t (fun st => { st with run := .off, wait := .none, gated := [], loadQ := [] })) s
    (s.updRoute (bit / 16) (fun r => { r with closed := r.closed ++ mine.filter (fun t => !r.closed.contains t) })).closeRound (bit / 16)

/-- The die of an L2 slice's readiness bit. -/
def sliceDie (word bit : Nat) : Nat := ((word - 13) * 64 + bit) / 24

/-! ### Start-up -/

/-- The failure of a start (R296): back to STAGE 1, with a reason; the third leaves minimal mode alone. -/
def failBoot (s : State) (reason : Nat) : State :=
  let f := min 3 (s.boot.fails + 1)
  { s with boot := { s.boot with
      stage := 1, reason := BitVec.ofNat 8 reason, fails := f, min := s.boot.min || decide (f = 3) } }

/-- The ticks of 10 s at 1.05 GHz. -/
def bootTicks : Nat := 10500000000

/-- Why the uploaded image is refused (R295, R296), or 0. -/
def imageFault (s : State) : Nat :=
  let m := s.boot.image
  let len := readBytes m 4 4
  if readBytes m 0 4 != 0x4E4B3936 || decide (8388608 < len) || decide (len < 128) then 0x02
  else
    let digest := Config.shake256 (readBytes m 128 (len - 128)) (len - 128)
    if Config.ed448Verify (readBytes m 8 114) digest then 0 else 0x01

/-- Has no HBM stack of die 0 trained (R296, R298)? -/
def noHbm (s : State) : Bool := (List.range 3).all (fun i => !(s.ready.getD 9 0).getLsbD (4 + i))

/-- The device after a reset that keeps FAILS (R296), with what the outside has decided and seen, the free values used and
the tags given. -/
def restart (s : State) (fails : Nat) : State :=
  { State.reset with
    boot := { State.reset.boot with stage := 1, fails, min := decide (fails = 3) }
    inbox := s.inbox, outbox := s.outbox, free := s.free, nextTag := s.nextTag, now := s.now }

end State

/-- INTERRUPT (R285). -/
def execInterrupt (sid : Nat) (s : State) : Host.Outcome State Fault Refusal :=
  if s.interruptDue sid then .next (s.takeInterrupt sid) else .next s

/-- TIMER_INTERRUPT (R285): TIMER is pending. -/
def execTimerInterrupt (sid : Nat) (s : State) : Host.Outcome State Fault Refusal :=
  if s.timerDue sid then .next (s.setIrq sid 1) else .next s

/-- DEBUG_HALT_REQUEST (R20, R225, R288, R289). -/
def execDebugHaltRequest (sid : Nat) (s : State) : Host.Outcome State Fault Refusal :=
  if (s.strand sid).run = .off then .next s else .next ((s.enterDebug sid).reselectAll)

/-- DEBUG_RESUME (R20, R288). -/
def execDebugResume (sid : Nat) (s : State) : Host.Outcome State Fault Refusal :=
  if (s.strand sid).run = .debug then .next (s.wake sid) else .next s

/-- SELF_TEST_PASS (R298, R299): the function may be used. A bit that has fallen stays 0, a link's too until it is trained again, and
a stack's or link's bit stays 0 while what it rests on is not ready. -/
def execSelfTestPass (word bit : Nat) (s : State) : Host.Outcome State Fault Refusal :=
  if !State.ownBit word bit then .next s
  else
    let s : State := { s with passed := s.passed.setIfInBounds word (setField (s.passed.getD word 0) bit 1 1) }
    .next (s.setReady word bit (s.usable word bit)).groupReady

/-- UNIT_FAILURE (R14, R298, R299): the unit's bit falls; a router takes its links with it, and an L2 slice the HBM stacks of
its die. Words from 15 name the banks of a cluster, whose lines leave the cluster as at a switch (log 40). -/
def execUnitFailure (word bit : Nat) (s : State) : Host.Outcome State Fault Refusal :=
  if 15 ≤ word then
    (if word < 79 && bit < 64 then
      .next ((s.emptyWay (word - 15) bit).setBank (word - 15) bit { s.bank (word - 15) bit with nrdy := true })
     else .next s)
  else if !State.ownBit word bit then .next s
  else
    let s := s.fall word bit
    let s := if word = 12 && 52 ≤ bit then (List.range 4).foldl (fun s p => s.fall 9 (16 + 4 * (bit - 52) + p)) s
      else if word = 13 || word = 14 then
        (List.range 3).foldl (fun s i => s.fall 9 (4 + 3 * State.sliceDie word bit + i)) s
      else s
    .next (s.groupReady.dropUnit word bit)

/-- DROOP_TRIP (R300). -/
def execDroopTrip (die : Nat) (s : State) : Host.Outcome State Fault Refusal :=
  .next (s.updDie die (fun d => { d with
    droops := min (2 ^ 32 - 1) (d.droops + 1), dstep := min 4 (d.dstep + 1), calm := s.now + 1050 }))

/-- DROOP_RECOVERY (R300): 1 µs, which is 1,050 cycles of 1.05 GHz, has passed without a trip. -/
def execDroopRecovery (die : Nat) (s : State) : Host.Outcome State Fault Refusal :=
  let d := s.die die
  if 0 < d.dstep && d.calm ≤ s.now then
    .next (s.updDie die (fun d => { d with dstep := d.dstep - 1, calm := s.now + 1050 }))
  else .next s

/-- MACHINE_CHECK (R290, R296): a strand has consumed bad data, data carries a poison mark, or a start fails. -/
def execMachineCheck (t : McTarget) (s : State) : Host.Outcome State Fault Refusal :=
  match t with
  | .strand sid pa =>
    if (s.strand sid).run = .off then .next s
    else .next (s.updStrand sid (fun st => { st with reports := st.reports ++ [Trap.of 0x3F pa] }))
  | .poison pa size => .next { s with poison := s.poison ++ (List.range size).map (fun i => pa + i) }
  | .start => if s.boot.stage = 2 || s.boot.stage = 3 then .next (s.failBoot 0x06) else .next s

/-- POWER_ON_RESET (R295): every register at its reset value, and the ROM loader at STAGE 1. -/
def execPowerOnReset (s : State) : Host.Outcome State Fault Refusal := .next (s.restart 0)

/-- WARM_RESET (R296): the same, but FAILS survives. -/
def execWarmReset (s : State) : Host.Outcome State Fault Refusal := .next (s.restart s.boot.fails)

/-- BOOT_GO (R295, R296): at STAGE 1 the image is verified; then firmware runs, with 10 s to report, or the start fails. -/
def execBootGo (s : State) : Host.Outcome State Fault Refusal :=
  if s.boot.stage != 1 then .next s
  else if s.imageFault = 0 then .next { s with boot := { s.boot with stage := 3, deadline := s.now + State.bootTicks } }
  else .next (s.failBoot s.imageFault)

/-- BOOT_OK (R295 to R297): firmware at STAGE 3 reports readiness, which leaves minimal mode; without an HBM stack of die 0
the start fails. -/
def execBootOk (s : State) : Host.Outcome State Fault Refusal :=
  if s.boot.stage != 3 then .next s
  else if s.noHbm then .next (s.failBoot 0x05)
  else .next { s with boot := { s.boot with stage := 4, fails := 0, reason := 0, min := false } }

/-- BOOT_FAIL (R295, R296). -/
def execBootFail (s : State) : Host.Outcome State Fault Refusal :=
  if s.boot.stage = 3 then .next (s.failBoot 0x04) else .next s

/-- BOOT_TIMEOUT (R296). -/
def execBootTimeout (s : State) : Host.Outcome State Fault Refusal :=
  if s.boot.stage = 3 && s.boot.deadline ≤ s.now then .next (s.failBoot 0x03) else .next s

/-- What resets, timers and droop sensors have due. -/
def State.timeDue (s : State) : Option Instr :=
  if s.boot.stage = 0 then some .powerOnReset
  else if s.boot.stage = 3 && s.boot.deadline ≤ s.now then some .bootTimeout
  else ((List.range 4).find? (fun d => decide (0 < (s.die d).dstep) && decide ((s.die d).calm ≤ s.now))).map Instr.droopRecovery
    |>.or ((s.strands.find? (fun p => s.timerDue p.1)).map (fun p => Instr.timerInterrupt p.1))

end Sys2Proof.Machine
end

