-- ==== Sys2Proof/Machine/Float.lean ====
section
/-! DEFINITION. The meanings of the scalar floating operations and conversions of the P slot (R358,
R363 to R366). -/

namespace Sys2Proof.Machine

/-- CVTI (R358): between two integer types without a mode; otherwise one step under RS. -/
def execCvti (tt frm : Ty) (sat : Bool) (rnd : Rnd) (sd sa : BitVec 6) (s : State) :
    Host.Outcome State Fault Refusal :=
  let w := s.me.regs.pat frm sa
  if tt.isInt && frm.isInt then
    .next (s.put tt sd (convert tt frm sat .rne false 0 w).1 4)
  else
    let m := s.mode rnd
    let d := s.draw1 m
    let v := convert tt frm sat m s.fz d.1 w
    if tt.isInt then .next (d.2.putF sd ((extendTy tt v.1).toNat, v.2) 4)
    else .next (d.2.putF sd v 4)

/-- FADD (R364). -/
def execFadd (t : Ty) (rnd : Rnd) (sd sa sb : BitVec 6) (s : State) :
    Host.Outcome State Fault Refusal :=
  let r := s.me.regs
  let m := s.mode rnd
  let d := s.draw1 m
  .next (d.2.putF sd (fAdd t m s.fz d.1 (r.pat t sa) (r.pat t sb)) 4)

/-- FMUL (R364). -/
def execFmul (t : Ty) (rnd : Rnd) (sd sa sb : BitVec 6) (s : State) :
    Host.Outcome State Fault Refusal :=
  let r := s.me.regs
  let m := s.mode rnd
  let d := s.draw1 m
  .next (d.2.putF sd (fMul t m s.fz d.1 (r.pat t sa) (r.pat t sb)) 4)

/-- FFMA (R364). -/
def execFfma (t : Ty) (rnd : Rnd) (sd sa sb sc : BitVec 6) (s : State) :
    Host.Outcome State Fault Refusal :=
  let r := s.me.regs
  let m := s.mode rnd
  let d := s.draw1 m
  .next (d.2.putF sd (fFma t m s.fz d.1 (r.pat t sa) (r.pat t sb) (r.pat t sc)) 4)

/-- FCMP (R365). -/
def execFcmp (t : Ty) (cc : Cc) (gd : BitVec 4) (sa sb : BitVec 6) (s : State) :
    Host.Outcome State Fault Refusal :=
  let r := s.me.regs
  let a := flush s.fz (readFloat t (r.pat t sa))
  let b := flush s.fz (readFloat t (r.pat t sb))
  .next (s.putG gd (fCmp cc a b) 4 false)

/-- FCVT (R366). -/
def execFcvt (tt frm : Ty) (rnd : Rnd) (sd sa : BitVec 6) (s : State) :
    Host.Outcome State Fault Refusal :=
  let m := s.mode rnd
  let d := s.draw1 m
  .next (d.2.putF sd (convert tt frm false m s.fz d.1 (s.me.regs.pat frm sa)) 4)

end Sys2Proof.Machine
end

