-- ==== Sys2Proof/Machine/MSlot.lean ====
section
/-! DEFINITION. The strand's side of the matrix unit (R148 to R151, R159, R379, R404, R408, R409, R411, R418), and
power tokens (R161, R162). -/

namespace Sys2Proof.Machine

/-! ### Power tokens -/

/-- The number of a cluster within its die. -/
def clusterIn (clu : Nat) : Nat := clu % 16

/-- The token state of a cluster: is a token held there (R161)? -/
def Die.holdsToken (d : Die) (clu : Nat) : Bool := d.ring.any (fun t => t.1 == clu && t.2.2)

/-- The longest hold in force (R161). -/
def Die.holdCycles (d : Die) : Nat := max 64 d.hold.toNat

namespace State

/-- The routine-table entry of a core's head call: once its routine runs, the entry as it was read at the start (R147). -/
def headEntry (s : State) (core : Nat) : Option Word :=
  match (s.core core).routine, (s.core core).calls with
  | some r, _ => some r.entry
  | none, c :: _ => some ((s.core core).rtent.getD c.idx 0)
  | none, [] => none

/-- Is a core's head call a burst (R161)? -/
def headBurst (s : State) (core : Nat) : Bool :=
  match s.headEntry core with
  | some e => e.getLsbD 63 && e.getLsbD 62
  | none => false

/-- May bursts of a cluster start (R161)? -/
def tokenOk (s : State) (clu : Nat) : Bool :=
  let d := s.die (clu / 16)
  d.tokens == 0 || d.holdsToken (clusterIn clu)

/-- Does a burst routine of a core of the cluster wait or run, or an MPWR request count as one (R161, R162)? -/
def wantsToken (s : State) (clu : Nat) : Bool :=
  (List.range 8).any (fun i => s.headBurst (clu * 8 + i)) ||
    (match (s.die (clu / 16)).mpwr.find (clusterIn clu) with
     | some e => decide ((s.die (clu / 16)).cycle < e)
     | none => false)

/-- The state with the token at a cluster changed, held or not. -/
def updToken (s : State) (clu : Nat) (held : Bool) (f : Nat × Nat × Bool → Nat × Nat × Bool) : State :=
  s.updDie (clu / 16) (fun d =>
    match d.ring.find? (fun t => t.1 == clusterIn clu && t.2.2 == held && decide (t.2.1 ≤ d.cycle)) with
    | some t => { d with ring := d.ring.erase t ++ [f t] }
    | none => d)

/-- The state with the token at a cluster passed on: it leaves in a cycle and takes two to the next (R161). -/
def passToken (s : State) (clu : Nat) (held : Bool) (leaves : Nat) : State :=
  s.updToken clu held (fun t => ((t.1 + 1) % 16, leaves + 2, false))

/-- Has a token that nobody has looked at yet arrived at a cluster? -/
def tokenArrived (s : State) (clu : Nat) : Bool :=
  let d := s.die (clu / 16)
  d.ring.any (fun t => t.1 == clusterIn clu && !t.2.2 && decide (t.2.1 ≤ d.cycle))

/-- Must a held token be passed on: HOLD cycles have passed, or no burst needs it (R161)? -/
def tokenSpent (s : State) (clu : Nat) : Bool :=
  let d := s.die (clu / 16)
  d.ring.any (fun t => t.1 == clusterIn clu && t.2.2 &&
    (decide (t.2.1 + d.holdCycles ≤ d.cycle) || !s.wantsToken clu))

end State

/-- POWER_TOKEN_ARRIVAL (R161): a token reaches a cluster, which keeps it for a burst, or passes it in the next
cycle. -/
def execPowerTokenArrival (cluster : Nat) (s : State) : Host.Outcome State Fault Refusal :=
  if !s.tokenArrived cluster then .next s
  else if s.wantsToken cluster then .next (s.updToken cluster false (fun t => (t.1, t.2.1, true)))
  else .next (s.passToken cluster false ((s.die (cluster / 16)).cycle + 1))

/-- TOKEN_HOLD_EXPIRY (R161): the token of a cluster passes on. -/
def execTokenHoldExpiry (cluster : Nat) (s : State) : Host.Outcome State Fault Refusal :=
  if s.tokenSpent cluster then .next (s.passToken cluster true (s.die (cluster / 16)).cycle) else .next s

/-- MPWR_REQUEST_EXPIRY (R162): the request of MPWR counts no more. -/
def execMpwrRequestExpiry (cluster : Nat) (s : State) : Host.Outcome State Fault Refusal :=
  let d := s.die (cluster / 16)
  match d.mpwr.find (clusterIn cluster) with
  | some e =>
    if e ≤ d.cycle then .next (s.updDie (cluster / 16) (fun d => { d with mpwr := d.mpwr.erase (clusterIn cluster) }))
    else .next s
  | none => .next s

/-! ### The M slot -/

/-- LEND (R159, R379): cause 0x21 while a result in flight targets the bank, or a bank of the core is lent. -/
def execLend (b : BitVec 2) (s : State) : Host.Outcome State Fault Refusal :=
  .next (s.gate (fun s =>
      let busy := s.me.flight.any (fun r => match r.dst with | .v i => bankOf i == b.toNat | _ => false)
      if busy || s.myCore.lent.isSome then some (.trap .precise (Trap.of 0x21 b.toNat)) else none)
    (fun s => s.updCore (coreOf s.cur) (fun c => { c with lent := some (strandIn s.cur, b.toNat) })))

/-- RECLAIM (R159, R418). -/
def execReclaim (s : State) : Host.Outcome State Fault Refusal :=
  .next (s.gate (fun s =>
      let own := match s.myCore.lent with
        | some (st, _) => st == strandIn s.cur
        | none => false
      if !own then some (.trap .precise (Trap.of 0x21 0))
      else if s.myCore.calls.isEmpty then none else some .hold)
    (fun s => s.updCore (coreOf s.cur) (fun c => { c with lent := none })))

/-- MCALL (R148, R404): the call with the strand's m registers joins the queue, which holds four. -/
def execMcall (idx : BitVec 10) (s : State) : Host.Outcome State Fault Refusal :=
  .next (s.gate (fun s => if 4 ≤ s.myCore.calls.length then some .hold else none)
    (fun s => s.updCore (coreOf s.cur) (fun c => { c with
      mstart := if c.calls.isEmpty then s.issue.cycle + 2 else c.mstart
      calls := c.calls ++ [⟨s.cur, idx.toNat, s.me.regs.m, s.issue.seq⟩] })))

/-- MWAIT (R149, R411). -/
def execMwait (n : BitVec 2) (s : State) : Host.Outcome State Fault Refusal :=
  .next (s.gate (fun s => if s.myCore.own s.cur ≤ n.toNat then none else some (.wait (.calls n.toNat))) id)

/-- MSTAT (R149, R409). -/
def execMstat (sd : BitVec 6) (s : State) : Host.Outcome State Fault Refusal :=
  let n := coreOf s.cur
  let c := s.myCore
  let tokw := c.routine.isNone && s.headBurst n && !s.tokenOk (clusterOf n)
  .next (s.putSLock sd (BitVec.ofNat 64 (fields
    [(32, c.gdone % 2 ^ 32), (16, c.fsub), (8, c.own s.cur), (5, c.calls.length), (4, b2n tokw),
     (3, b2n c.lent.isSome), (1, match c.lent with | some (_, b) => b | none => 0),
     (0, b2n c.routine.isSome)])) 3)

/-- MPWR (R162, R408). -/
def execMpwr (sd : BitVec 6) (req : Bool) (s : State) : Host.Outcome State Fault Refusal :=
  let clu := clusterOf (coreOf s.cur)
  let d := s.die (dieOf s.cur)
  let v := fields [(8, d.tokens.toNat), (0, b2n (d.holdsToken (clusterIn clu)))]
  let s := if req then
      s.updDie (dieOf s.cur) (fun d => { d with mpwr := d.mpwr.insert (clusterIn clu) (s.issue.cycle + 1024) })
    else s
  .next (s.putSLock sd (BitVec.ofNat 64 v) 3)

end Sys2Proof.Machine
end

