-- ==== Sys2Proof/Machine/MicroOps.lean ====
section
/-! DEFINITION. The matrix unit (R78, R141 to R163, R224, R386 to R401): routines, their thirteen micro-ops, passes of
tiles over sweeps, block partials, the epilogue and routine faults. A micro-op acts whole in the cycle in which it
issues; the cycles of R163 say when the next may issue. -/

namespace Sys2Proof.Machine

/-! ### A routine's state -/

/-- A parameter of R153. -/
def Routine.par (r : Routine) (i : Nat) : Nat := r.params.getD i 0

/-- A stride: a parameter read as signed (log 22). -/
def Routine.stride (r : Routine) (i : Nat) : Int := sintN 32 (r.par i)

/-- The zero-based iteration of a loop level, 0 where it is not active (R154). -/
def iterOf : Option MLoop → Nat
  | some l => l.iter
  | none => 0

/-- The offset of the group for PA, PB, PO and PR, numbers 0 to 3 (R154, R157). -/
def Routine.groupOff (r : Routine) (k : Nat) : Nat :=
  match r.group with
  | none => 0
  | some g => [g.aoff, g.boff, g.ooff, g.roff].getD k 0

/-- PA, PB, PO or PR (parameter p, number k) under R154: base, group offset and the terms of the active loops. -/
def Routine.addr (r : Routine) (p k : Nat) : Int :=
  (r.par p : Int) + r.groupOff k + iterOf r.loop0 * r.stride (10 + k) + iterOf r.loop1 * r.stride (14 + k)

/-- RTENT.FZ of the routine (R147). -/
def Routine.fz (r : Routine) : Bool := r.entry.getLsbD 61
/-- RTENT.RM of the routine (R147). -/
def Routine.rm (r : Routine) : Mode := modeOfCode (bitsN r.entry.toNat 58 3)
/-- The first word and the word past the last of a table entry (R147). -/
def entryRange (e : Word) : Nat × Nat :=
  let len := bitsN e.toNat 16 12
  let start := bitsN e.toNat 0 12
  (start, start + if len = 0 then 4096 else len)

/-- GEO: KB (R153). -/
def Routine.kb (r : Routine) : Nat := r.par 0 % 65536 + 1
/-- The width of a code of GEO (R153). -/
def widthOf (c : Nat) : Nat := [4, 6, 8, 16].getD c 0
/-- GEO: the A width. -/
def Routine.wa (r : Routine) : Nat := widthOf (bitsN (r.par 0) 16 2)
/-- GEO: the B width. -/
def Routine.wb (r : Routine) : Nat := widthOf (bitsN (r.par 0) 18 2)
/-- GEO: N, 48 for dense (R153). -/
def Routine.nOf (r : Routine) : Nat := [48, 8, 12, 16, 24, 32].getD (bitsN (r.par 0) 20 3) 0
/-- KLEN (R153). -/
def Routine.klen (r : Routine) : Nat := r.par 1

/-- The pairs of R141: Kt, r and Lb. -/
def pairOf (wa wb : Nat) : Option (Nat × Nat × Nat) :=
  if wa = 4 && wb = 4 then some (512, 1, 8)
  else if wa = 6 && wb = 4 then some (256, 1, 4)
  else if wa = 8 && wb = 4 then some (256, 1, 4)
  else if wa = 6 && wb = 6 then some (192, 1, 5)
  else if wa = 8 && wb = 6 then some (128, 1, 3)
  else if wa = 8 && wb = 8 then some (128, 1, 4)
  else if wa = 16 && wb = 8 then some (128, 2, 4)
  else if wa = 16 && wb = 16 then some (128, 4, 8)
  else none

/-- The rows of a rows operand (R155): 0 means the group's ROWS. -/
def Routine.rowsOf (r : Routine) (rows : BitVec 8) : Option Nat :=
  if rows = 0 then r.group.map (·.rows) else some rows.toNat

/-- An outer loop's level at the end of a word, then the next word (R156). -/
def Routine.seqOuter (r : Routine) (pc : Nat) : Routine :=
  match r.loop0 with
  | some l =>
    if l.last = pc then
      (if l.iter + 1 < l.count then { r with loop0 := some { l with iter := l.iter + 1 }, word := l.first }
       else { r with loop0 := none, word := pc + 1 })
    else { r with word := pc + 1 }
  | none => { r with word := pc + 1 }

/-- The routine at the word after pc, loop-backs included (R156). -/
def Routine.seqFrom (r : Routine) (pc : Nat) : Routine :=
  match r.loop1 with
  | some l =>
    if l.last = pc then
      (if l.iter + 1 < l.count then { r with loop1 := some { l with iter := l.iter + 1 }, word := l.first }
       else { r with loop1 := none }.seqOuter pc)
    else r.seqOuter pc
  | none => r.seqOuter pc

namespace State

/-- The cycle of the die of the core whose matrix unit acts. -/
def mcycle (s : State) : Nat := (s.die (dieOfCore s.mcore)).cycle

/-- The state with the running routine of that core changed. -/
def updRoutine (s : State) (f : Routine → Routine) : State :=
  s.updCore s.mcore (fun c => { c with routine := c.routine.map f })

/-- What a micro-op does with the routine that runs; nothing where none does. -/
def withRoutine (s : State) (f : Routine → State) : State :=
  match (s.core s.mcore).routine with
  | some r => if r.ended then s else f r
  | none => s

/-- ROUTINE_FAULT (R160): the unit stops the routine, the call leaves the queue and its strand takes the cause. Its TVAL names the
word of the routine; a call whose entry is bad (subcode 0x01) has fetched none, and TVAL then names START of the entry (DESIGN
CHOICE, log 42). -/
def routineFault (s : State) (core cause sub lq : Nat) : State :=
  let s := s.settleRoutine core
  let c := s.core core
  match c.calls with
  | [] => s.updCore core (fun c => { c with routine := none, fsub := sub })
  | k :: rest =>
    let word := match c.routine with
      | some r => r.word
      | none => (entryRange (c.rtent.getD k.idx 0)).1
    let t : Trap := Trap.of cause (fields [(36, lq), (24, k.idx), (16, sub), (0, word % 4096)])
    (s.updCore core (fun c => { c with
      routine := none, calls := rest, fsub := sub, mstart := (s.die (dieOfCore core)).cycle + 2 })).updStrand k.sid
      (fun st => { st with reports := st.reports ++ [t] })

/-- A routine fault of the acting unit with cause 0x20. -/
def mFault (s : State) (sub : Nat) : State := s.routineFault s.mcore 0x20 sub 0

/-- The micro-op waits: it issues again in a cycle. -/
def mStall (s : State) (t : Nat) : State := s.updRoutine (fun r => { r with next := max t (s.mcycle + 1) })

/-- The micro-op is done; the next may issue in a cycle. -/
def mNext (s : State) (t : Nat) : State := s.updRoutine (fun r => { r.seqFrom r.word with next := t, part := 0 })

/-- The local address of an offset of the core's tile memory, if n bytes lie within (R154). -/
def tileAt (s : State) (off : Int) (n : Nat) : Option Nat :=
  if 0 ≤ off && off + n ≤ 2 ^ 21 then some (tileBase + s.mcore * 2 ^ 21 + off.toNat) else none

/-- The local address of an offset of the core's weight-stack slice, if n bytes lie within (R154). -/
def sliceAt (s : State) (off : Int) (n : Nat) : Option Nat :=
  if 0 ≤ off && off + n ≤ 2 ^ 23 then some (weightBase + s.mcore * 2 ^ 23 + off.toNat) else none

/-- The state after the acting unit has read bytes (local address and number) for the strand of its call: where they are poisoned,
that strand takes 0x3F with their address (R290; DEDUCED, log 42: the routine goes on). -/
def meetPoison (s : State) (l : List (Option Nat × Nat)) : State :=
  match (s.core s.mcore).calls with
  | k :: _ => l.foldl (fun s x => match x.1 with
      | some a => s.poisonReport k.sid a x.2
      | none => s) s
  | [] => s

/-- Bytes of tile memory as the acting unit reads them: those that a store has met since the routine started are free
(R150). -/
def readTile (s : State) (a n : Nat) : Nat := overlaid (s.tileStored s.mcore) a n (s.readMem a n)

/-- The state with bytes of tile memory written by the acting unit. -/
def writeTile (s : State) (a n v : Nat) : State :=
  let s := s.writeSram a n v
  { s with clashes := .wrote s.mcore a n :: s.clashes }

/-- A word of the core's microprogram store (R147). -/
def mword (s : State) (core i : Nat) : Nat := s.readMem (mstoreBase + core * 2 ^ 15 + 8 * i) 8

/-- An accumulator element as its `.f32` pattern (R146). -/
def accAt (s : State) (cb i j : Nat) : Nat :=
  ((s.core s.mcore).acc.getD (cb * 16384 + i * 128 + j) 0).toNat

/-- The call copy of an m register, 0 for MS = 8 (R153). -/
def callM (s : State) (ms : Nat) : Nat :=
  if ms = 8 then 0
  else match (s.core s.mcore).calls with
    | k :: _ => (k.m.getD ms 0).toNat
    | [] => 0

end State

/-! ### Parameters, maps, epilogue, loops and groups -/

/-- M.PSET (R153, R399). -/
def execMPset (tgt : BitVec 5) (ms : BitVec 4) (imm : BitVec 32) (s : State) :
    Host.Outcome State Fault Refusal :=
  .next (s.withRoutine (fun _ =>
    if 17 < tgt.toNat || 8 < ms.toNat then s.mFault 0x02
    else
      let v := (s.callM ms.toNat + (imm.signExtend 64).toNat) % 2 ^ 32
      if tgt = 0 && (v / 2 ^ 23 != 0 || 5 < bitsN v 20 3) then s.mFault 0x04
      else (s.updRoutine (fun r => { r with params := r.params.setIfInBounds tgt.toNat v })).mNext s.mcycle))

/-- The bits set in a word. -/
def popN (w n : Nat) : Nat := ((List.range n).filter (bitN w)).length

/-- M.SEL (R145, R400). -/
def execMSel (word g : BitVec 12) (s : State) : Host.Outcome State Fault Refusal :=
  .next (s.withRoutine (fun r =>
    let w := word.toNat
    let n := r.nOf
    if g = 0 then
      (if n = 48 then (s.updRoutine (fun r => { r with map := none })).mNext s.mcycle else s.mFault 0x05)
    else if n = 48 || 4096 < w + g.toNat ||
        (List.range g.toNat).any (fun i => popN (s.mword s.mcore (w + i)) 48 != n || 2 ^ 48 ≤ s.mword s.mcore (w + i))
    then s.mFault 0x05
    else ((s.updRoutine (fun r => { r with map := some (w, g.toNat), maps := (w, g.toNat) :: r.maps })).clashMap s.mcore w
      g.toNat).mNext s.mcycle))

/-- M.EPI (R158, R394). -/
def execMEpi (scl bias clamp gate : Bool) (fmt : BitVec 3) (sc bi cl : BitVec 4) (s : State) :
    Host.Outcome State Fault Refusal :=
  .next (s.withRoutine (fun _ =>
    if 4 < fmt.toNat then s.mFault 0x02
    else if (scl && sc == 15) || (bias && bi == 15) then s.mFault 0x0A
    else (s.updRoutine (fun r => { r with
      epi := ⟨scl, bias, clamp, gate, fmt.toNat, sc.toNat, bi.toNat, cl.toNat⟩ })).mNext s.mcycle))

/-- M.LOOP (R156, R396). -/
def execMLoop (lvl : BitVec 1) (ms : BitVec 4) (len : BitVec 12) (imm : BitVec 32) (s : State) :
    Host.Outcome State Fault Refusal :=
  .next (s.withRoutine (fun r =>
    let fin := r.word + len.toNat
    let count := (s.callM ms.toNat + imm.toNat) % 2 ^ 32
    let l : MLoop := ⟨r.word + 1, fin, 0, count⟩
    let badGroup := match r.group with
      | some g => decide (g.last ≤ fin)
      | none => false
    if 8 < ms.toNat || len = 0 then s.mFault 0x02
    else if lvl = 0 then
      (if r.loop0.isSome || r.loop1.isSome || badGroup then s.mFault 0x09
       else if count = 0 then s.updRoutine (fun r => { r.seqFrom fin with next := s.mcycle })
       else s.updRoutine (fun r => { r with loop0 := some l, word := r.word + 1, next := s.mcycle }))
    else match r.loop0 with
      | none => s.mFault 0x09
      | some o =>
        if r.loop1.isSome || o.last < fin || badGroup then s.mFault 0x09
        else if count = 0 then s.updRoutine (fun r => { r.seqFrom fin with next := s.mcycle })
        else s.updRoutine (fun r => { r with loop1 := some l, word := r.word + 1, next := s.mcycle })))

namespace State

/-- The first M.NEXTG at or after a word of a routine that ends before `fin` (R395). -/
def findNextg (s : State) (core : Nat) : Nat → Nat → Nat
  | 0, w => w
  | n + 1, w => if bitsN (s.mword core w) 58 6 = 0x0A then w else findNextg s core n (w + 1)

/-- The state with the entry of a group read and its body entered, or, with no rows, its M.NEXTG (R157, R398). -/
def startGroup (s : State) (g : MGroup) : State :=
  match s.tileAt ((g.table : Int) + 32 * g.n) 32 with
  | none => s.mFault 0x07
  | some a =>
    let e := s.readMem a 32
    let s := s.meetPoison [(some a, 32)]
    let f (i : Nat) : Nat := bitsN e (32 * i) 32
    let g := { g with rows := f 0, aoff := f 1, boff := f 2, ooff := f 3, roff := f 4 }
    if 128 < g.rows then s.mFault 0x08
    else if g.rows = 0 then
      s.updRoutine (fun r => { r with group := some g, word := g.last, next := s.mcycle + 1, part := 0 })
    else s.updRoutine (fun r => { r with group := some g, word := g.first, next := s.mcycle + 2, part := 0 })

end State

/-- M.GRP (R157, R395). A table whose address lies past tile memory faults with subcode 0x07 even where it has no entries
(DESIGN CHOICE, log 42): R395 states the check of the table, R157 the skip of the body. -/
def execMGrp (ms : BitVec 4) (mc : BitVec 3) (imm : BitVec 32) (s : State) :
    Host.Outcome State Fault Refusal :=
  .next (s.withRoutine (fun r =>
    let tbl := (s.callM ms.toNat + (imm.signExtend 64).toNat) % 2 ^ 32
    let cnt := s.callM mc.toNat % 65536
    let stop := (entryRange r.entry).2
    let last := s.findNextg s.mcore (stop - (r.word + 1)) (r.word + 1)
    let badLoop := [r.loop0, r.loop1].any (fun l => match l with
      | some l => decide (l.last < last)
      | none => false)
    if 8 < ms.toNat then s.mFault 0x02
    else if r.group.isSome then s.mFault 0x09
    else if tbl % 32 != 0 then s.mFault 0x0E
    else if 2 ^ 21 < tbl + 32 * cnt then s.mFault 0x07
    else if badLoop then s.mFault 0x09
    else if cnt = 0 then s.updRoutine (fun r => { r.seqFrom last with next := s.mcycle })
    else s.startGroup ⟨r.word + 1, last, tbl, cnt, 0, 0, 0, 0, 0, 0⟩))

/-- M.NEXTG (R157, R398). -/
def execMNextg (s : State) : Host.Outcome State Fault Refusal :=
  .next (s.withRoutine (fun r =>
    match r.group with
    | none => s.mFault 0x09
    | some g =>
      let s := s.updCore s.mcore (fun c => { c with gdone := (c.gdone + 1) % 2 ^ 32 })
      if g.n + 1 < g.count then s.startGroup { g with n := g.n + 1 }
      else (s.updRoutine (fun r => { r with group := none })).mNext s.mcycle))

/-! ### Loads and passes -/

/-- M.BLD (R142, R390): the tile goes to the back buffer in Lb cycles. -/
def execMBld (imm : BitVec 32) (s : State) : Host.Outcome State Fault Refusal :=
  .next (s.withRoutine (fun r =>
    match pairOf r.wa r.wb with
    | none => s.mFault 0x04
    | some (kt, _, lb) =>
      let off := r.addr 5 1 + imm.toInt
      if off % 64 != 0 then s.mFault 0x0E
      else match s.sliceAt off (16 * kt * r.wb) with
        | none => s.mFault 0x07
        | some a =>
          if r.bld != 0 then s.mStall r.bld
          else
            let t : Tile := ⟨off.toNat, 16 * kt * r.wb, s.readMem a (16 * kt * r.wb)⟩
            let fin := s.mcycle + lb
            ((s.meetPoison [(some a, t.len)]).updRoutine (fun r => { r with back := some t, bld := fin, fin := max r.fin fin })).mNext
              (s.mcycle + 1)))

/-- BLD_COMPLETE (R163): the load of a B tile ends. -/
def execBldComplete (core : Nat) (s : State) : Host.Outcome State Fault Refusal :=
  match (s.core core).routine with
  | some r =>
    if r.bld != 0 && r.bld ≤ (s.die (dieOfCore core)).cycle
    then .next (s.updCore core (fun c => { c with routine := some { r with bld := 0 } }))
    else .next s
  | none => .next s

/-- M.AIN (R389): a sweep opens, its K position and every P of the bank 0. -/
def execMAin (cb : BitVec 3) (rows : BitVec 8) (z : Bool) (src : MSrc) (s : State) :
    Host.Outcome State Fault Refusal :=
  .next (s.withRoutine (fun r =>
    if 128 < rows.toNat then s.mFault 0x02
    else match r.rowsOf rows with
    | none => s.mFault 0x09
    | some m =>
      let b := cb.toNat
      if s.mcycle < r.outs.getD b 0 then s.mStall (r.outs.getD b 0)
      else
        let s := s.updCore s.mcore (fun c => { c with
          psum := setRange c.psum (b * 16384) 16384 0 (fun _ => 0)
          acc := if z then setRange c.acc (b * 16384) (128 * m) 0 (fun _ => 0) else c.acc })
        (s.updRoutine (fun r => { r with sweeps := r.sweeps.insert b ⟨m, src, 0, []⟩ })).mNext s.mcycle))

/-- The logical K of each present row of a map's groups (R144). -/
def State.mapRows (s : State) (w g : Nat) : List (List Nat) :=
  (List.range g).map (fun i => (List.range 48).filter (bitN (s.mword s.mcore (w + i))))

/-- The logical K of a compressed row (R144): none where its group lies past the last word of the map (R145, R397). -/
def logicalK (map : Option (Nat × List (List Nat))) (c : Nat) : Option Nat :=
  match map with
  | none => some c
  | some (n, rows) =>
    let g := c / n
    if g < rows.length then some (48 * g + (rows.getD g []).getD (c % n) 0) else none

/-- The first logical K that the compressed rows below c do not reach, absent rows before row c included: the K of row c, or,
past the last word of the map, the end of its last group (R144, R146). -/
def nextK (map : Option (Nat × List (List Nat))) (c : Nat) : Nat :=
  (logicalK map c).getD (48 * ((map.map (fun m => m.2.length)).getD 0))

/-- c plus the partial of a block (R78, R146): the sum P of the block's products and the two scales. With FZ the flush test is
made on the exact value of the partial, in RoundTo (R68, R78), not once more on its rounded value (DESIGN CHOICE, log 42). -/
def addBlock (fz : Bool) (wa wb xa xb : Nat) (p : Int) (c : Nat) : Nat :=
  let part : Nat :=
    if xa = 255 || xb = 255 then canonNaN .f32
    else (roundTo .f32 .rne fz 0
      (.fin (decide (p < 0)) p.natAbs (((xa + xb : Nat) : Int) - 254 - (wa - 2) - (wb - 2)) false)).1
  (finishFloat .f32 .rne fz 0 (addNum .rne (readFloat .f32 c) (readFloat .f32 part))).1

/-- What a pass needs to know of its tile: the widths, the logical K of each compressed row, KLEN, KB, the block of the first K
it reaches, the first block that it leaves open, the logical K from `start` to before `stop` that it reads of each A row (R144),
and the B tile. -/
structure Pass where
  fz : Bool
  wa : Nat
  wb : Nat
  kt : Nat
  ks : List Nat
  klen : Nat
  kb : Nat
  from_ : Nat
  upto : Nat
  start : Nat
  stop : Nat
  tile : Nat

/-- The products of a row and a column in a block (R78): `a` gives the element of the row at a logical K. -/
def Pass.blockSum (p : Pass) (a : Nat → Int) (j b : Nat) : Int :=
  (p.ks.zipIdx.map (fun (k, q) =>
    if k < p.klen && k / p.kb = b then a k * sintN p.wb (bitsN p.tile ((j * p.kt + q) * p.wb) p.wb) else 0)).foldl
    (· + ·) 0

/-- An element after a pass (R146): its value and its P. The blocks whose last K the pass reaches close, one after the other: each
adds its partial and clears P. A block of a sparse sweep of which no row is present closes so too, with the partial of a sum of 0
and its two scales (DESIGN CHOICE, log 42: it has no last product). Where a parameter that an M.PSET has changed within the sweep
moves the blocks, P goes with the block that is open (DESIGN CHOICE, log 42). -/
def Pass.element (p : Pass) (a : Nat → Int) (xa : Nat → Nat) (xb : Nat → Nat) (j c : Nat) (ps : Int) :
    Nat × Int :=
  (List.range (p.upto - p.from_)).foldl (fun (c, ps) n =>
      let b := p.from_ + n
      (addBlock p.fz p.wa p.wb (xa b) (xb b) (ps + p.blockSum a j b) c, 0)) (c, ps)
    |> fun (c, ps) => (c, ps + if p.upto * p.kb < p.klen then p.blockSum a j p.upto else 0)

namespace State

/-- The state after the rows `lo` to `lo + n - 1` of a bank have met a pass. -/
def passRows (s : State) (p : Pass) (cb lo n : Nat) (a : Nat → Nat → Int) (xa : Nat → Nat → Nat)
    (xb : Nat → Nat → Nat) : State :=
  let base := cb * 16384 + lo * 128
  let c := s.core s.mcore
  let f (x : Nat) : Nat × Int :=
    let i := lo + x / 128
    let j := x % 128
    p.element (a i) (xa i) (fun b => xb b j) j (s.accAt cb i j) (c.psum.getD (base + x) 0)
  s.updCore s.mcore (fun c => { c with
    acc := setRange c.acc base (128 * n) 0 (fun x => BitVec.ofNat 32 (f x).1)
    psum := setRange c.psum base (128 * n) 0 (fun x => (f x).2) })

/-- What a queue's strip meets before a routine may use it (R214, R224): the cause and subcode, if any. -/
def lqFault (s : State) (role : LqRole) (q : Nat) : Option (Nat × Nat) :=
  let x := s.lqOf s.mcore q
  let owner := match (s.core s.mcore).calls with
    | k :: _ => ownerOf k.sid
    | [] => 0
  if x.role != role || x.owner != owner || x.closing then some (0x18, 0x0C)
  else if x.down then some (0x1A, 0x0F)
  else none

/-- The state with a pass over the open sweep of a bank done (R163, R397). -/
def endPass (s : State) (cb rows cost kt : Nat) : State :=
  let t := s.mcycle
  (s.updRoutine (fun r => { r with
    sweeps := match r.sweeps.find cb with
      | some w => r.sweeps.insert cb { w with kpos := w.kpos + kt }
      | none => r.sweeps
    array := t + rows * cost, done := r.done.insert cb (t + rows * cost + 139)
    fin := max r.fin (t + rows * cost + 140) })).mNext t

end State

/-- The bytes that a pass reads for the scales of its closing blocks (R142, R143): where they lie, if they do, and how many. -/
def State.scaleBytes (s : State) (r : Routine) (p : Pass) (rows : Nat) (tileScales : Bool) : List (Option Nat × Nat) :=
  (List.range (p.upto - p.from_)).flatMap (fun n =>
    let b := p.from_ + n
    (s.sliceAt ((r.par 6 : Int) + 128 * b) 128, 128) ::
      (if tileScales then [(s.tileAt ((r.par 4 : Int) + 128 * b) rows, rows)] else []))

/-- Do scales that a pass reads lie past their memory (R154)? -/
def State.scaleFault (s : State) (r : Routine) (p : Pass) (rows : Nat) (tileScales : Bool) : Bool :=
  (s.scaleBytes r p rows tileScales).any (fun x => x.1.isNone)

/-- The pass of a sweep, once the front tile is there: a fault subcode, or what it needs (R144 to R146, R397). -/
def State.planPass (s : State) (r : Routine) (w : Sweep) (tile : Nat) (kt : Nat) : Except Nat Pass :=
  let n := r.nOf
  let map := r.map.map (fun m => (n, s.mapRows m.1 m.2))
  let popOk := match r.map with
    | some m => n != 48 && popN (s.mword s.mcore m.1) 48 == n
    | none => n == 48
  if !popOk then .error 0x05
  else
    let ks := (List.range kt).map (fun q => logicalK map (w.kpos + q))
    if ks.any Option.isNone then .error 0x05
    else
      let start := if w.kpos = 0 then 0 else nextK map w.kpos
      let nk := nextK map (w.kpos + kt)
      let closed (k : Nat) : Nat := if r.klen ≤ k then (r.klen + r.kb - 1) / r.kb else k / r.kb
      .ok { fz := r.fz, wa := r.wa, wb := r.wb, kt, ks := ks.map (·.getD 0), klen := r.klen, kb := r.kb
            from_ := closed start, upto := closed nk, start, stop := min r.klen nk, tile }

/-- The elements and bytes of a group of packed elements: four in 3 bytes for `.mx6`, two in a byte for `.mx4` (R64). -/
def packGroup (w : Nat) : Nat × Nat :=
  if w = 6 then (4, 3) else if w = 4 then (2, 1) else (1, w / 8)

/-- A pass whose A rows lie in tile memory (R143, R397): of each row it reads the whole groups (R64) that hold the K from
`start` to before `stop`, absent rows included (R144). -/
def State.passTile (s : State) (r : Routine) (w : Sweep) (cb : Nat) (p : Pass) (cost : Nat) : State :=
  let (ge, gb) := packGroup p.wa
  let lo := p.start / ge * gb
  let n := (p.stop + ge - 1) / ge * gb - lo
  let base (i : Nat) : Int := r.addr 2 0 + i * r.par 3 + lo
  if n != 0 && (List.range w.rows).any (fun i => (s.tileAt (base i) n).isNone) then s.mFault 0x07
  else if s.scaleFault r p w.rows true then s.mFault 0x07
  else
    let rowBits := (List.range w.rows).map (fun i => s.readTile ((s.tileAt (base i) n).getD 0) n)
    let a (i k : Nat) : Int := sintN p.wa (bitsN (rowBits.getD i 0) (k * p.wa - 8 * lo) p.wa)
    let xa (i b : Nat) : Nat := s.readTile ((s.tileAt ((r.par 4 : Int) + 128 * b + i) 1).getD 0) 1
    let xb (b j : Nat) : Nat := s.readMem ((s.sliceAt ((r.par 6 : Int) + 128 * b + j) 1).getD 0) 1
    let rows := (List.range w.rows).map (fun i => (s.tileAt (base i) n, n))
    ((s.meetPoison (rows ++ s.scaleBytes r p w.rows true)).passRows p cb 0 w.rows a xa xb).endPass cb w.rows cost p.kt

/-- The header of a strip (R219): FMT, ROWS, ROW0, KOFF and KCNT. -/
def stripHdr (v : Nat) : Nat × Nat × Nat × Nat × Nat :=
  (bitsN v 0 8, bitsN v 8 8, bitsN v 16 8, bitsN v 32 32, bitsN v 64 32)

/-- A pass whose A rows come from a link queue (R224): the rows of one strip at a time. -/
def State.passQueue (s : State) (r : Routine) (w : Sweep) (cb q : Nat) (p : Pass) (cost : Nat) : State :=
  match s.lqFault .rx q with
  | some (cause, sub) => s.routineFault s.mcore cause sub q
  | none =>
    let x := s.lqOf s.mcore q
    if w.rows ≤ r.part then s.endPass cb w.rows cost p.kt
    else if !x.complete x.count then s.mStall (s.mcycle + 1)
    else
      let v := s.headStrip s.mcore q
      let (fmt, n, row0, koff, kcnt) := stripHdr v
      let rb := (p.kt * p.wa + 7) / 8
      if r.nOf != 48 || p.kb % p.kt != 0 || fmt != bitsN (r.par 0) 16 2 + 1 || kcnt != p.kt || row0 != r.part ||
          koff != w.kpos || n = 0 || w.rows < r.part + n || 3840 < n * rb
      then s.routineFault s.mcore 0x20 0x06 q
      else if s.scaleFault r p w.rows false then s.mFault 0x07
      else
        let scales := if koff % p.kb = 0
          then (List.range n).foldl (fun m i => m.insert (row0 + i) (bitsN v (1024 + 8 * i) 8)) w.scales
          else w.scales
        let a (i k : Nat) : Int := sintN p.wa (bitsN v (2048 + 8 * rb * (i - row0) + (k - w.kpos) * p.wa) p.wa)
        let xb (b j : Nat) : Nat := s.readMem ((s.sliceAt ((r.par 6 : Int) + 128 * b + j) 1).getD 0) 1
        let strip := (some (s.lqBuf s.mcore q x.count), 256 + n * rb)
        let s := ((s.meetPoison (strip :: s.scaleBytes r p w.rows false)).passRows p cb row0 n a (fun i _ => scales.getD i 0) xb).popStrip s.mcore q
        let s := s.updRoutine (fun r => { r with part := row0 + n, sweeps := r.sweeps.insert cb { w with scales } })
        if row0 + n = w.rows then s.endPass cb w.rows cost p.kt else s.mStall (s.mcycle + 1)

/-- M.MAC (R397). -/
def execMMac (cb : BitVec 3) (s : State) : Host.Outcome State Fault Refusal :=
  .next (s.withRoutine (fun r =>
    match r.sweeps.find cb.toNat with
    | none => s.mFault 0x0D
    | some w =>
      if r.bld != 0 then s.mStall r.bld
      else
        let front := r.back.or r.front
        match front with
        | none => s.mFault 0x0B
        | some t =>
          match pairOf r.wa r.wb with
          | none => s.mFault 0x04
          | some (kt, cost, _) =>
            if s.mcycle < r.array then s.mStall r.array
            else
              let s := s.updRoutine (fun r => { r with front, back := none })
              match s.planPass r w t.data kt with
              | .error sub => s.mFault sub
              | .ok p =>
                match w.src with
                | .tile => s.passTile r w cb.toNat p cost
                | .lq q => s.passQueue r w cb.toNat q.toNat p cost))

/-! ### Rows in and out -/

namespace State

/-- The state with row i of a bank loaded from 512 bytes, and its P cleared (R391). -/
def loadRow (s : State) (cb i v : Nat) : State :=
  let base := cb * 16384 + i * 128
  s.updCore s.mcore (fun c => { c with
    acc := setRange c.acc base 128 0 (fun j => BitVec.ofNat 32 (v / 2 ^ (32 * j)))
    psum := setRange c.psum base 128 0 (fun _ => 0) })

end State

/-- M.CIN from tile memory (R391). -/
def State.cinTile (s : State) (r : Routine) (cb m : Nat) : State :=
  let a (i : Nat) : Int := r.addr 7 2 + i * r.par 8
  if (List.range m).any (fun i => a i % 4 != 0) then s.mFault 0x0E
  else if (List.range m).any (fun i => (s.tileAt (a i) 512).isNone) then s.mFault 0x07
  else
    let s := (s.meetPoison ((List.range m).map (fun i => (s.tileAt (a i) 512, 512))))
    let s := (List.range m).foldl (fun s i => s.loadRow cb i (s.readTile ((s.tileAt (a i) 512).getD 0) 512)) s
    let t := s.mcycle + m + 4
    (s.updRoutine (fun r => { r with done := r.done.insert cb (max (t - 1) (r.done.getD cb 0)), fin := max r.fin t })).mNext
      (s.mcycle + 1)

/-- M.CIN from a link queue (R224, R391): the rows of one strip at a time. -/
def State.cinQueue (s : State) (r : Routine) (cb m q : Nat) : State :=
  match s.lqFault .rx q with
  | some (cause, sub) => s.routineFault s.mcore cause sub q
  | none =>
    let x := s.lqOf s.mcore q
    if m ≤ r.part then s.mNext (s.mcycle + 1)
    else if !x.complete x.count then s.mStall (s.mcycle + 1)
    else
      let v := s.headStrip s.mcore q
      let (fmt, n, row0, koff, kcnt) := stripHdr v
      if fmt != 5 || kcnt != 128 || koff != 0 || row0 != r.part || n = 0 || 7 < n || m < r.part + n
      then s.routineFault s.mcore 0x20 0x06 q
      else
        let s := s.meetPoison [(some (s.lqBuf s.mcore q x.count), 256 + 512 * n)]
        let s := (List.range n).foldl (fun s i => s.loadRow cb (row0 + i) (bitsN v (2048 + 4096 * i) 4096)) (s.popStrip s.mcore q)
        let s := s.updRoutine (fun r => { r with part := row0 + n })
        if row0 + n = m then s.mNext (s.mcycle + 1) else s.mStall (s.mcycle + 1)

/-- M.CIN (R391). -/
def execMCin (cb : BitVec 3) (rows : BitVec 8) (src : MSrc) (s : State) :
    Host.Outcome State Fault Refusal :=
  .next (s.withRoutine (fun r =>
    if 128 < rows.toNat then s.mFault 0x02
    else match r.rowsOf rows with
    | none => s.mFault 0x09
    | some m =>
      if s.mcycle < r.outs.getD cb.toNat 0 then s.mStall (r.outs.getD cb.toNat 0)
      else match src with
        | .tile => s.cinTile r cb.toNat m
        | .lq q => s.cinQueue r cb.toNat m q.toNat))

/-- The formats of the epilogue (R158): type, bytes and strip FMT (R224). -/
def epiFmt (f : Nat) : Ty × Nat × Nat :=
  match f with
  | 0 => (.f32, 4, 5) | 1 => (.bf16, 2, 6) | 2 => (.f16, 2, 7) | 3 => (.e4m3, 1, 8) | _ => (.e5m2, 1, 9)

/-- x * y in `.f32`, with the flush test of the routine (R158). -/
def epiMul (fz : Bool) (a b : Nat) : Nat :=
  (finishFloat .f32 .rne fz 0 (mulNum (readFloat .f32 a) (readFloat .f32 b))).1

/-- x + y in `.f32`, with the flush test of the routine (R158). -/
def epiAdd (fz : Bool) (a b : Nat) : Nat :=
  (finishFloat .f32 .rne fz 0 (addNum .rne (readFloat .f32 a) (readFloat .f32 b))).1

/-- An element through the steps of the epilogue (R158), before its last rounding. -/
def epiSteps (e : Epilogue) (fz : Bool) (y scale bias lo hi gate : Nat) : Nat :=
  let nan (x : Nat) : Bool := (readFloat .f32 x).isNaN
  let y := if e.scl then epiMul fz y scale else y
  let y := if e.bias then epiAdd fz y bias else y
  let y := if e.clamp && !nan y && !nan lo then fMaxMin .f32 true false y lo else y
  let y := if e.clamp && !nan y && !nan hi then fMaxMin .f32 false false y hi else y
  if e.gate then epiMul fz y gate else y

/-- The elements of a row rounded to a format, low first, with the generator after them (R72, R158). -/
def roundRow (t : Ty) (m : Mode) (fz : Bool) : BitVec 32 → List Nat → List Nat × BitVec 32
  | g, [] => ([], g)
  | g, y :: rest =>
    let d := if m = .rs then drawRng g else (0, g)
    let r := roundRow t m fz d.2 rest
    ((finishFloat t m fz d.1 (readFloat .f32 y, false)).1 :: r.1, r.2)

namespace State

/-- `.f32` lane j of the registers from number n of the lent bank (R158): the bank of the strand, or, where the lender has been
pre-empted, the bank as it stays lent (R287). -/
def lentLane (s : State) (n j : Nat) : Nat :=
  match (s.core s.mcore).lent with
  | some (o, b) => laneAt 32 ((s.strand (ownerSid s.mcore o)).v.getD (16 * b + n + j / 64) 0) (j % 64)
  | none => 0

/-- Row i of a bank through the epilogue (R158): its elements as one number, free where the routine's words were stored over
(R139), and the state with the generator stepped. -/
def outRow (s : State) (r : Routine) (cb i : Nat) (t : Ty) (m : Mode) (gate : Nat) : Nat × State :=
  let e := r.epi
  let ys := (List.range 128).map (fun j =>
    epiSteps e r.fz (s.accAt cb i j) (s.lentLane e.sc j) (s.lentLane e.bi j) (s.lentLane e.cl 0) (s.lentLane e.cl 1)
      gate)
  let out := roundRow t m r.fz (s.core s.mcore).mrng ys
  ((match s.wordsStored s.mcore with
    | some v => v / 2 ^ (4096 * i) % 2 ^ (128 * t.width)
    | none => packLanes t.width out.1), s.updCore s.mcore (fun c => { c with mrng := out.2 }))

/-- The state with a row sent to combine (R246): to a die of this device, or out of the device (log 9). -/
def sendCombine (s : State) (core slot : Nat) (po : Int) (data : Nat) : State :=
  match s.rankDie (dieOfCore core) (bitsN slot 20 12) with
  | none => s
  | some (dev, die) =>
    let s := s.updCore core (fun c => { c with sends := c.sends + 1 })
    let here := s.devid.toNat % 4096
    if dev = here then s.post [.combineSend die (slot % 2 ^ 20) po (.row here core data)]
    else s.send (.engine dev die 0 [slot % 2 ^ 20, (po % 2 ^ 64).toNat, here, core, data])

/-- One row of an M.COUT to tile memory or combine (R392): a fault subcode, or the state. -/
def coutRow (s : State) (r : Routine) (cb i : Nat) (comb : Bool) : Except Nat State :=
  let (t, z, _) := if comb then epiFmt 1 else epiFmt r.epi.fmt
  let pr := s.tileAt (r.addr 9 3 + 8 * i) 8
  let rec_ := s.readMem (pr.getD 0) 8
  if (r.epi.gate || comb) && pr.isNone then .error 0x07
  else
    let a := r.addr 7 2 + i * r.par 8
    let s := if r.epi.gate || comb then s.meetPoison [(pr, 8)] else s
    if comb then
      let o := s.outRow r cb i t .rne (bitsN rec_ 32 32)
      .ok (o.2.sendCombine s.mcore (rec_ % 2 ^ 32) (r.addr 7 2) o.1)
    else if a % z != 0 then .error 0x0E
    else match s.tileAt a (128 * z) with
      | none => .error 0x07
      | some p =>
        let o := s.outRow r cb i t r.rm (bitsN rec_ 32 32)
        .ok (o.2.writeTile p (128 * z) o.1)

/-- Rows i to i + n - 1 of an M.COUT, up to the first fault (R160, R392). -/
def coutRows (s : State) (r : Routine) (cb : Nat) (comb : Bool) : Nat → Nat → Except (Nat × State) State
  | _, 0 => .ok s
  | i, n + 1 =>
    match s.coutRow r cb i comb with
    | .error sub => .error (sub, s)
    | .ok s => coutRows s r cb comb (i + 1) n

/-- The state with an M.COUT of m rows issued (R163, R392). -/
def endCout (s : State) (cb m : Nat) : State :=
  let t := s.mcycle + m
  (s.updRoutine (fun r => { r with outs := r.outs.insert cb t, fin := max r.fin (t + 8) })).mNext t

/-- The rows lo to lo + n - 1 as a strip (R224), and the state. -/
def stripOf (s : State) (r : Routine) (cb lo n : Nat) : Nat × State :=
  let (t, z, code) := epiFmt r.epi.fmt
  let head := fields [(0, code), (8, n), (16, lo), (64, 128)]
  (List.range n).foldl (fun (a, s) k =>
    let o := s.outRow r cb (lo + k) t r.rm
      (bitsN (s.readMem ((s.tileAt (r.addr 9 3 + 8 * (lo + k)) 8).getD 0) 8) 32 32)
    (a + o.1 * 2 ^ (2048 + 1024 * z * k), o.2)) (head, s)

/-- An M.COUT to a link queue (R224): one strip at a time, as space allows. -/
def coutQueue (s : State) (r : Routine) (cb m q : Nat) : State :=
  match s.lqFault .tx q with
  | some (cause, sub) => s.routineFault s.mcore cause sub q
  | none =>
    let x := s.lqOf s.mcore q
    let z := (epiFmt r.epi.fmt).2.1
    let n := min (m - r.part) (3840 / (128 * z))
    if m ≤ r.part then s.endCout cb 0
    else if r.epi.gate && (List.range n).any (fun k => (s.tileAt (r.addr 9 3 + 8 * (r.part + k)) 8).isNone)
    then s.mFault 0x07
    else if x.avail = 0 || s.lqPaused s.mcore x then s.mStall (s.mcycle + 1)
    else
      let s := if r.epi.gate then s.meetPoison ((List.range n).map (fun (k : Nat) => (s.tileAt (r.addr 9 3 + 8 * (r.part + k)) 8, 8))) else s
      let o := s.stripOf r cb r.part n
      let s := o.2.pushStrip s.mcore q (s.slotOf s.mcore + 24) o.1 false
      if r.part + n = m then s.endCout cb n
      else (s.updRoutine (fun r => { r with part := r.part + n })).mStall (s.mcycle + n)

end State

/-- M.COUT (R158, R392). -/
def execMCout (cb : BitVec 3) (rows : BitVec 8) (dst : MDst) (s : State) :
    Host.Outcome State Fault Refusal :=
  .next (s.withRoutine (fun r =>
    if 128 < rows.toNat then s.mFault 0x02
    else match r.rowsOf rows with
    | none => s.mFault 0x09
    | some m =>
      let b := cb.toNat
      let ready := (r.done.find b).map (· + 1) |>.getD 0
      if s.mcycle < ready then s.mStall ready
      else if (r.epi.scl || r.epi.bias || r.epi.clamp) && (s.core s.mcore).lent.isNone then s.mFault 0x0A
      else match dst with
        | .lq q => s.coutQueue r b m q.toNat
        | .tile => match s.coutRows r b false 0 m with
          | .ok s => s.endCout b m
          | .error (sub, s) => s.mFault sub
        | .comb => match s.coutRows r b true 0 m with
          | .ok s => s.endCout b m
          | .error (sub, s) => s.mFault sub))

/-! ### The end of a routine -/

/-- M.SYNC (R401): later micro-ops wait until every earlier one has completed, its combine sends accepted (R150). -/
def execMSync (s : State) : Host.Outcome State Fault Refusal :=
  .next (s.withRoutine (fun r =>
    if s.mcycle < r.fin || (s.core s.mcore).sends != 0 then s.mStall r.fin else s.mNext s.mcycle))

/-- M.END (R393): fetch stops. -/
def execMEnd (s : State) : Host.Outcome State Fault Refusal :=
  .next (s.withRoutine (fun r =>
    if r.group.isSome || r.loop0.isSome || r.loop1.isSome then s.mFault 0x09
    else s.updRoutine (fun r => { r with ended := true })))

namespace State

/-- Are the stores that a call's strand issued before it visible (R150)? The stores of a context that has been pre-empted
drain from the strand it ran on. -/
def callReady (s : State) (k : Call) : Bool :=
  !(s.strand (k.sid % 2 ^ 20)).unseen.any (fun p => decide (p.seq ≤ k.seq))

/-- May a core's head call start (R148, R150, R161)? -/
def startDue (s : State) (core : Nat) : Bool :=
  let c := s.core core
  match c.calls with
  | [] => false
  | k :: _ =>
    c.routine.isNone && decide (c.mstart ≤ (s.die (dieOfCore core)).cycle) && s.callReady k &&
      (!s.headBurst core || s.tokenOk (clusterOf core))

end State

/-- The routine of a table entry at its start (R386). -/
def Routine.start (e : Word) (t : Nat) : Routine :=
  { word := (entryRange e).1, entry := e, params := Vector.replicate 18 0
    epi := ⟨false, false, false, false, 0, 0, 0, 0⟩, sweeps := [], back := none, front := none, map := none, maps := []
    loop0 := none, loop1 := none, group := none, ended := false, next := t, bld := 0, array := 0, done := [], outs := []
    fin := 0, part := 0 }

/-- ROUTINE_START (R147, R148, R161): the head call starts, or faults with subcode 0x01. -/
def execRoutineStart (core : Nat) (s : State) : Host.Outcome State Fault Refusal :=
  if !s.startDue core then .next s
  else match s.headEntry core with
    | none => .next s
    | some e =>
      let s := s.updCore core (fun c => { c with gdone := 0 })
      if !e.getLsbD 63 || 4096 < (entryRange e).2 || 4 < bitsN e.toNat 58 3
      then .next (s.routineFault core 0x20 0x01 0)
      else .next (s.updCore core (fun c => { c with
        routine := some (Routine.start e (s.die (dieOfCore core)).cycle) }))

/-- Has the running routine of a core completed (R150, R393)? -/
def State.routineDone (s : State) (core : Nat) : Bool :=
  match (s.core core).routine with
  | some r => r.ended && decide (r.fin ≤ (s.die (dieOfCore core)).cycle) && (s.core core).sends == 0
  | none => false

/-- ROUTINE_COMPLETE (R150, R393): the call leaves the queue; the next starts 2 cycles later. -/
def execRoutineComplete (core : Nat) (s : State) : Host.Outcome State Fault Refusal :=
  if s.routineDone core then
    .next ((s.settleRoutine core).updCore core (fun c => { c with
      routine := none, calls := c.calls.drop 1, mstart := (s.die (dieOfCore core)).cycle + 2 }))
  else .next s

/-- The micro-op that a core's unit issues next (R152, R155): none where no routine fetches in this cycle, and where
it has run past its end, or the word is no micro-op, the subcode of its fault. -/
def State.fetchMicro (s : State) (core : Nat) : Option (Except Nat Instr) :=
  match (s.core core).routine with
  | none => none
  | some r =>
    if r.ended || (s.die (dieOfCore core)).cycle < r.next then none
    else if (entryRange r.entry).2 ≤ r.word then some (.error 0x03)
    else match decodeMicro (s.mword core r.word) with
      | some i => some (.ok i)
      | none => some (.error 0x02)

end Sys2Proof.Machine
end

