-- ==== Sys2Proof/Machine/Scalar.lean ====
section
/-! DEFINITION. The meanings of the scalar integer, bit, guard and move operations of the P slot
(R309, R334 to R463). Each reads its operands as they stand and puts its result in flight with the
latency of R43. -/

namespace Sys2Proof.Machine

/-- ADD (R334). -/
def execAdd (t : Ty) (sat : Bool) (sd sa : BitVec 6) (sb : SrcB) (s : State) :
    Host.Outcome State Fault Refusal :=
  let r := s.me.regs
  let v := r.src t sa + r.opnd t sb
  .next (s.put t sd (if sat then satTy t v else wrapTy t v) 1)

/-- SUB (R435). -/
def execSub (t : Ty) (sat : Bool) (sd sa : BitVec 6) (sb : SrcB) (s : State) :
    Host.Outcome State Fault Refusal :=
  let r := s.me.regs
  let v := r.src t sa - r.opnd t sb
  .next (s.put t sd (if sat then satTy t v else wrapTy t v) 1)

/-- MUL (R410). -/
def execMul (t : Ty) (sat : Bool) (sd sa : BitVec 6) (sb : SrcB) (s : State) :
    Host.Outcome State Fault Refusal :=
  let r := s.me.regs
  let v := r.src t sa * r.opnd t sb
  .next (s.put t sd (if sat then satTy t v else wrapTy t v) 3)

/-- MULH (R410): floor(p / 2^w). -/
def execMulh (t : Ty) (sd sa sb : BitVec 6) (s : State) : Host.Outcome State Fault Refusal :=
  let r := s.me.regs
  .next (s.put t sd (wrapTy t ((r.src t sa * r.src t sb).fdiv (2 ^ t.width : Nat))) 3)

/-- The quotient of DIV (R359). -/
def divInt (t : Ty) (a b : Int) : Int :=
  if b = 0 then (if t.signed then -1 else (2 ^ t.width : Nat) - 1)
  else if t.signed && a == intMin t && b == -1 then intMin t
  else a.tdiv b

/-- The remainder of MOD (R405). -/
def modInt (t : Ty) (a b : Int) : Int :=
  if b = 0 then a
  else if t.signed && a == intMin t && b == -1 then 0
  else a - b * a.tdiv b

/-- DIV (R359): interlocked, w/2 + 4 cycles. -/
def execDiv (t : Ty) (sd sa : BitVec 6) (sb : SrcB) (s : State) :
    Host.Outcome State Fault Refusal :=
  let r := s.me.regs
  .next (s.putSLock sd (extendTy t (wrapTy t (divInt t (r.src t sa) (r.opnd t sb)))) (t.width / 2 + 4))

/-- MOD (R405): interlocked, w/2 + 4 cycles. -/
def execMod (t : Ty) (sd sa : BitVec 6) (sb : SrcB) (s : State) :
    Host.Outcome State Fault Refusal :=
  let r := s.me.regs
  .next (s.putSLock sd (extendTy t (wrapTy t (modInt t (r.src t sa) (r.opnd t sb)))) (t.width / 2 + 4))

/-- AND (R338). -/
def execAnd (t : Ty) (sd sa : BitVec 6) (sb : SrcB) (s : State) : Host.Outcome State Fault Refusal :=
  let r := s.me.regs
  .next (s.put t sd (r.pat t sa &&& r.patB t sb) 1)

/-- ANDN (R339): sa AND NOT sb on w bits. -/
def execAndn (t : Ty) (sd sa : BitVec 6) (sb : SrcB) (s : State) : Host.Outcome State Fault Refusal :=
  let r := s.me.regs
  .next (s.put t sd (r.pat t sa &&& (2 ^ t.width - 1 - r.patB t sb)) 1)

/-- OR (R412). -/
def execOr (t : Ty) (sd sa : BitVec 6) (sb : SrcB) (s : State) : Host.Outcome State Fault Refusal :=
  let r := s.me.regs
  .next (s.put t sd (r.pat t sa ||| r.patB t sb) 1)

/-- XOR (R463). -/
def execXor (t : Ty) (sd sa : BitVec 6) (sb : SrcB) (s : State) : Host.Outcome State Fault Refusal :=
  let r := s.me.regs
  .next (s.put t sd (r.pat t sa ^^^ r.patB t sb) 1)

/-- Shift left of a w-bit pattern by a count (R424). -/
def shlPat (w x n : Nat) : Nat := if n ≥ w then 0 else x * 2 ^ n % 2 ^ w
/-- Shift right with zeros (R424). -/
def shrPat (w x n : Nat) : Nat := if n ≥ w then 0 else x % 2 ^ w / 2 ^ n
/-- Shift right with copies of the top bit (R424). -/
def sraPat (w x n : Nat) : Nat :=
  if n ≥ w then (if bitN x (w - 1) then 2 ^ w - 1 else 0) else wrapN w ((sintN w x).fdiv (2 ^ n : Nat))

/-- The shift count: bits 7:0 of the second operand (R424). -/
def Regs.count (r : Regs) (b : SrcB) : Nat := (r.srcB b).toNat % 256

/-- SHL (R424). -/
def execShl (t : Ty) (sd sa : BitVec 6) (sb : SrcB) (s : State) : Host.Outcome State Fault Refusal :=
  let r := s.me.regs
  .next (s.put t sd (shlPat t.width (r.pat t sa) (r.count sb)) 1)

/-- SHR (R424). -/
def execShr (t : Ty) (sd sa : BitVec 6) (sb : SrcB) (s : State) : Host.Outcome State Fault Refusal :=
  let r := s.me.regs
  .next (s.put t sd (shrPat t.width (r.pat t sa) (r.count sb)) 1)

/-- SRA (R424). -/
def execSra (t : Ty) (sd sa : BitVec 6) (sb : SrcB) (s : State) : Host.Outcome State Fault Refusal :=
  let r := s.me.regs
  .next (s.put t sd (sraPat t.width (r.pat t sa) (r.count sb)) 1)

/-- MAX of an integer or float type (R403). -/
def execMax (t : Ty) (sd sa : BitVec 6) (sb : SrcB) (s : State) : Host.Outcome State Fault Refusal :=
  let r := s.me.regs
  if t.isInt then .next (s.put t sd (wrapTy t (max (r.src t sa) (r.opnd t sb))) 1)
  else .next (s.putS sd (BitVec.ofNat 64 (fMaxMin t true s.fz (r.pat t sa) (r.patB t sb))) 4)

/-- MIN of an integer or float type (R403). -/
def execMin (t : Ty) (sd sa : BitVec 6) (sb : SrcB) (s : State) : Host.Outcome State Fault Refusal :=
  let r := s.me.regs
  if t.isInt then .next (s.put t sd (wrapTy t (min (r.src t sa) (r.opnd t sb))) 1)
  else .next (s.putS sd (BitVec.ofNat 64 (fMaxMin t false s.fz (r.pat t sa) (r.patB t sb))) 4)

/-- BEXT (R343): the field is `len` holding len - 1. -/
def execBext (t : Ty) (sd sa pos len : BitVec 6) (s : State) : Host.Outcome State Fault Refusal :=
  let n := len.toNat + 1
  let f := bitsN (s.me.regs.rs sa).toNat pos.toNat n
  .next (s.put t sd (if t.signed then wrapTy t (sintN n f) else f) 1)

/-- BINS (R344). -/
def execBins (t : Ty) (sd sa pos len : BitVec 6) (s : State) : Host.Outcome State Fault Refusal :=
  let r := s.me.regs
  let n := len.toNat + 1
  .next (s.put t sd ((setField (r.rs sd) pos.toNat n (r.rs sa).toNat).toNat % 2 ^ t.width) 1)

/-- Zero bits above the highest set bit of w bits (R353). -/
def clzPat (w x : Nat) : Nat := if x % 2 ^ w = 0 then w else w - 1 - Nat.log2 (x % 2 ^ w)

/-- One bits among the low n bits. -/
def popc : Nat → Nat → Nat
  | 0, _ => 0
  | n + 1, x => x % 2 + popc n (x / 2)

/-- CLZ (R353). -/
def execClz (t : Ty) (sd sa : BitVec 6) (s : State) : Host.Outcome State Fault Refusal :=
  .next (s.putS sd (BitVec.ofNat 64 (clzPat t.width (s.me.regs.pat t sa))) 1)

/-- POPC (R413). -/
def execPopc (t : Ty) (sd sa : BitVec 6) (s : State) : Host.Outcome State Fault Refusal :=
  .next (s.putS sd (BitVec.ofNat 64 (popc t.width (s.me.regs.pat t sa))) 1)

/-- CMP (R354). -/
def execCmp (t : Ty) (cc : Cc) (gd : BitVec 4) (sa : BitVec 6) (sb : SrcB) (s : State) :
    Host.Outcome State Fault Refusal :=
  let r := s.me.regs
  .next (s.putG gd (iCmp cc (r.src t sa) (r.opnd t sb)) 1 false)

/-- SEL (R423). -/
def execSel (t : Ty) (sd : BitVec 6) (gc : BitVec 4) (inv : Bool) (sa sb : BitVec 6) (s : State) :
    Host.Outcome State Fault Refusal :=
  let r := s.me.regs
  .next (s.put t sd (if r.rg gc != inv then r.pat t sa else r.pat t sb) 1)

/-- GOP (R370). -/
def execGop (f : GopFn) (gd ga : BitVec 4) (ia : Bool) (gb : BitVec 4) (ib : Bool) (s : State) :
    Host.Outcome State Fault Refusal :=
  let r := s.me.regs
  let x := r.rg ga != ia
  let y := r.rg gb != ib
  let v := match f with
    | .and => x && y
    | .or => x || y
    | .xor => x != y
    | .mov => x
  .next (s.putG gd v 1 false)

/-- LEA (R378). -/
def execLea (d base : SaReg) (idx : LeaIdx) (s : State) : Host.Outcome State Fault Refusal :=
  let r := s.me.regs
  .next (s.putReg (saName d) (r.sa base + r.leaIdx idx) 1)

/-- MOV (R406). -/
def execMov (d : MovDst) (src : MovSrc) (s : State) : Host.Outcome State Fault Refusal :=
  .next (s.putReg (movName d) (s.me.regs.movSrc src) 1)

/-- MOVHI (R407). -/
def execMovhi (sd : BitVec 6) (imm : BitVec 16) (q : BitVec 2) (s : State) :
    Host.Outcome State Fault Refusal :=
  .next (s.putS sd (setField (s.me.regs.rs sd) (16 * q.toNat) 16 imm.toNat) 1)

end Sys2Proof.Machine
end

