-- ==== Sys2Proof/Machine/Vector.lean ====
section
/-! DEFINITION. The meanings of the vector operations of the P slot (R311, R440 to R458). Each meets the
trap of a lent bank first (R443) and then puts its lanes in flight with the latency of R43. -/

namespace Sys2Proof.Machine

/-- |x| of a lane (R444): Wrap for an integer type, the sign cleared for a float, NaN canonical. -/
def absLane (t : Ty) (x : Nat) : Nat :=
  if t.isInt then wrapTy t (intOf t x).natAbs
  else if (readFloat t x).isNaN then canonNaN t
  else x % 2 ^ signPos t

/-- -x of a lane (R444). -/
def negLane (t : Ty) (x : Nat) : Nat :=
  if t.isInt then wrapTy t (-(intOf t x))
  else if (readFloat t x).isNaN then canonNaN t
  else x ^^^ 2 ^ signPos t

/-- Wrap or Sat of an integer result (R59). -/
def fitTy (t : Ty) (sat : Bool) (v : Int) : Nat := if sat then satTy t v else wrapTy t v

/-- The larger or smaller lane (R403). -/
def maxMinLane (t : Ty) (mx fz : Bool) (x y : Nat) : Nat :=
  if t.isInt then
    wrapTy t (if mx then max (intOf t x) (intOf t y) else min (intOf t x) (intOf t y))
  else fMaxMin t mx fz x y

/-- VABS (R444). -/
def execVabs (t : Ty) (vd va : BitVec 6) (mk : MaskSel) (s : State) :
    Host.Outcome State Fault Refusal :=
  .next (s.gate (lentUse [vd, va]) (fun s =>
    let st := s.me
    s.vecInt t vd mk 2 (fun i => absLane t (laneAt t.width (st.rv va) i))))

/-- VADD (R444): integers in 2 cycles, floats in 4. -/
def execVadd (t : Ty) (sat : Bool) (rnd : Rnd) (vd va : BitVec 6) (vb : VSrc) (mk : MaskSel)
    (s : State) : Host.Outcome State Fault Refusal :=
  .next (s.gate (lentUse ([vd, va] ++ srcRegs vb)) (fun s =>
    let st := s.me
    let x := laneAt t.width (st.rv va)
    let y := st.vsrc t.width vb
    if t.isInt then s.vecInt t vd mk 2 (fun i => fitTy t sat (intOf t (x i) + intOf t (y i)))
    else s.vecF t rnd vd mk 4 (fun m fz r i => fAdd t m fz r (x i) (y i))))

/-- VSUB (R444): integers in 2 cycles, floats in 4. -/
def execVsub (t : Ty) (sat : Bool) (rnd : Rnd) (vd va : BitVec 6) (vb : VSrc) (mk : MaskSel)
    (s : State) : Host.Outcome State Fault Refusal :=
  .next (s.gate (lentUse ([vd, va] ++ srcRegs vb)) (fun s =>
    let st := s.me
    let x := laneAt t.width (st.rv va)
    let y := st.vsrc t.width vb
    if t.isInt then s.vecInt t vd mk 2 (fun i => fitTy t sat (intOf t (x i) - intOf t (y i)))
    else s.vecF t rnd vd mk 4 (fun m fz r i => fSub t m fz r (x i) (y i))))

/-- VMUL (R444): integers in 2 cycles, floats in 4. -/
def execVmul (t : Ty) (sat : Bool) (rnd : Rnd) (vd va : BitVec 6) (vb : VSrc) (mk : MaskSel)
    (s : State) : Host.Outcome State Fault Refusal :=
  .next (s.gate (lentUse ([vd, va] ++ srcRegs vb)) (fun s =>
    let st := s.me
    let x := laneAt t.width (st.rv va)
    let y := st.vsrc t.width vb
    if t.isInt then s.vecInt t vd mk 2 (fun i => fitTy t sat (intOf t (x i) * intOf t (y i)))
    else s.vecF t rnd vd mk 4 (fun m fz r i => fMul t m fz r (x i) (y i))))

/-- VFMA (R444). -/
def execVfma (t : Ty) (rnd : Rnd) (vd va : BitVec 6) (vb : VSrc) (vc : BitVec 6) (mk : MaskSel)
    (s : State) : Host.Outcome State Fault Refusal :=
  .next (s.gate (lentUse ([vd, va, vc] ++ srcRegs vb)) (fun s =>
    let st := s.me
    s.vecF t rnd vd mk 4 (fun m fz r i =>
      fFma t m fz r (laneAt t.width (st.rv va) i) (st.vsrc t.width vb i) (laneAt t.width (st.rv vc) i))))

/-- VAND (R444). -/
def execVand (t : Ty) (vd va : BitVec 6) (vb : VSrc) (mk : MaskSel) (s : State) :
    Host.Outcome State Fault Refusal :=
  .next (s.gate (lentUse ([vd, va] ++ srcRegs vb)) (fun s =>
    let st := s.me
    s.vecInt t vd mk 2 (fun i =>
      let x := laneAt t.width (st.rv va) i
      let y := st.vsrc t.width vb i
      x &&& y)))

/-- VOR (R444). -/
def execVor (t : Ty) (vd va : BitVec 6) (vb : VSrc) (mk : MaskSel) (s : State) :
    Host.Outcome State Fault Refusal :=
  .next (s.gate (lentUse ([vd, va] ++ srcRegs vb)) (fun s =>
    let st := s.me
    s.vecInt t vd mk 2 (fun i =>
      let x := laneAt t.width (st.rv va) i
      let y := st.vsrc t.width vb i
      x ||| y)))

/-- VXOR (R444). -/
def execVxor (t : Ty) (vd va : BitVec 6) (vb : VSrc) (mk : MaskSel) (s : State) :
    Host.Outcome State Fault Refusal :=
  .next (s.gate (lentUse ([vd, va] ++ srcRegs vb)) (fun s =>
    let st := s.me
    s.vecInt t vd mk 2 (fun i =>
      let x := laneAt t.width (st.rv va) i
      let y := st.vsrc t.width vb i
      x ^^^ y)))

/-- VSHL (R424, R444). -/
def execVshl (t : Ty) (vd va : BitVec 6) (vb : VSrc) (mk : MaskSel) (s : State) :
    Host.Outcome State Fault Refusal :=
  .next (s.gate (lentUse ([vd, va] ++ srcRegs vb)) (fun s =>
    let st := s.me
    s.vecInt t vd mk 2 (fun i =>
      let x := laneAt t.width (st.rv va) i
      let y := st.vsrc t.width vb i
      shlPat t.width x (y % 256))))

/-- VSHR (R424, R444). -/
def execVshr (t : Ty) (vd va : BitVec 6) (vb : VSrc) (mk : MaskSel) (s : State) :
    Host.Outcome State Fault Refusal :=
  .next (s.gate (lentUse ([vd, va] ++ srcRegs vb)) (fun s =>
    let st := s.me
    s.vecInt t vd mk 2 (fun i =>
      let x := laneAt t.width (st.rv va) i
      let y := st.vsrc t.width vb i
      shrPat t.width x (y % 256))))

/-- VSRA (R424, R444). -/
def execVsra (t : Ty) (vd va : BitVec 6) (vb : VSrc) (mk : MaskSel) (s : State) :
    Host.Outcome State Fault Refusal :=
  .next (s.gate (lentUse ([vd, va] ++ srcRegs vb)) (fun s =>
    let st := s.me
    s.vecInt t vd mk 2 (fun i =>
      let x := laneAt t.width (st.rv va) i
      let y := st.vsrc t.width vb i
      sraPat t.width x (y % 256))))

/-- VMAX (R403, R444). -/
def execVmax (t : Ty) (vd va : BitVec 6) (vb : VSrc) (mk : MaskSel) (s : State) :
    Host.Outcome State Fault Refusal :=
  .next (s.gate (lentUse ([vd, va] ++ srcRegs vb)) (fun s =>
    let st := s.me
    let fz := s.fz
    s.vecInt t vd mk (if t.isInt then 2 else 4) (fun i =>
      let x := laneAt t.width (st.rv va) i
      let y := st.vsrc t.width vb i
      maxMinLane t true fz x y)))

/-- VMIN (R403, R444). -/
def execVmin (t : Ty) (vd va : BitVec 6) (vb : VSrc) (mk : MaskSel) (s : State) :
    Host.Outcome State Fault Refusal :=
  .next (s.gate (lentUse ([vd, va] ++ srcRegs vb)) (fun s =>
    let st := s.me
    let fz := s.fz
    s.vecInt t vd mk (if t.isInt then 2 else 4) (fun i =>
      let x := laneAt t.width (st.rv va) i
      let y := st.vsrc t.width vb i
      maxMinLane t false fz x y)))

/-- VNEG (R444). -/
def execVneg (t : Ty) (vd va : BitVec 6) (mk : MaskSel) (s : State) :
    Host.Outcome State Fault Refusal :=
  .next (s.gate (lentUse [vd, va]) (fun s =>
    let st := s.me
    s.vecInt t vd mk 2 (fun i => negLane t (laneAt t.width (st.rv va) i))))

/-- VMOV (R444). -/
def execVmov (t : Ty) (vd va : BitVec 6) (mk : MaskSel) (s : State) :
    Host.Outcome State Fault Refusal :=
  .next (s.gate (lentUse [vd, va]) (fun s =>
    let st := s.me
    s.vecInt t vd mk 2 (fun i => laneAt t.width (st.rv va) i)))

/-- VBCAST (R444): VA names a scalar register. -/
def execVbcast (t : Ty) (vd sa : BitVec 6) (mk : MaskSel) (s : State) :
    Host.Outcome State Fault Refusal :=
  .next (s.gate (lentUse [vd]) (fun s =>
    let x := s.me.regs.pat t sa
    s.vecInt t vd mk 2 (fun _ => x)))

/-- VSEL (R444): every lane is written, and the mask chooses. -/
def execVsel (t : Ty) (vd va : BitVec 6) (vb : VSrc) (vm : BitVec 3) (s : State) :
    Host.Outcome State Fault Refusal :=
  .next (s.gate (lentUse ([vd, va] ++ srcRegs vb)) (fun s =>
    let st := s.me
    s.vecInt t vd ⟨false, 0⟩ 2 (fun i =>
      if (st.regs.rvm vm).getLsbD (i * t.width / 8) then laneAt t.width (st.rv va) i
      else st.vsrc t.width vb i)))

/-- One compared lane (R445). -/
def cmpLane (t : Ty) (cc : Cc) (fz : Bool) (x y : Nat) : Bool :=
  if t.isInt then iCmp cc (intOf t x) (intOf t y)
  else fCmp cc (flush fz (readFloat t x)) (flush fz (readFloat t y))

/-- VCMP (R445): the bits of each enabled lane in the mask register. -/
def execVcmp (t : Ty) (cc : Cc) (vmd : BitVec 3) (va : BitVec 6) (vb : VSrc) (mk : MaskSel)
    (s : State) : Host.Outcome State Fault Refusal :=
  .next (s.gate (lentUse ([va] ++ srcRegs vb)) (fun s =>
    let st := s.me
    let n := laneCount t.width
    let b := t.width / 8
    let bits := (List.range n).map (fun i =>
      if cmpLane t cc s.fz (laneAt t.width (st.rv va) i) (st.vsrc t.width vb i) then 2 ^ b - 1 else 0)
    s.emit (.vm vmd) (BitVec.ofNat 2048 (packLanes b bits))
      (maskBits b (st.regs.lanesOn mk t.width n)) 2 false 0))

/-- VCOUNT (R446). -/
def execVcount (sd : BitVec 6) (vma : BitVec 3) (s : State) : Host.Outcome State Fault Refusal :=
  .next (s.putS sd (BitVec.ofNat 64 (popc 256 (s.me.regs.rvm vma).toNat)) 2)

/-- VCVT (R447): lanes of the wider type, bits above the last written lane kept. -/
def execVcvt (tt frm : Ty) (rnd : Rnd) (vd va : BitVec 6) (mk : MaskSel) (s : State) :
    Host.Outcome State Fault Refusal :=
  .next (s.gate (lentUse [vd, va]) (fun s =>
    let st := s.me
    let n := 2048 / max tt.width frm.width
    let on := st.regs.lanesOn mk tt.width n
    let ints := tt.isInt && frm.isInt
    let m := if ints then .rne else s.mode rnd
    let fz := s.fz
    let d := s.draws m on
    let rs := (List.range n).map (fun i =>
      if on.getD i false then
        convert tt frm false m fz (d.1.getD i 0) (laneAt frm.width (st.rv va) i)
      else (0, 0))
    d.2.putV vd tt.width on (rs.map (·.1)) 4 (rs.foldl (fun a x => a ||| x.2) 0)))

/-- VEXP2 (R448). -/
def execVexp2 (t : Ty) (rnd : Rnd) (vd va : BitVec 6) (mk : MaskSel) (s : State) :
    Host.Outcome State Fault Refusal :=
  .next (s.gate (lentUse [vd, va]) (fun s =>
    let st := s.me
    s.vecF t rnd vd mk 8 (fun m fz r i => fExp2 t m fz r (laneAt t.width (st.rv va) i))))

/-- VLOG2 (R448). -/
def execVlog2 (t : Ty) (rnd : Rnd) (vd va : BitVec 6) (mk : MaskSel) (s : State) :
    Host.Outcome State Fault Refusal :=
  .next (s.gate (lentUse [vd, va]) (fun s =>
    let st := s.me
    s.vecF t rnd vd mk 8 (fun m fz r i => fLog2 t m fz r (laneAt t.width (st.rv va) i))))

/-- VRCP (R448). -/
def execVrcp (t : Ty) (rnd : Rnd) (vd va : BitVec 6) (mk : MaskSel) (s : State) :
    Host.Outcome State Fault Refusal :=
  .next (s.gate (lentUse [vd, va]) (fun s =>
    let st := s.me
    s.vecF t rnd vd mk 8 (fun m fz r i => fRcp t m fz r (laneAt t.width (st.rv va) i))))

/-- VRSQ (R448). -/
def execVrsq (t : Ty) (rnd : Rnd) (vd va : BitVec 6) (mk : MaskSel) (s : State) :
    Host.Outcome State Fault Refusal :=
  .next (s.gate (lentUse [vd, va]) (fun s =>
    let st := s.me
    s.vecF t rnd vd mk 8 (fun m fz r i => fRsq t m fz r (laneAt t.width (st.rv va) i))))

/-- VEXTR (R449). -/
def execVextr (t : Ty) (sd va sb : BitVec 6) (s : State) : Host.Outcome State Fault Refusal :=
  .next (s.gate (lentUse [va]) (fun s =>
    let st := s.me
    let x := laneAt t.width (st.rv va) ((st.regs.rs sb).toNat % laneCount t.width)
    s.putS sd (if t.isInt then extendTy t x else BitVec.ofNat 64 x) 2))

/-- VINS (R450): the one lane named by the index. -/
def execVins (t : Ty) (vd sa sb : BitVec 6) (s : State) : Host.Outcome State Fault Refusal :=
  .next (s.gate (lentUse [vd]) (fun s =>
    let r := s.me.regs
    let k := (r.rs sb).toNat % laneCount t.width
    s.emit (.v vd) (BitVec.ofNat 2048 (r.pat t sa * 2 ^ (t.width * k)))
      (BitVec.ofNat 2048 ((2 ^ t.width - 1) * 2 ^ (t.width * k))) 2 false 0))

/-- VMASK on whole mask registers (R453). -/
def maskOp (f : MaskFn) (a b : MWord) : MWord :=
  match f with
  | .and => a &&& b
  | .or => a ||| b
  | .xor => a ^^^ b
  | .andn => a &&& ~~~b
  | .not => ~~~a
  | .ones => BitVec.allOnes 256
  | .zero => 0

/-- VMASK (R453). -/
def execVmask (f : MaskFn) (vmd vma vmb : BitVec 3) (s : State) : Host.Outcome State Fault Refusal :=
  let r := s.me.regs
  .next (s.emit (.vm vmd) ((maskOp f (r.rvm vma) (r.rvm vmb)).setWidth 2048)
    (BitVec.allOnes 2048) 2 false 0)

/-- VPERM (R456). -/
def execVperm (t : Ty) (vd va : BitVec 6) (vb : VSrc) (mk : MaskSel) (s : State) :
    Host.Outcome State Fault Refusal :=
  .next (s.gate (lentUse ([vd, va] ++ srcRegs vb)) (fun s =>
    let st := s.me
    s.vecInt t vd mk 6 (fun i =>
      laneAt t.width (st.rv va) (st.vsrc t.width vb i % laneCount t.width))))

/-- A lane flushed and converted exactly to `.f32` (R79). -/
def toF32 (t : Ty) (fz : Bool) (x : Nat) : Nat :=
  (roundTo .f32 .rne false 0 (flush fz (readFloat t x))).1

/-- A sum of two `.f32` values rounded to nearest even, flushed when FPCTL.FZ says so (R68, R77, R79). -/
def addTree (fz : Bool) (a b : Nat) : Nat × Nat :=
  finishFloat .f32 .rne fz 0 (addNum .rne (readFloat .f32 a) (readFloat .f32 b))

/-- VRED of an integer type over the enabled lanes (R457). -/
def redInt (t : Ty) (f : RedFn) (l : List Int) : Nat :=
  match f with
  | .sum => wrapTy t (l.foldl (· + ·) 0)
  | .max => wrapTy t (l.foldl max (intMin t))
  | .min => wrapTy t (l.foldl min (intMax t))

/-- VRED `.max` and `.min` of a float type over the enabled lanes (R457). -/
def redFloat (t : Ty) (mx : Bool) (l : List Num) : Nat :=
  if l.any Num.isNaN then canonNaN t
  else (roundTo t .rne false 0
    (l.foldl (fun a b => if mx then maxNum a b else minNum a b) (.inf mx))).1

/-- VRED (R457). -/
def execVred (t : Ty) (f : RedFn) (rnd : Rnd) (sd va : BitVec 6) (mk : MaskSel) (s : State) :
    Host.Outcome State Fault Refusal :=
  .next (s.gate (lentUse [va]) (fun s =>
    let st := s.me
    let n := laneCount t.width
    let x := laneAt t.width (st.rv va)
    let on := st.regs.laneOn mk t.width
    let idx := (List.range n).filter on
    if t.isInt then s.put t sd (redInt t f (idx.map (fun i => intOf t (x i)))) 6
    else match f with
      | .sum =>
        let m := s.mode rnd
        let fz := s.fz
        let d := s.draw1 m
        let leaves := (List.range n).map (fun i => if on i then toF32 t fz (x i) else 0x80000000)
        let root := pairTreeWith (addTree fz) (Nat.log2 n + 1) leaves
        let r := roundTo t m fz d.1 (readFloat .f32 root.1)
        d.2.putF sd (r.1, root.2 ||| r.2) 6
      | .max => s.putS sd (BitVec.ofNat 64 (redFloat t true (idx.map (fun i => flush s.fz (readFloat t (x i)))))) 6
      | .min => s.putS sd (BitVec.ofNat 64 (redFloat t false (idx.map (fun i => flush s.fz (readFloat t (x i)))))) 6))

/-- Running integer sums; a lane not enabled adds nothing (R458). -/
def scanInt (t : Ty) : Int → List (Bool × Int) → List Nat
  | _, [] => []
  | a, (b, x) :: rest =>
    let a' := if b then a + x else a
    wrapTy t a' :: scanInt t a' rest

/-- Running `.f32` sums with the rounded value and flags of each lane (R79, R458). -/
def scanF (t : Ty) (m : Mode) (fz : Bool) : Nat → List (Bool × Nat × Nat) → List (Nat × Nat)
  | _, [] => []
  | a, (b, x, r) :: rest =>
    if b then
      let s := addTree fz a x
      let q := roundTo t m fz r (readFloat .f32 s.1)
      (q.1, s.2 ||| q.2) :: scanF t m fz s.1 rest
    else (0, 0) :: scanF t m fz a rest

/-- VSCAN (R458). -/
def execVscan (t : Ty) (rnd : Rnd) (vd va : BitVec 6) (mk : MaskSel) (s : State) :
    Host.Outcome State Fault Refusal :=
  .next (s.gate (lentUse [vd, va]) (fun s =>
    let st := s.me
    let n := laneCount t.width
    let x := laneAt t.width (st.rv va)
    let on := st.regs.lanesOn mk t.width n
    if t.isInt then
      s.putV vd t.width on
        (scanInt t 0 ((List.range n).map (fun i => (on.getD i false, intOf t (x i))))) 6 0
    else
      let m := s.mode rnd
      let fz := s.fz
      let d := s.draws m on
      let rs := scanF t m fz 0x80000000
        ((List.range n).map (fun i => (on.getD i false, toF32 t fz (x i), d.1.getD i 0)))
      d.2.putV vd t.width on (rs.map (·.1)) 6 (rs.foldl (fun a x => a ||| x.2) 0)))

end Sys2Proof.Machine
end

