-- ==== Sys2Proof/Machine/Dispatch.lean ====
section
/-! DEFINITION. The dispatch: one arm for each row of the opcode table. -/

namespace Sys2Proof.Machine

/-- What an instruction does: one meaning for each row of the opcode table. -/
def exec (i : Instr) (s : State) : Host.Outcome State Fault Refusal :=
  match i with
  | .add t sat sd sa sb => Sys2Proof.Machine.execAdd t sat sd sa sb s
  | .sub t sat sd sa sb => Sys2Proof.Machine.execSub t sat sd sa sb s
  | .mul t sat sd sa sb => Sys2Proof.Machine.execMul t sat sd sa sb s
  | .mulh t sd sa sb => Sys2Proof.Machine.execMulh t sd sa sb s
  | .div t sd sa sb => Sys2Proof.Machine.execDiv t sd sa sb s
  | .mod t sd sa sb => Sys2Proof.Machine.execMod t sd sa sb s
  | .and t sd sa sb => Sys2Proof.Machine.execAnd t sd sa sb s
  | .andn t sd sa sb => Sys2Proof.Machine.execAndn t sd sa sb s
  | .or t sd sa sb => Sys2Proof.Machine.execOr t sd sa sb s
  | .xor t sd sa sb => Sys2Proof.Machine.execXor t sd sa sb s
  | .shl t sd sa sb => Sys2Proof.Machine.execShl t sd sa sb s
  | .shr t sd sa sb => Sys2Proof.Machine.execShr t sd sa sb s
  | .sra t sd sa sb => Sys2Proof.Machine.execSra t sd sa sb s
  | .max t sd sa sb => Sys2Proof.Machine.execMax t sd sa sb s
  | .min t sd sa sb => Sys2Proof.Machine.execMin t sd sa sb s
  | .bext t sd sa pos len => Sys2Proof.Machine.execBext t sd sa pos len s
  | .bins t sd sa pos len => Sys2Proof.Machine.execBins t sd sa pos len s
  | .clz t sd sa => Sys2Proof.Machine.execClz t sd sa s
  | .popc t sd sa => Sys2Proof.Machine.execPopc t sd sa s
  | .cmp t cc gd sa sb => Sys2Proof.Machine.execCmp t cc gd sa sb s
  | .sel t sd gc inv sa sb => Sys2Proof.Machine.execSel t sd gc inv sa sb s
  | .gop f gd ga ia gb ib => Sys2Proof.Machine.execGop f gd ga ia gb ib s
  | .lea d base idx => Sys2Proof.Machine.execLea d base idx s
  | .mov d src => Sys2Proof.Machine.execMov d src s
  | .movhi sd imm q => Sys2Proof.Machine.execMovhi sd imm q s
  | .cvti tt frm sat rnd sd sa => Sys2Proof.Machine.execCvti tt frm sat rnd sd sa s
  | .fadd t rnd sd sa sb => Sys2Proof.Machine.execFadd t rnd sd sa sb s
  | .fmul t rnd sd sa sb => Sys2Proof.Machine.execFmul t rnd sd sa sb s
  | .ffma t rnd sd sa sb sc => Sys2Proof.Machine.execFfma t rnd sd sa sb sc s
  | .fcmp t cc gd sa sb => Sys2Proof.Machine.execFcmp t cc gd sa sb s
  | .fcvt tt frm rnd sd sa => Sys2Proof.Machine.execFcvt tt frm rnd sd sa s
  | .vabs t vd va mk => Sys2Proof.Machine.execVabs t vd va mk s
  | .vadd t sat rnd vd va vb mk => Sys2Proof.Machine.execVadd t sat rnd vd va vb mk s
  | .vsub t sat rnd vd va vb mk => Sys2Proof.Machine.execVsub t sat rnd vd va vb mk s
  | .vmul t sat rnd vd va vb mk => Sys2Proof.Machine.execVmul t sat rnd vd va vb mk s
  | .vfma t rnd vd va vb vc mk => Sys2Proof.Machine.execVfma t rnd vd va vb vc mk s
  | .vand t vd va vb mk => Sys2Proof.Machine.execVand t vd va vb mk s
  | .vor t vd va vb mk => Sys2Proof.Machine.execVor t vd va vb mk s
  | .vxor t vd va vb mk => Sys2Proof.Machine.execVxor t vd va vb mk s
  | .vshl t vd va vb mk => Sys2Proof.Machine.execVshl t vd va vb mk s
  | .vshr t vd va vb mk => Sys2Proof.Machine.execVshr t vd va vb mk s
  | .vsra t vd va vb mk => Sys2Proof.Machine.execVsra t vd va vb mk s
  | .vmax t vd va vb mk => Sys2Proof.Machine.execVmax t vd va vb mk s
  | .vmin t vd va vb mk => Sys2Proof.Machine.execVmin t vd va vb mk s
  | .vneg t vd va mk => Sys2Proof.Machine.execVneg t vd va mk s
  | .vmov t vd va mk => Sys2Proof.Machine.execVmov t vd va mk s
  | .vbcast t vd sa mk => Sys2Proof.Machine.execVbcast t vd sa mk s
  | .vsel t vd va vb vm => Sys2Proof.Machine.execVsel t vd va vb vm s
  | .vcmp t cc vmd va vb mk => Sys2Proof.Machine.execVcmp t cc vmd va vb mk s
  | .vcount sd vma => Sys2Proof.Machine.execVcount sd vma s
  | .vcvt tt frm rnd vd va mk => Sys2Proof.Machine.execVcvt tt frm rnd vd va mk s
  | .vexp2 t rnd vd va mk => Sys2Proof.Machine.execVexp2 t rnd vd va mk s
  | .vlog2 t rnd vd va mk => Sys2Proof.Machine.execVlog2 t rnd vd va mk s
  | .vrcp t rnd vd va mk => Sys2Proof.Machine.execVrcp t rnd vd va mk s
  | .vrsq t rnd vd va mk => Sys2Proof.Machine.execVrsq t rnd vd va mk s
  | .vextr t sd va sb => Sys2Proof.Machine.execVextr t sd va sb s
  | .vins t vd sa sb => Sys2Proof.Machine.execVins t vd sa sb s
  | .vmask f vmd vma vmb => Sys2Proof.Machine.execVmask f vmd vma vmb s
  | .vperm t vd va vb mk => Sys2Proof.Machine.execVperm t vd va vb mk s
  | .vred t f rnd sd va mk => Sys2Proof.Machine.execVred t f rnd sd va mk s
  | .vscan t rnd vd va mk => Sys2Proof.Machine.execVscan t rnd vd va mk s
  | .ld t o sd ea => Sys2Proof.Machine.execLd t o sd ea s
  | .st t o ea sb => Sys2Proof.Machine.execSt t o ea sb s
  | .vld o vd ea mk => Sys2Proof.Machine.execVld o vd ea mk s
  | .vst o ea vb mk => Sys2Proof.Machine.execVst o ea vb mk s
  | .fence o => Sys2Proof.Machine.execFence o s
  | .waitaddr t o sd ea sb => Sys2Proof.Machine.execWaitaddr t o sd ea sb s
  | .cflush ea => Sys2Proof.Machine.execCflush ea s
  | .cinv ea => Sys2Proof.Machine.execCinv ea s
  | .gidx t ea sb => Sys2Proof.Machine.execGidx t ea sb s
  | .sidx t ea sb sc => Sys2Proof.Machine.execSidx t ea sb sc s
  | .gpop sd => Sys2Proof.Machine.execGpop sd s
  | .gpopRp sd => Sys2Proof.Machine.execGpopRp sd s
  | .qstat sd => Sys2Proof.Machine.execQstat sd s
  | .amo t f o sd ea sb => Sys2Proof.Machine.execAmo t f o sd ea sb s
  | .amocas t o sd ea sb sc => Sys2Proof.Machine.execAmocas t o sd ea sb sc s
  | .qinc t o sd gd ea sb => Sys2Proof.Machine.execQinc t o sd gd ea sb s
  | .qwrap t o sd gd ea sb => Sys2Proof.Machine.execQwrap t o sd gd ea sb s
  | .qdec t o sd gd ea => Sys2Proof.Machine.execQdec t o sd gd ea s
  | .qaddl t o sd gd ea sb => Sys2Proof.Machine.execQaddl t o sd gd ea sb s
  | .spld o sd as sk => Sys2Proof.Machine.execSpld o sd as sk s
  | .spst o as sk sv => Sys2Proof.Machine.execSpst o as sk sv s
  | .spadd o sd as sk sv => Sys2Proof.Machine.execSpadd o sd as sk sv s
  | .spcur ac as sk => Sys2Proof.Machine.execSpcur ac as sk s
  | .spnext o sk sv gd ac => Sys2Proof.Machine.execSpnext o sk sv gd ac s
  | .lend b => Sys2Proof.Machine.execLend b s
  | .mcall idx => Sys2Proof.Machine.execMcall idx s
  | .mpwr sd req => Sys2Proof.Machine.execMpwr sd req s
  | .mstat sd => Sys2Proof.Machine.execMstat sd s
  | .mwait n => Sys2Proof.Machine.execMwait n s
  | .scld xd ab imm => Sys2Proof.Machine.execScld xd ab imm s
  | .scst ab imm xs => Sys2Proof.Machine.execScst ab imm xs s
  | .lqbindTx lq sd sp sc => Sys2Proof.Machine.execLqbindTx lq sd sp sc s
  | .lqbindRx lq sd sp sc => Sys2Proof.Machine.execLqbindRx lq sd sp sc s
  | .lqbindUn lq sd => Sys2Proof.Machine.execLqbindUn lq sd s
  | .lqpush lq vb => Sys2Proof.Machine.execLqpush lq vb s
  | .lqpushT lq vb st => Sys2Proof.Machine.execLqpushT lq vb st s
  | .lqpop lq vb => Sys2Proof.Machine.execLqpop lq vb s
  | .lqstat sd lq => Sys2Proof.Machine.execLqstat sd lq s
  | .xfer fab spec ad as sl ac sv => Sys2Proof.Machine.execXfer fab spec ad as sl ac sv s
  | .ejob w ss => Sys2Proof.Machine.execEjob w ss s
  | .ego spec e => Sys2Proof.Machine.execEgo spec e s
  | .route spec aj => Sys2Proof.Machine.execRoute spec aj s
  | .abandon ab => Sys2Proof.Machine.execAbandon ab s
  | .cload ap sn => Sys2Proof.Machine.execCload ap sn s
  | .carm spec ac => Sys2Proof.Machine.execCarm spec ac s
  | .ctrig spec t => Sys2Proof.Machine.execCtrig spec t s
  | .spdense spec ac => Sys2Proof.Machine.execSpdense spec ac s
  | .arrive rel ch => Sys2Proof.Machine.execArrive rel ch s
  | .bwait o ch => Sys2Proof.Machine.execBwait o ch s
  | .vote rel acq gand gor gsrc ch => Sys2Proof.Machine.execVote rel acq gand gor gsrc ch s
  | .bdom sd ch => Sys2Proof.Machine.execBdom sd ch s
  | .ctlrd sd cr => Sys2Proof.Machine.execCtlrd sd cr s
  | .ctlwr cr ss => Sys2Proof.Machine.execCtlwr cr ss s
  | .tlbinv mode sa sb => Sys2Proof.Machine.execTlbinv mode sa sb s
  | .kstart sd sa sb => Sys2Proof.Machine.execKstart sd sa sb s
  | .bankcfg sb sc => Sys2Proof.Machine.execBankcfg sb sc s
  | .br off => Sys2Proof.Machine.execBr off s
  | .jmp sa => Sys2Proof.Machine.execJmp sa s
  | .call sd off => Sys2Proof.Machine.execCall sd off s
  | .ret sa => Sys2Proof.Machine.execRet sa s
  | .loop l off => Sys2Proof.Machine.execLoop l off s
  | .lbreak l => Sys2Proof.Machine.execLbreak l s
  | .lpsetCnt l sr => Sys2Proof.Machine.execLpsetCnt l sr s
  | .lpsetStr l ar sr => Sys2Proof.Machine.execLpsetStr l ar sr s
  | .trap imm => Sys2Proof.Machine.execTrap imm s
  | .svc imm => Sys2Proof.Machine.execSvc imm s
  | .mAin cb rows z src => Sys2Proof.Machine.execMAin cb rows z src s
  | .mBld imm => Sys2Proof.Machine.execMBld imm s
  | .mCin cb rows src => Sys2Proof.Machine.execMCin cb rows src s
  | .mCout cb rows dst => Sys2Proof.Machine.execMCout cb rows dst s
  | .mEpi scl bias clamp gate fmt sc bi cl => Sys2Proof.Machine.execMEpi scl bias clamp gate fmt sc bi cl s
  | .mGrp ms mc imm => Sys2Proof.Machine.execMGrp ms mc imm s
  | .mLoop lvl ms len imm => Sys2Proof.Machine.execMLoop lvl ms len imm s
  | .mMac cb => Sys2Proof.Machine.execMMac cb s
  | .mPset tgt ms imm => Sys2Proof.Machine.execMPset tgt ms imm s
  | .mSel word g => Sys2Proof.Machine.execMSel word g s
  | .quantumExpiry path => Sys2Proof.Machine.execQuantumExpiry path s
  | .holdTimeout path => Sys2Proof.Machine.execHoldTimeout path s
  | .holdEnd sid => Sys2Proof.Machine.execHoldEnd sid s
  | .waitConditionMet sid => Sys2Proof.Machine.execWaitConditionMet sid s
  | .storeDrain sid => Sys2Proof.Machine.execStoreDrain sid s
  | .leaseWaitEnd sid => Sys2Proof.Machine.execLeaseWaitEnd sid s
  | .leaseExpiry line => Sys2Proof.Machine.execLeaseExpiry line s
  | .directoryRead line cluster => Sys2Proof.Machine.execDirectoryRead line cluster s
  | .directoryWrite line cluster => Sys2Proof.Machine.execDirectoryWrite line cluster s
  | .directoryWriteback line cluster => Sys2Proof.Machine.execDirectoryWriteback line cluster s
  | .directoryCleanEviction line cluster => Sys2Proof.Machine.execDirectoryCleanEviction line cluster s
  | .l2ModeSwitch value => Sys2Proof.Machine.execL2ModeSwitch value s
  | .bankSwitchDone cluster bank => Sys2Proof.Machine.execBankSwitchDone cluster bank s
  | .biasFlipToHost region => Sys2Proof.Machine.execBiasFlipToHost region s
  | .biasFlipToDevice region => Sys2Proof.Machine.execBiasFlipToDevice region s
  | .hostMemAccess acc => Sys2Proof.Machine.execHostMemAccess acc s
  | .pageLockTake value => Sys2Proof.Machine.execPageLockTake value s
  | .pageLockRelease value => Sys2Proof.Machine.execPageLockRelease value s
  | .remoteLoad p => Sys2Proof.Machine.execRemoteLoad p s
  | .remoteStore p => Sys2Proof.Machine.execRemoteStore p s
  | .remoteAtomic p => Sys2Proof.Machine.execRemoteAtomic p s
  | .remoteCancel p => Sys2Proof.Machine.execRemoteCancel p s
  | .ackReceived a => Sys2Proof.Machine.execAckReceived a s
  | .responseReceived r => Sys2Proof.Machine.execResponseReceived r s
  | .ackTimeout dst flow psn => Sys2Proof.Machine.execAckTimeout dst flow psn s
  | .rnrRetry dst flow psn => Sys2Proof.Machine.execRnrRetry dst flow psn s
  | .circuitCellArrival die port c => Sys2Proof.Machine.execCircuitCellArrival die port c s
  | .cellSend die out => Sys2Proof.Machine.execCellSend die out s
  | .packetRoute die c => Sys2Proof.Machine.execPacketRoute die c s
  | .linkCellReceive die port c => Sys2Proof.Machine.execLinkCellReceive die port c s
  | .linkReplay die port lack => Sys2Proof.Machine.execLinkReplay die port lack s
  | .linkRetrain die port ldly => Sys2Proof.Machine.execLinkRetrain die port ldly s
  | .keySwitch die port => Sys2Proof.Machine.execKeySwitch die port s
  | .counterWarn die port => Sys2Proof.Machine.execCounterWarn die port s
  | .counterSpent die port => Sys2Proof.Machine.execCounterSpent die port s
  | .slotTableArm die value => Sys2Proof.Machine.execSlotTableArm die value s
  | .slotTableSwap die => Sys2Proof.Machine.execSlotTableSwap die s
  | .fabstatClear die value => Sys2Proof.Machine.execFabstatClear die value s
  | .stripCellSend core lq => Sys2Proof.Machine.execStripCellSend core lq s
  | .stripCellReceive circ src cell space payload => Sys2Proof.Machine.execStripCellReceive circ src cell space payload s
  | .spaceCellSend core lq => Sys2Proof.Machine.execSpaceCellSend core lq s
  | .spaceCellReceive circ src space => Sys2Proof.Machine.execSpaceCellReceive circ src space s
  | .routineStart core => Sys2Proof.Machine.execRoutineStart core s
  | .bldComplete core => Sys2Proof.Machine.execBldComplete core s
  | .routineComplete core => Sys2Proof.Machine.execRoutineComplete core s
  | .powerTokenArrival cluster => Sys2Proof.Machine.execPowerTokenArrival cluster s
  | .tokenHoldExpiry cluster => Sys2Proof.Machine.execTokenHoldExpiry cluster s
  | .mpwrRequestExpiry cluster => Sys2Proof.Machine.execMpwrRequestExpiry cluster s
  | .oryxAnswer sid => Sys2Proof.Machine.execOryxAnswer sid s
  | .densifyJob die job => Sys2Proof.Machine.execDensifyJob die job s
  | .routingJobStart die => Sys2Proof.Machine.execRoutingJobStart die s
  | .chamoisRoundStart die => Sys2Proof.Machine.execChamoisRoundStart die s
  | .chreqRequest tid value => Sys2Proof.Machine.execChreqRequest tid value s
  | .chreqEnd tid => Sys2Proof.Machine.execChreqEnd tid s
  | .chgrantRead tid sd => Sys2Proof.Machine.execChgrantRead tid sd s
  | .chemit tid value => Sys2Proof.Machine.execChemit tid value s
  | .permitRequest die expert rep mb seq round rank count => Sys2Proof.Machine.execPermitRequest die expert rep mb seq round rank count s
  | .permitGrant die expert rep round count => Sys2Proof.Machine.execPermitGrant die expert rep round count s
  | .binWrite die expert msg => Sys2Proof.Machine.execBinWrite die expert msg s
  | .combineSend die slot po msg => Sys2Proof.Machine.execCombineSend die slot po msg s
  | .combineDrop die msg => Sys2Proof.Machine.execCombineDrop die msg s
  | .combineWatchdog die => Sys2Proof.Machine.execCombineWatchdog die s
  | .impalaRunStart die entry => Sys2Proof.Machine.execImpalaRunStart die entry s
  | .wordTrigger die entry => Sys2Proof.Machine.execWordTrigger die entry s
  | .impalaSend die entry => Sys2Proof.Machine.execImpalaSend die entry s
  | .impalaRecv die entry => Sys2Proof.Machine.execImpalaRecv die entry s
  | .impalaRrs die entry => Sys2Proof.Machine.execImpalaRrs die entry s
  | .impalaCopy die entry => Sys2Proof.Machine.execImpalaCopy die entry s
  | .impalaWait die entry => Sys2Proof.Machine.execImpalaWait die entry s
  | .impalaLoop die entry => Sys2Proof.Machine.execImpalaLoop die entry s
  | .impalaEnd die entry => Sys2Proof.Machine.execImpalaEnd die entry s
  | .chunkArrival die entry run rank chunk msg => Sys2Proof.Machine.execChunkArrival die entry run rank chunk msg s
  | .launchPacketAppend queue => Sys2Proof.Machine.execLaunchPacketAppend queue s
  | .startMessage task core => Sys2Proof.Machine.execStartMessage task core s
  | .coreCompletion core => Sys2Proof.Machine.execCoreCompletion core s
  | .taskRetire task => Sys2Proof.Machine.execTaskRetire task s
  | .preload task => Sys2Proof.Machine.execPreload task s
  | .budgetExpiry task => Sys2Proof.Machine.execBudgetExpiry task s
  | .taskResume task => Sys2Proof.Machine.execTaskResume task s
  | .jobStart die engine => Sys2Proof.Machine.execJobStart die engine s
  | .jobRetire die job => Sys2Proof.Machine.execJobRetire die job s
  | .jobFailure die job cause tval => Sys2Proof.Machine.execJobFailure die job cause tval s
  | .commitEntryCommit core idx => Sys2Proof.Machine.execCommitEntryCommit core idx s
  | .commitEntryDiscard core idx => Sys2Proof.Machine.execCommitEntryDiscard core idx s
  | .preemption sid => Sys2Proof.Machine.execPreemption sid s
  | .contextRestore sid task => Sys2Proof.Machine.execContextRestore sid task s
  | .interrupt sid => Sys2Proof.Machine.execInterrupt sid s
  | .isend value => Sys2Proof.Machine.execIsend value s
  | .timerInterrupt sid => Sys2Proof.Machine.execTimerInterrupt sid s
  | .gatherDataArrival sid => Sys2Proof.Machine.execGatherDataArrival sid s
  | .elementFault sid => Sys2Proof.Machine.execElementFault sid s
  | .bmembWrite core hi value => Sys2Proof.Machine.execBmembWrite core hi value s
  | .completionObserved die ch => Sys2Proof.Machine.execCompletionObserved die ch s
  | .dbgchanWrite value => Sys2Proof.Machine.execDbgchanWrite value s
  | .debugHaltRequest sid => Sys2Proof.Machine.execDebugHaltRequest sid s
  | .debugResume sid => Sys2Proof.Machine.execDebugResume sid s
  | .selfTestPass word bit => Sys2Proof.Machine.execSelfTestPass word bit s
  | .unitFailure word bit => Sys2Proof.Machine.execUnitFailure word bit s
  | .droopTrip die => Sys2Proof.Machine.execDroopTrip die s
  | .droopRecovery die => Sys2Proof.Machine.execDroopRecovery die s
  | .machineCheck t => Sys2Proof.Machine.execMachineCheck t s
  | .softError unit => Sys2Proof.Machine.execSoftError unit s
  | .registerWrite off size value => Sys2Proof.Machine.execRegisterWrite off size value s
  | .scatterElementComplete sid => Sys2Proof.Machine.execScatterElementComplete sid s
  | .fabricStart slot => Sys2Proof.Machine.execFabricStart slot s
  | .mark => Sys2Proof.Machine.execMark s
  | .reclaim => Sys2Proof.Machine.execReclaim s
  | .yield => Sys2Proof.Machine.execYield s
  | .halt => Sys2Proof.Machine.execHalt s
  | .bkpt => Sys2Proof.Machine.execBkpt s
  | .eret => Sys2Proof.Machine.execEret s
  | .mEnd => Sys2Proof.Machine.execMEnd s
  | .mNextg => Sys2Proof.Machine.execMNextg s
  | .mSync => Sys2Proof.Machine.execMSync s
  | .l2ModeSwitchDone => Sys2Proof.Machine.execL2ModeSwitchDone s
  | .biasFlipDone => Sys2Proof.Machine.execBiasFlipDone s
  | .dispatch => Sys2Proof.Machine.execDispatch s
  | .powerOnReset => Sys2Proof.Machine.execPowerOnReset s
  | .warmReset => Sys2Proof.Machine.execWarmReset s
  | .bootGo => Sys2Proof.Machine.execBootGo s
  | .bootOk => Sys2Proof.Machine.execBootOk s
  | .bootFail => Sys2Proof.Machine.execBootFail s
  | .bootTimeout => Sys2Proof.Machine.execBootTimeout s

end Sys2Proof.Machine
end

