-- ==== Sys2Proof/Machine/Issue.lean ====
section
/-! DEFINITION. A bundle on its way: restart marks (R53, R54, R119), what stands in the way (R305, R478), issue (R42, R47), the
loop sequencer (R50) and the events of a bundle boundary (R278). -/

namespace Sys2Proof.Machine

namespace State

/-- The state with the mark of the bundle in issue saved, replay entries not yet injected among its own (R53, R58). -/
def setMark (s : State) : State :=
  s.updMe (fun st =>
    let st := st.saveMark s.issue.off s.issue.cycle s.issue.seq
    { st with mark := { st.mark with replay := st.toInject s.issue.off ++ st.mark.replay } })

/-! ### What stands in the way (R305, R478) -/

/-- What stands in the way of one operation of the bundle in issue. -/
def obstacleOf (s : State) (p : Guard × SlotOp) : Option Obstacle :=
  match exec p.2.op { s with issue := { s.issue with
      probe := true, sq := p.2.sq, spec := specGuard s.me s.issue.cycle p.1 p.2 } } with
  | .next t => t.issue.found
  | _ => none

/-- The obstacles of a bundle's operations, in their order; one in B1 is judged after the loop effects of B0 (R321), and one
that reads a card after the stores that the operations before it make (R305). -/
def obstacles (s : State) : List (Guard × SlotOp) → List Obstacle
  | [] => []
  | p :: rest =>
    match s.obstacleOf p with
    | some o => o :: obstacles s rest
    | none =>
      if isLoopOp p.2.op then
        match exec p.2.op { s with issue := { s.issue with checked := true } } with
        | .next t => obstacles { t with issue := s.issue } rest
        | _ => obstacles s rest
      else if storesAhead p.2.op && rest.any (fun q => readsCard q.2.op) then
        match exec p.2.op { s with issue := { s.issue with checked := true } } with
        | .next t =>
          obstacles { s with issue := { s.issue with
            ahead := s.issue.ahead ++ t.me.gated.drop s.me.gated.length } } rest
        | _ => obstacles s rest
      else obstacles s rest

/-- The place of an obstacle among those of a bundle: a wait, for which the bundle does not issue at all, then a trap, a
hold, a load of another device, and last what cannot be asked for twice. -/
def obstacleRank : Obstacle → Nat
  | .wait _ => 0
  | .trap _ _ => 1
  | .hold => 2
  | .ask (.load _) => 3
  | .ask _ => 4

/-- Of the obstacles of a bundle's operations, in their order, the one that counts. -/
def firstObstacle (l : List Obstacle) : Option Obstacle :=
  (List.range 5).findSome? (fun n => l.find? (fun o => obstacleRank o == n))

/-- A VOTE with no pending arrival, whose first attempt is still to come (R478). -/
def freshVote (s : State) (p : Guard × SlotOp) : Bool :=
  match p.2.op with
  | .vote _ _ _ _ _ ch => !s.me.pend.getLsbD ch.toNat
  | _ => false

/-- The type, order and address of an atomic. -/
def atomicPlace : Instr → Option (Ty × OrdSc × Addr)
  | .amo t _ o _ ea _ | .amocas t o _ ea _ _ | .qinc t o _ _ ea _ | .qwrap t o _ _ ea _ | .qdec t o _ _ ea
  | .qaddl t o _ _ ea _ => some (t, o, ea)
  | _ => none

/-- Would a local atomic of the bundle in issue wait in the store queue (R127)? -/
def queuesAtomic (s : State) (p : Guard × SlotOp) : Bool :=
  match atomicPlace p.2.op with
  | none => false
  | some (t, o, ea) => match s.access (s.spaceOf s.cur) .atomic t.bytes (s.me.regs.addr ea) with
    | .ok (pa, _, .mem _, _) => s.atomicQueues o (pa % 2 ^ 52)
    | _ => false

/-- Must an SCLD, which reads in its issue cycle (R421), wait for the MARK or the atomic before it in its bundle: for the stores
before that MARK (R118), and for the atomic to perform (R122, R127, log 36)? -/
def scldWaits (s : State) (live : List (Guard × SlotOp)) : Bool :=
  live.any (fun p => match p.2.op with | .scld _ _ _ => true | _ => false) &&
    ((live.any (fun p => beforeScld p.2.op) && !(s.me.unseen.isEmpty && s.me.aq.isEmpty)) || live.any s.queuesAtomic)

/-- The request of a TLBINV. -/
def tlbinvReq (s : State) : Instr → Option Req
  | .tlbinv m a b => some (.tlbinv m (s.me.regs.rs a).toNat (s.me.regs.rs b).toNat)
  | _ => none

/-- The stores of a bundle with a TLBINV, which stand before it and whose visibility it waits for (R305, R437); none where nothing
else of the bundle is in the way yet, or the TLBINV itself traps. -/
def storesFirst (s : State) (live : List (Guard × SlotOp)) : List (Guard × SlotOp) :=
  let isTlb (p : Guard × SlotOp) : Bool := (s.tlbinvReq p.2.op).isSome
  if live.any isTlb && (s.obstacles (live.filter (fun p => !isTlb p))).isEmpty &&
      (live.filter isTlb).all (fun p => match s.obstacleOf p with
        | some (.trap _ _) => false
        | _ => true)
  then live.filter (fun p => storesAhead p.2.op) else []

/-- What the operations of a bundle that execute do in this cycle, once holds and marks are past: the first attempt of VOTE
alone, before what stands in the way of any other operation (R478); the stores that a TLBINV waits for; an obstacle; or all of
them. -/
def chooseOps (s : State) (live : List (Guard × SlotOp)) :
    Except Obstacle (Bool × List (Guard × SlotOp)) :=
  let votes := live.filter s.freshVote
  let first := if votes.isEmpty then s.storesFirst live else []
  if !first.isEmpty then .ok (false, first)
  else match firstObstacle (s.obstacles (if votes.isEmpty then live else votes)) with
  | some o => .error o
  | none =>
    if !votes.isEmpty then .ok (false, votes)
    else if s.scldWaits live then .error .hold
    else .ok (true, live)

/-- The operations that execute of a bundle without the stores that have acted before its TLBINV (R437). -/
def notStored (s : State) (live : List (Guard × SlotOp)) : List (Guard × SlotOp) :=
  if s.me.request.any (fun q => q.off == s.issue.off && q.stored) then live.filter (fun p => !storesAhead p.2.op) else live

/-- The state after the stores that a TLBINV waits for have acted, which its request keeps. -/
def markStored (s : State) (ops : List (Guard × SlotOp)) : State :=
  if ops.any (fun p => storesAhead p.2.op) then
    let past := match s.me.request with
      | some q => if q.off = s.issue.off then q.answers else []
      | none => []
    (s.updMe (fun st => { st with request := some {
      off := s.issue.off, req := .tlbinv .all 0 0, sent := false, tag := 0, want := 1, got := [], fail := none, own := [], past
      stored := true } })).hold
  else s

/-- The attempt of a strand to issue the bundle at its pc: the state with results and mark written, and what stands in the
way or the bundle, whether it is whole, and the operations that act. -/
def attempt (s : State) (sid : Nat) : State × Except Obstacle (Bundle × Bool × List (Guard × SlotOp)) :=
  let s := s.beginIssue sid
  match s.fetch sid with
  | .error t => (s, .error (.trap .precise t))
  | .ok (b, len) =>
    let s := { s with issue := { s.issue with len } }
    let st := s.me
    let live := s.notStored (liveOps st s.issue.cycle b)
    if s.flightHeld b live then (s, .error .hold)
    else
      let s := if s.carriesMark b live then s.setMark else s
      let early := if st.sbcheck.getLsbD 0 then earlyRead st b live else none
      match early with
      | some r => (s, .error (.trap .precise (Trap.of 0x05 (regTval r))))
      | none => match s.chooseOps live with
        | .error o => (s, .error o)
        | .ok (whole, ops) => (s, .ok (b, whole, ops))

/-! ### Issue -/

/-- The operations of a bundle act, in their order (R305). -/
def act : List (Guard × SlotOp) → State → Host.Outcome State Fault Refusal
  | [], s => .next s
  | p :: rest, s =>
    match exec p.2.op { s with issue := { s.issue with
        checked := true, sq := p.2.sq && squashable p.2.op && !s.popsFifo p.2.op
        spec := specGuard s.me s.issue.cycle p.1 p.2 } } with
    | .next t => act rest t
    | .fault f => .fault f
    | .refused r => .refused r

/-- One level at the end of its body (R50): strides, then the next iteration, or the level is left. The flag says that an
inner level has looped back. -/
def loopEnd (off : BitVec 18) (x : Strand × Bool) (l : Nat) : Strand × Bool :=
  let st := x.1
  let y := st.regs.loop l
  if x.2 || !y.active || y.fin.toNat != off.toNat then x
  else
    let a := Vector.ofFn (fun (i : Fin 16) => st.regs.a[i] + (y.strides[i]).signExtend 64)
    let k := st.regs.rk (BitVec.ofNat 3 l)
    let r := { st.regs with a }
    if k.toNat + 1 < y.cnt.toNat then
      ({ st with pc := y.beg.setWidth 18, regs := { r with k := r.k.setIfInBounds l (k + 1) } }, true)
    else ({ st with regs := r.setLoop l { y with active := false } }, false)

/-- The state after the loop sequencer has looked at a bundle that took no branch (R50). -/
def loopBack (s : State) : State :=
  s.updMe (fun st =>
    if (List.range 6).any (fun l => (st.regs.loop l).active && (st.regs.loop l).fin.toNat == s.issue.off.toNat) then
      ((List.range 6).reverse.foldl (loopEnd s.issue.off) (st.settle (s.issue.cycle + 1), false)).1
    else st)

/-- The strand in issue as its bundle issues (R42, R57, R319): counted, the next bundle's offset, and replay entries on
their way. -/
def startBundle (s : State) (stall : Nat) : State :=
  let t := s.issue.cycle
  s.updMe (fun st => { st with
    seq := s.issue.seq, bundles := st.bundles + 1, lastIssue := t, lastStall := stall, qcount := st.qcount + 1
    holdFrom := none, forceMark := false, stopAt := none
    pc := BitVec.ofNat 18 (s.issue.off.toNat + s.issue.len)
    flight := { st with pc := s.issue.off }.flightAt t
    replay := [], reinject := st.reinject.filter (fun x => decide (x.1 < st.depth)) })

/-- The next strand of the path of the one in issue, if that has left RUN (R22). -/
def passPath (s : State) : State :=
  if s.me.run = .run then s else s.reselect s.cur (max s.issue.cycle (s.me.lastIssue + s.me.lastStall))

/-- The state after a bundle has acted (R21, R47, R50, R277): the sequencer, the next issue, then an After trap, a system
operation, or a switch point. A machine check comes before an After trap, which is then discarded (R278). -/
def endBundle (s : State) (b : Bundle) : State :=
  let t := s.issue.cycle
  let taken := s.issue.target.isSome
  let s := if taken then s else s.loopBack
  let next := max (t + 1 + b.stall.toNat) (if taken then t + 2 else 0)
  let s := s.updMe (fun st => { st with nextIssue := next, request := none })
  let after := if s.me.reports.any (fun r => r.code == 0x3F) then none else s.issue.after
  match after with
  | some tr => (s.trapAfter tr).passPath
  | none => match s.issue.system with
    | some 9 => s.doHalt
    | some 10 => s.doBkpt
    | some _ => s.switch s.cur
    | none => if b.yieldHint && s.issue.yhen then s.switch s.cur else s

/-- The state after a strand has taken a report at a boundary (R277, R278). -/
def takeReport (s : State) (sid : Nat) (t : Trap) : State :=
  let pc := (s.strand sid).pc
  ({ s with cur := sid }.updStrand sid (fun st => { st.release with reports := st.reports.erase t })).takeTrap sid t pc

/-- The state after an obstacle has been met by the bundle in issue. -/
def meet (s : State) (o : Obstacle) : State :=
  let s := s.obstruct o
  match o with
  | .ask _ => s.startRequest
  | .hold => s
  | _ => s.passPath

/-- The report that a strand takes at its boundary instead of its bundle (R278): a machine check before everything, another
where the bundle does not trap. -/
def boundary (s : State) (sid : Nat) (traps : Bool) : Option State :=
  if !s.breakable sid then none
  else match (s.strand sid).report with
    | some t => if traps && t.code != 0x3F then none else some (s.takeReport sid t)
    | none => none

/-- Does a strand stop at its boundary, for an interrupt or to be saved (R57, R278)? To be saved it stops where its bundle would
have issued, so not while that waits for results in flight. -/
def stops (s : State) (sid : Nat) : Bool :=
  s.breakable sid && ((s.interruptOf sid).isSome ||
    ((s.leavingTask sid).isSome && (s.core (coreOf sid)).started.getLsbD (strandIn sid) && !s.awaitsFlight sid))

/-- The state with a strand stopped at its boundary: the cycle in which its bundle would have issued is kept. -/
def stopHere (s : State) (sid : Nat) : State :=
  s.updStrand sid (fun st => { st with
    stopAt := some (st.stopAt.getD (s.cycleOf sid)), nextIssue := s.cycleOf sid + 1 })

/-- The register for which a bundle about to issue fails the write check of the scoreboard, if it is on (R45). -/
def lateIn (s : State) (b : Bundle) (ops : List (Guard × SlotOp)) : Option RegName :=
  if s.me.sbcheck.getLsbD 0 then
    match act ops (s.startBundle b.stall.toNat) with
    | .next t => lateWrite t.me t.issue.seq
    | _ => none
  else none

/-- An attempt under the write check of the scoreboard, a Precise trap as the read check is (R45, R277). The manual does not say
which trap is taken where a check and another trap of the bundle both hold: the read check comes before, the write check after
every other trap of the bundle (DESIGN CHOICE, log 38). -/
def checked (a : State × Except Obstacle (Bundle × Bool × List (Guard × SlotOp))) :
    Except Obstacle (Bundle × Bool × List (Guard × SlotOp)) :=
  match a.2 with
  | .ok (b, true, ops) => match a.1.lateIn b ops with
    | some r => .error (.trap .precise (Trap.of 0x05 (regTval r)))
    | none => a.2
  | o => o

/-- The translations that the TLBs of the device hold. -/
def tlbs (s : State) : List TlbEntry := s.ctlb.flatMap (·.2) ++ s.dies.toList.flatMap (·.tlb)

/-- Must a walk that a bundle makes wait at the home of its entry: a mode switch or a flip of its region, or, to set A or D, a
lease of its line (R90, R100, R101)? The second state is the one after the bundle. -/
def walkWaits (s t : State) : Bool :=
  (s.l2busy || s.biasBusy || !s.leases.isEmpty) && (let old := s.tlbs
    t.tlbs.any (fun e => !old.contains e && (s.homeBusy e.pteAddr ||
      (inHbm e.pteAddr && !s.leaseOver e.pteAddr && s.readMem e.pteAddr 8 != t.readMem e.pteAddr 8))))

/-- The state after a strand in RUN has come to a boundary: it takes a report, stops, meets what stands in its way, or issues
its bundle. -/
def issueBundle (s : State) (sid : Nat) : Host.Outcome State Fault Refusal :=
  let a := s.attempt sid
  let o := checked a
  let traps := match o with
    | .error (.trap _ _) => true
    | _ => false
  match s.boundary sid traps with
  | some t => .next ({ t with cur := sid }.passPath)
  | none =>
    if !traps && s.stops sid then .next (s.stopHere sid)
    else match o with
    | .error o => .next (a.1.meet o)
    | .ok (b, whole, ops) =>
      if !whole then
        match act ops a.1 with
        | .next t => .next (t.markStored ops).passPath
        | o => o
      else
        match act ops (a.1.startBundle b.stall.toNat) with
        | .next t => .next (if a.1.walkWaits t then a.1.hold else t.endBundle b)
        | o => o

/-- The state after a strand whose HALT waits has come to a boundary (R372): it takes a report with EPC at the HALT bundle,
stops, is HALTED, or goes on waiting. -/
def haltOn (s : State) (sid : Nat) : State :=
  match s.boundary sid false with
  | some t => { t with cur := sid }.passPath
  | none =>
    if s.stops sid then s.stopHere sid
    else
      let s := s.beginIssue sid
      if s.haltReady sid then s.halted sid else s.hold

/-- The state after a strand in RUN has had its turn: its HALT waits, or it comes to its next bundle. -/
def issueOn (s : State) (sid : Nat) : Host.Outcome State Fault Refusal :=
  if (s.strand sid).halting then .next (s.haltOn sid) else s.issueBundle sid

/-- Has the hold of a strand in WAIT ended, so that its bundle no longer holds (R23)? A bundle that has to ask is held again
once it has asked. -/
def holdOver (s : State) (sid : Nat) : Bool :=
  (s.strand sid).run == .waiting && (s.strand sid).wait == .hold &&
    (if (s.strand sid).halting then s.haltReady sid
     else match (s.attempt sid).2 with
     | .error .hold => false
     | _ => true)

/-- The micro-op that a core's matrix unit has to issue acts, or its routine faults (R152, R160). -/
def microOn (s : State) (core : Nat) : Host.Outcome State Fault Refusal :=
  match s.fetchMicro core with
  | none => .next s
  | some (.error sub) => .next (s.routineFault core 0x20 sub 0)
  | some (.ok i) => exec i { s with mcore := core }

end State

end Sys2Proof.Machine
end

