-- ==== Sys2Proof/Machine/Agenda.lean ====
section
/-! DEFINITION. What the device does next of its own: the events that its units have ready, in a fixed order (log 8), and
how time passes (R195, R300). -/

namespace Sys2Proof.Machine

namespace State

/-- The event of a held request that may act (R206, R207). -/
def heldEvent (s : State) : Option Instr :=
  s.heldDue.map (fun p => if p.op = 1 then .remoteLoad p else if p.op = 2 then .remoteStore p else .remoteAtomic p)

/-- The first thing that the power ring of a die has ready (R161, R162). -/
def tokenDueOn (s : State) (die : Nat) : Option Instr :=
  let d := s.die die
  let clu := fun (t : Nat) => die * 16 + t
  ((d.ring.find? (fun t => s.tokenArrived (clu t.1))).map (fun t => Instr.powerTokenArrival (clu t.1))).or (
    ((d.ring.find? (fun t => s.tokenSpent (clu t.1))).map (fun t => Instr.tokenHoldExpiry (clu t.1))).or
      ((d.mpwr.find? (fun e => decide (e.2 ≤ d.cycle))).map (fun e => Instr.mpwrRequestExpiry (clu e.1))))

/-- The first thing that the power rings have ready. -/
def tokenDue (s : State) : Option Instr := (List.range 4).findSome? s.tokenDueOn

/-- The first thing that the matrix units have ready (R148, R163). -/
def matrixDue (s : State) : Option Instr :=
  s.cores.findSome? (fun p =>
    if s.coreOff p.1 then none
    else if s.startDue p.1 then some (.routineStart p.1)
    else match p.2.routine with
      | none => none
      | some r =>
        if r.bld != 0 && r.bld ≤ (s.die (dieOfCore p.1)).cycle then some (.bldComplete p.1)
        else if s.routineDone p.1 then some (.routineComplete p.1)
        else none)

/-- The event of a strand's oldest element, or of the overflow register's, when it is due (R282, R368). -/
def elementDue (s : State) (sid : Nat) : Option Instr :=
  let c := s.core (coreOf sid)
  let room := decide (c.fq.length < 256)
  match c.overflow with
  | some o =>
    if o.sid = sid && room then some (.elementFault sid)
    else (s.elemDue sid).bind (fun e =>
      if e.cause != 0 then none else some (if e.scatter then .scatterElementComplete sid else .gatherDataArrival sid))
  | none =>
    (s.elemDue sid).map (fun e =>
      if e.cause != 0 then .elementFault sid
      else if e.scatter then .scatterElementComplete sid else .gatherDataArrival sid)

/-- The event of the store at the head of a strand's queue, when it may become visible (R100, R116). -/
def storeDue (s : State) (sid : Nat) : Option Instr :=
  if (s.passedDue sid).isSome then some (.leaseWaitEnd sid)
  else match (s.strand sid).storeQ with
  | [] => none
  | p :: _ =>
    if !s.drainReady sid p then none
    else if s.l2mode && (s.leases.find (lineOf (p.pa % 2 ^ 52))).isSome then some (.leaseWaitEnd sid)
    else some (.storeDrain sid)

/-- The event of the selector that is due for a strand (R20, R21, R23). -/
def selectorDue (s : State) (sid : Nat) : Option Instr :=
  let st := s.strand sid
  if s.wakeDue sid then some (.waitConditionMet sid)
  else if s.holdOver sid then some (.holdEnd sid)
  else if s.interruptDue sid then some (.interrupt sid)
  else if st.run == .run && decide (256 ≤ st.qcount) then some (.quantumExpiry (pathOf sid))
  else if st.run == .run && s.otherReady sid &&
      (match st.holdFrom with | some t => decide (t + 64 ≤ s.cycleOf sid) | none => false)
  then some (.holdTimeout (pathOf sid))
  else none

/-- The first thing that the strands have ready: of a core that has failed the stores that it has issued (R14, log 40). -/
def strandDue (s : State) : Option Instr :=
  s.strands.findSome? (fun p =>
    if s.coreOff (coreOf p.1) then s.storeDue p.1
    else (s.elementDue p.1).or ((s.storeDue p.1).or (s.selectorDue p.1)))

/-- The first thing that membership writes, barriers, leases, banks and mode switches have ready (R29, R30, R100, R101, R103, R110). Mode switches
and bias flips end in ticks that are a multiple of `workLatency` (log 6). -/
def memoryDue (s : State) : Option Instr :=
  let slow := s.now % Config.workLatency == 0
  (s.cores.findSome? (fun p => (p.2.bmembQ.find? (fun e => decide (e.1 ≤ (s.die (dieOfCore p.1)).cycle))).map
    (fun e => Instr.bmembWrite p.1 e.2.1 e.2.2))).or (
  (s.chans.findSome? (fun p => (p.2.obs.find? (fun o => decide (o.2.2 ≤ (s.die o.1).cycle))).map
    (fun o => Instr.completionObserved o.1 p.1))).or (
  ((s.leases.find? (fun p => decide (p.2 < s.homeCycle (p.1 * 64)))).map (fun p => Instr.leaseExpiry p.1)).or (
  ((s.banks.find? (fun p => p.2.busy && decide (p.2.busyEnd ≤ (s.die (p.1 / 1024)).cycle))).map
    (fun p => Instr.bankSwitchDone (p.1 / 64) (p.1 % 64))).or (
  if s.l2busy && slow then some .l2ModeSwitchDone
  else if s.biasBusy && slow && !(s.biasTgt && s.regionLocked s.biasRegion.toNat) then some .biasFlipDone
  else none))))

/-- The first thing that the launch coordinator, the engines and Oryx have ready. During a mode switch they wait at their homes,
and during a flip to host bias Oryx, which holds no page lock, does (R101, R110). -/
def engineWork (s : State) : Option Instr :=
  if s.l2busy then none
  else s.launchDue.or (s.jobDue.or ((if s.biasBusy && s.biasTgt then none else s.oryxDue).or (s.denseDue.or (s.routeDue.or
    s.impalaDue))))

/-- The event that the device takes next of its own in this tick, if any; in minimal mode only start-up's (R297). -/
def due (s : State) : Option Instr :=
  if s.boot.min then s.timeDue
  else s.timeDue.or (s.heldEvent.or (s.flowDue.or (s.fabricDue.or (s.queueDue.or (s.memoryDue.or (s.strandDue.or (
    s.engineWork.or (s.tokenDue.or s.matrixDue))))))))

/-- The strand in RUN, lowest first, whose next bundle may issue in this tick (R21); none in minimal mode (R297), and none of a core
that has failed (R14). -/
def nextStrand (s : State) : Option Nat :=
  if s.boot.min then none
  else (s.strands.find? (fun p => p.2.run == .run && decide (p.2.nextIssue ≤ s.cycleOf p.1) && !s.coreOff (coreOf p.1))).map (·.1)

/-- The strand, lowest first, whose oldest queued load performs in this tick (R116); none in minimal mode (R297). -/
def nextLoad (s : State) : Option Nat :=
  if s.boot.min then none else (s.strands.find? (fun p => s.loadReady p.1 && !s.coreOff (coreOf p.1))).map (·.1)

/-- The core, lowest first, whose matrix unit issues in this tick (R152); none in minimal mode (R297). -/
def nextUnit (s : State) : Option Nat :=
  if s.boot.min then none
  else (s.cores.find? (fun p => (s.fetchMicro p.1).isSome && !s.coreOff p.1)).map (·.1)

/-- Slots of a link in 3,200 parts of a slot for each tick of 1/1.05 GHz (R195): 2,373 parts a slot. -/
def slotParts : Nat := 2373

/-- A die after one tick (R300): its clock gains CLK eighths of a cycle. -/
def tickDie (d : Die) : Die :=
  let f := d.frac + d.clk
  if 8 ≤ f then { d with cycle := d.cycle + 1, frac := f - 8 } else { d with frac := f }

/-- The state after a slot of the fabric has passed: each trained link has carried a cell, the cells that found no credit are
marked, and a write to `FRT` in it applies (R191, R195, R199, R201); in minimal mode no link sends (R297). -/
def endSlot (s : State) : State :=
  let s := if s.boot.min then s else (List.range 16).foldl (fun s n => s.linkSlot (n / 4) (n % 4)) s
  { s with
    slotFrac := s.slotFrac - slotParts
    dies := Vector.ofFn (fun i => { s.dies[i] with slot := s.dies[i].slot + 1, spray := s.markDry i, frtOld := [] }) }

/-- The state after time has passed: to the next link slot where one begins in this tick, else to the next tick. -/
def elapse (s : State) : State :=
  let s :=
    if slotParts ≤ s.slotFrac then s.endSlot
    else
      let s := s.endCycle
      { s with now := s.now + 1, slotFrac := s.slotFrac + 3200, dies := s.dies.map tickDie }
  if s.boot.min then s else (List.range 4).foldl routeWord s

/-- Does an event of the inbox come from what still runs in minimal mode: the host port, the management controller, resets and
diagnostics (R297)? -/
def minimalTakes : Instr → Bool
  | .registerWrite _ _ _ | .hostMemAccess _ | .selfTestPass _ _ | .unitFailure _ _ | .droopTrip _ | .droopRecovery _
  | .machineCheck _ | .debugHaltRequest _ | .debugResume _ | .powerOnReset | .warmReset | .bootGo | .bootOk | .bootFail
  | .bootTimeout => true
  | _ => false

/-- The outcome of the first event of the inbox; one of a unit that does not run in minimal mode is gone (R297). -/
def inboxOn (s : State) (i : Instr) : Host.Outcome State Fault Refusal :=
  if s.boot.min && !minimalTakes i then .next s else exec i s

/-- The outcome of an event that a unit has ready; after a step of a collective the turn passes on (R258). -/
def eventOn (s : State) (i : Instr) : Host.Outcome State Fault Refusal :=
  match exec i s with
  | .next t => .next (t.passTurn i)
  | o => o

/-! ### A program put in place from outside (log 28) -/

/-- The state with start-up over and no event waiting. -/
def started (s : State) : State := { s with inbox := [], boot := { s.boot with stage := 4, min := false } }

/-- The state in which core 0 runs a routine of one word, called by its strand 0. -/
def withMicroWord (s : State) (w : Nat) : State :=
  let e : Word := BitVec.ofNat 64 (2 ^ 63 + 2 ^ 16)
  let s := s.started
  (s.writeMem mstoreBase 8 w).updCore 0 (fun c => { c with
    rtent := c.rtent.insert 0 e, calls := [⟨0, 0, Vector.replicate 8 0, 0⟩]
    routine := some (Routine.start e (s.die 0).cycle) })

/-- The state in which strand 0 runs from a stream that begins with a literal bundle. -/
def withBundle (s : State) (w : Nat) : State :=
  let s := s.started
  ((s.writeMem istoreBase 50 (0xFFFF + w * 2 ^ 16)).updCore 0 (fun c => { c with dictbase := 0, dictlen := 0, slen := 25 })).updStrand 0
    (fun st => { st with run := .run, wait := .none, pc := 0, nextIssue := s.cycleOf 0 })

end State

end Sys2Proof.Machine
end

