-- ==== Sys2Proof/Machine/Step.lean ====
section
/-! DEFINITION. One step of the device (log 8): the first event of the inbox, else the first event that a unit has ready,
else a queued load that performs, else a micro-op, else a bundle of a strand in RUN, else time passes. -/

namespace Sys2Proof.Machine

/-- One step. -/
def step (s : State) : Host.Outcome State Fault Refusal :=
  match s.inbox with
  | i :: rest => { s with inbox := rest }.inboxOn i
  | [] =>
    match s.due with
    | some i => s.eventOn i
    | none =>
      match s.nextLoad with
      | some sid => .next (s.performHead sid)
      | none =>
        match s.nextUnit with
        | some core => s.microOn core
        | none =>
          match s.nextStrand with
          | some sid => s.issueOn sid
          | none => .next s.elapse

/-- The state in which the next step runs the instruction of a table word (log 28): for a micro-op, core 0 runs a routine
whose first word it is; for an operation, strand 0 of core 0 is in RUN at the start of a stream that begins with the
literal bundle of the word. Start-up is over and no event waits. -/
def State.withFetchWord (s : State) (nbits w : Nat) : State :=
  if nbits = 64 then s.withMicroWord w else s.withBundle w

end Sys2Proof.Machine
end

