-- ==== Sys2Proof/Safety.lean ====
section
/-! DEFINITION. What the statements speak of: an operation that nothing stands in the way of, the completion of an
instruction, a result that is put in flight, what a register holds of an integer, the canonical form of memory, and a
run that no step stops. -/

namespace Sys2Proof.Machine

/-- The operation in issue acts: it is not only asked what its obstacle is (R305). -/
def State.Acts (s : State) : Prop := s.issue.checked = true ∨ s.issue.probe = false

/-- The bundle in issue has the answers to a request (R206, R305). -/
def State.Answered (s : State) (r : Req) : Prop :=
  ∃ p x, s.me.request = some p ∧ p.off = s.issue.off ∧ p.answerTo r = some x

/-- The strand in issue has not lent a bank (R159). -/
def State.Keeps (s : State) (b : Nat) : Prop := s.myCore.lent ≠ some (strandIn s.cur, b)

/-- A translation that an access leaves as it is: none is walked, and a write finds its page dirty (R90). -/
def Xlat.Settled (acc : Acc) : Xlat → Prop
  | .ok _ _ (some e) fresh => fresh = false ∧ (acc.writes = true → e.dirty = true)
  | _ => True

/-- Nothing stands in the way of the operation in issue: its obstacle `o` is not met, and it is not only asked what its
obstacle is (R305). -/
def State.Free (s : State) (o : State → Option Obstacle) : Prop :=
  o s = none ∧ (s.issue.checked = true ∨ s.issue.probe = false)

/-- The operation in issue stands alone and meets its own obstacle (R277). -/
def State.Alone (s : State) : Prop := s.issue.checked = false ∧ s.issue.probe = false

/-- The instruction `i` completes in `s`: `exec` answers a next state, of which `P` holds. -/
def Completes (i : Instr) (s : State) (P : State → Prop) : Prop := ∃ u, exec i s = .next u ∧ P u

/-- The only change from `s` to `u` is one more result in flight of the strand in issue (R42, R43): bits `mask` of `d` take
those of `val`, `lat` cycles after issue, interlocked or not, with the flags of a floating operation. -/
def Lands (s u : State) (d : RegName) (val mask : VWord) (lat : Nat) (lock : Bool) (flags : Nat) : Prop :=
  u = s.updMe (fun st => { st with flight := st.flight ++
    [{ dst := d, val, mask, due := some (s.issue.cycle + lat), lock, sq := s.issue.sq, fpctl := false, flags
       replay := false, seq := s.issue.seq, tag := 0 }] })

/-- The only change is a result in flight for a scalar register. -/
def LandsS (s u : State) (sd : BitVec 6) (v : Word) (lat : Nat) (lock : Bool) : Prop :=
  Lands s u (.s sd) (v.setWidth 2048) (BitVec.allOnes 2048) lat lock 0

/-- The only change is a result in flight for a guard. -/
def LandsG (s u : State) (gd : BitVec 4) (b : Bool) (lat : Nat) (lock : Bool) : Prop :=
  Lands s u (.g gd) (BitVec.ofNat 2048 (b2n b)) (BitVec.allOnes 2048) lat lock 0

/-- A register holds an integer in a type: signed types are sign-extended, the others zero-extended (R59). -/
def Holds (t : Ty) (v : Word) (z : Int) : Prop := if t.signed then v.toInt = z else (v.toNat : Int) = z

/-- A register holds the integer of a type that is congruent to `z` modulo 2^w (Wrap, R59). -/
def HoldsWrapped (t : Ty) (v : Word) (z : Int) : Prop :=
  Holds t v (if t.signed then z.bmod (2 ^ t.width) else z % (2 ^ t.width : Nat))

/-- A register holds the integer of a type that is nearest to `z` (Sat, R59). -/
def HoldsClamped (t : Ty) (v : Word) (z : Int) : Prop :=
  Holds t v (if t.signed then max (-(2 ^ (t.width - 1) : Nat)) (min ((2 ^ (t.width - 1) : Nat) - 1) z)
    else max 0 (min ((2 ^ t.width : Nat) - 1) z))

/-- A register holds w bits given one by one, extended as the type says (R59). -/
def HoldsBits (t : Ty) (v : Word) (f : Nat → Bool) : Prop :=
  ∀ k, k < 64 → v.getLsbD k = if k < t.width then f k else (t.signed && f (t.width - 1))

/-- One more result of the operation in issue is in flight from `s` to `u`, interlocked, its value known. -/
def LockedResult (s u : State) (d : RegName) (v : VWord) : Prop :=
  ∃ r, u.me.flight = s.me.flight ++ [r] ∧ r.dst = d ∧ r.val = v ∧ r.mask = BitVec.allOnes 2048 ∧ r.lock = true ∧
    r.seq = s.issue.seq ∧ ∃ lat, 0 < lat ∧ r.due = some (s.issue.cycle + lat)

/-- A result in flight of the operation in issue whose value has not come: the answer with the tag brings it. -/
def awaited (s : State) (d : RegName) (mask : VWord) (tag : Nat) : Result :=
  { dst := d, val := 0, mask, due := none, lock := true, sq := s.issue.sq, fpctl := false, flags := 0, replay := false
    seq := s.issue.seq, tag }

/-- Every byte of local memory reads as before. -/
def SameMemory (s u : State) : Prop := ∀ a, byteAt u.mem a = byteAt s.mem a

/-- Every byte of local memory outside n bytes from an address reads as before. -/
def SameMemoryBut (s u : State) (a n : Nat) : Prop := ∀ x, x < a ∨ a + n ≤ x → byteAt u.mem x = byteAt s.mem x

/-- Memory is in its canonical form. -/
def State.Inv (s : State) : Prop := Memory.wf s.mem = true

/-- A step that does not stop. -/
def State.Goes (s : State) : Prop := ∃ t, step s = .next t

/-- A safe run of n steps: no step stops, and every state on the way has its memory in canonical form. -/
def SafeRun : Nat → State → Prop
  | 0, s => s.Inv
  | n + 1, s => s.Inv ∧ ∃ t, step s = .next t ∧ SafeRun n t

end Sys2Proof.Machine
end

