-- ==== Sys2Proof/Laws/State.lean ====
section
/-! SUPPORT. What each update of the state leaves, field by field, and what reading a part after writing it gives. -/

namespace Sys2Proof.Machine.State

@[simp] theorem now_setStrand (s : State) (sid : Nat) (x : Strand) : (s.setStrand sid x).now = s.now := rfl
@[simp] theorem cores_setStrand (s : State) (sid : Nat) (x : Strand) : (s.setStrand sid x).cores = s.cores := rfl
@[simp] theorem dies_setStrand (s : State) (sid : Nat) (x : Strand) : (s.setStrand sid x).dies = s.dies := rfl
@[simp] theorem mem_setStrand (s : State) (sid : Nat) (x : Strand) : (s.setStrand sid x).mem = s.mem := rfl
@[simp] theorem poison_setStrand (s : State) (sid : Nat) (x : Strand) : (s.setStrand sid x).poison = s.poison := rfl
@[simp] theorem banks_setStrand (s : State) (sid : Nat) (x : Strand) : (s.setStrand sid x).banks = s.banks := rfl
@[simp] theorem dir_setStrand (s : State) (sid : Nat) (x : Strand) : (s.setStrand sid x).dir = s.dir := rfl
@[simp] theorem ways_setStrand (s : State) (sid : Nat) (x : Strand) : (s.setStrand sid x).ways = s.ways := rfl
@[simp] theorem l2_setStrand (s : State) (sid : Nat) (x : Strand) : (s.setStrand sid x).l2 = s.l2 := rfl
@[simp] theorem hostHeld_setStrand (s : State) (sid : Nat) (x : Strand) : (s.setStrand sid x).hostHeld = s.hostHeld := rfl
@[simp] theorem heldWords_setStrand (s : State) (sid : Nat) (x : Strand) : (s.setStrand sid x).heldWords = s.heldWords := rfl
@[simp] theorem heldStores_setStrand (s : State) (sid : Nat) (x : Strand) : (s.setStrand sid x).heldStores = s.heldStores := rfl
@[simp] theorem heldEvents_setStrand (s : State) (sid : Nat) (x : Strand) : (s.setStrand sid x).heldEvents = s.heldEvents := rfl
@[simp] theorem leases_setStrand (s : State) (sid : Nat) (x : Strand) : (s.setStrand sid x).leases = s.leases := rfl
@[simp] theorem devid_setStrand (s : State) (sid : Nat) (x : Strand) : (s.setStrand sid x).devid = s.devid := rfl
@[simp] theorem l2mode_setStrand (s : State) (sid : Nat) (x : Strand) : (s.setStrand sid x).l2mode = s.l2mode := rfl
@[simp] theorem txflows_setStrand (s : State) (sid : Nat) (x : Strand) : (s.setStrand sid x).txflows = s.txflows := rfl
@[simp] theorem rxflows_setStrand (s : State) (sid : Nat) (x : Strand) : (s.setStrand sid x).rxflows = s.rxflows := rfl
@[simp] theorem circuits_setStrand (s : State) (sid : Nat) (x : Strand) : (s.setStrand sid x).circuits = s.circuits := rfl
@[simp] theorem chans_setStrand (s : State) (sid : Nat) (x : Strand) : (s.setStrand sid x).chans = s.chans := rfl
@[simp] theorem thaw_setStrand (s : State) (sid : Nat) (x : Strand) : (s.setStrand sid x).thaw = s.thaw := rfl
@[simp] theorem lnq_setStrand (s : State) (sid : Nat) (x : Strand) : (s.setStrand sid x).lnq = s.lnq := rfl
@[simp] theorem tasks_setStrand (s : State) (sid : Nat) (x : Strand) : (s.setStrand sid x).tasks = s.tasks := rfl
@[simp] theorem nextJob_setStrand (s : State) (sid : Nat) (x : Strand) : (s.setStrand sid x).nextJob = s.nextJob := rfl
@[simp] theorem passed_setStrand (s : State) (sid : Nat) (x : Strand) : (s.setStrand sid x).passed = s.passed := rfl
@[simp] theorem inbox_setStrand (s : State) (sid : Nat) (x : Strand) : (s.setStrand sid x).inbox = s.inbox := rfl
@[simp] theorem outbox_setStrand (s : State) (sid : Nat) (x : Strand) : (s.setStrand sid x).outbox = s.outbox := rfl
@[simp] theorem answer_setStrand (s : State) (sid : Nat) (x : Strand) : (s.setStrand sid x).answer = s.answer := rfl
@[simp] theorem clashes_setStrand (s : State) (sid : Nat) (x : Strand) : (s.setStrand sid x).clashes = s.clashes := rfl
@[simp] theorem regions_setStrand (s : State) (sid : Nat) (x : Strand) : (s.setStrand sid x).regions = s.regions := rfl
@[simp] theorem nextTag_setStrand (s : State) (sid : Nat) (x : Strand) : (s.setStrand sid x).nextTag = s.nextTag := rfl
@[simp] theorem oryx_setStrand (s : State) (sid : Nat) (x : Strand) : (s.setStrand sid x).oryx = s.oryx := rfl
@[simp] theorem cur_setStrand (s : State) (sid : Nat) (x : Strand) : (s.setStrand sid x).cur = s.cur := rfl
@[simp] theorem mcore_setStrand (s : State) (sid : Nat) (x : Strand) : (s.setStrand sid x).mcore = s.mcore := rfl
@[simp] theorem issue_setStrand (s : State) (sid : Nat) (x : Strand) : (s.setStrand sid x).issue = s.issue := rfl

@[simp] theorem now_setCore (s : State) (n : Nat) (x : Core) : (s.setCore n x).now = s.now := rfl
@[simp] theorem strands_setCore (s : State) (n : Nat) (x : Core) : (s.setCore n x).strands = s.strands := rfl
@[simp] theorem dies_setCore (s : State) (n : Nat) (x : Core) : (s.setCore n x).dies = s.dies := rfl
@[simp] theorem mem_setCore (s : State) (n : Nat) (x : Core) : (s.setCore n x).mem = s.mem := rfl
@[simp] theorem poison_setCore (s : State) (n : Nat) (x : Core) : (s.setCore n x).poison = s.poison := rfl
@[simp] theorem banks_setCore (s : State) (n : Nat) (x : Core) : (s.setCore n x).banks = s.banks := rfl
@[simp] theorem dir_setCore (s : State) (n : Nat) (x : Core) : (s.setCore n x).dir = s.dir := rfl
@[simp] theorem ways_setCore (s : State) (n : Nat) (x : Core) : (s.setCore n x).ways = s.ways := rfl
@[simp] theorem l2_setCore (s : State) (n : Nat) (x : Core) : (s.setCore n x).l2 = s.l2 := rfl
@[simp] theorem hostHeld_setCore (s : State) (n : Nat) (x : Core) : (s.setCore n x).hostHeld = s.hostHeld := rfl
@[simp] theorem heldWords_setCore (s : State) (n : Nat) (x : Core) : (s.setCore n x).heldWords = s.heldWords := rfl
@[simp] theorem heldStores_setCore (s : State) (n : Nat) (x : Core) : (s.setCore n x).heldStores = s.heldStores := rfl
@[simp] theorem heldEvents_setCore (s : State) (n : Nat) (x : Core) : (s.setCore n x).heldEvents = s.heldEvents := rfl
@[simp] theorem leases_setCore (s : State) (n : Nat) (x : Core) : (s.setCore n x).leases = s.leases := rfl
@[simp] theorem devid_setCore (s : State) (n : Nat) (x : Core) : (s.setCore n x).devid = s.devid := rfl
@[simp] theorem l2mode_setCore (s : State) (n : Nat) (x : Core) : (s.setCore n x).l2mode = s.l2mode := rfl
@[simp] theorem txflows_setCore (s : State) (n : Nat) (x : Core) : (s.setCore n x).txflows = s.txflows := rfl
@[simp] theorem rxflows_setCore (s : State) (n : Nat) (x : Core) : (s.setCore n x).rxflows = s.rxflows := rfl
@[simp] theorem circuits_setCore (s : State) (n : Nat) (x : Core) : (s.setCore n x).circuits = s.circuits := rfl
@[simp] theorem chans_setCore (s : State) (n : Nat) (x : Core) : (s.setCore n x).chans = s.chans := rfl
@[simp] theorem thaw_setCore (s : State) (n : Nat) (x : Core) : (s.setCore n x).thaw = s.thaw := rfl
@[simp] theorem lnq_setCore (s : State) (n : Nat) (x : Core) : (s.setCore n x).lnq = s.lnq := rfl
@[simp] theorem tasks_setCore (s : State) (n : Nat) (x : Core) : (s.setCore n x).tasks = s.tasks := rfl
@[simp] theorem nextJob_setCore (s : State) (n : Nat) (x : Core) : (s.setCore n x).nextJob = s.nextJob := rfl
@[simp] theorem passed_setCore (s : State) (n : Nat) (x : Core) : (s.setCore n x).passed = s.passed := rfl
@[simp] theorem inbox_setCore (s : State) (n : Nat) (x : Core) : (s.setCore n x).inbox = s.inbox := rfl
@[simp] theorem outbox_setCore (s : State) (n : Nat) (x : Core) : (s.setCore n x).outbox = s.outbox := rfl
@[simp] theorem answer_setCore (s : State) (n : Nat) (x : Core) : (s.setCore n x).answer = s.answer := rfl
@[simp] theorem clashes_setCore (s : State) (n : Nat) (x : Core) : (s.setCore n x).clashes = s.clashes := rfl
@[simp] theorem regions_setCore (s : State) (n : Nat) (x : Core) : (s.setCore n x).regions = s.regions := rfl
@[simp] theorem nextTag_setCore (s : State) (n : Nat) (x : Core) : (s.setCore n x).nextTag = s.nextTag := rfl
@[simp] theorem oryx_setCore (s : State) (n : Nat) (x : Core) : (s.setCore n x).oryx = s.oryx := rfl
@[simp] theorem cur_setCore (s : State) (n : Nat) (x : Core) : (s.setCore n x).cur = s.cur := rfl
@[simp] theorem mcore_setCore (s : State) (n : Nat) (x : Core) : (s.setCore n x).mcore = s.mcore := rfl
@[simp] theorem issue_setCore (s : State) (n : Nat) (x : Core) : (s.setCore n x).issue = s.issue := rfl

@[simp] theorem now_setDie (s : State) (d : Nat) (x : Die) : (s.setDie d x).now = s.now := rfl
@[simp] theorem strands_setDie (s : State) (d : Nat) (x : Die) : (s.setDie d x).strands = s.strands := rfl
@[simp] theorem cores_setDie (s : State) (d : Nat) (x : Die) : (s.setDie d x).cores = s.cores := rfl
@[simp] theorem mem_setDie (s : State) (d : Nat) (x : Die) : (s.setDie d x).mem = s.mem := rfl
@[simp] theorem poison_setDie (s : State) (d : Nat) (x : Die) : (s.setDie d x).poison = s.poison := rfl
@[simp] theorem banks_setDie (s : State) (d : Nat) (x : Die) : (s.setDie d x).banks = s.banks := rfl
@[simp] theorem dir_setDie (s : State) (d : Nat) (x : Die) : (s.setDie d x).dir = s.dir := rfl
@[simp] theorem ways_setDie (s : State) (d : Nat) (x : Die) : (s.setDie d x).ways = s.ways := rfl
@[simp] theorem l2_setDie (s : State) (d : Nat) (x : Die) : (s.setDie d x).l2 = s.l2 := rfl
@[simp] theorem hostHeld_setDie (s : State) (d : Nat) (x : Die) : (s.setDie d x).hostHeld = s.hostHeld := rfl
@[simp] theorem heldWords_setDie (s : State) (d : Nat) (x : Die) : (s.setDie d x).heldWords = s.heldWords := rfl
@[simp] theorem heldStores_setDie (s : State) (d : Nat) (x : Die) : (s.setDie d x).heldStores = s.heldStores := rfl
@[simp] theorem heldEvents_setDie (s : State) (d : Nat) (x : Die) : (s.setDie d x).heldEvents = s.heldEvents := rfl
@[simp] theorem leases_setDie (s : State) (d : Nat) (x : Die) : (s.setDie d x).leases = s.leases := rfl
@[simp] theorem devid_setDie (s : State) (d : Nat) (x : Die) : (s.setDie d x).devid = s.devid := rfl
@[simp] theorem l2mode_setDie (s : State) (d : Nat) (x : Die) : (s.setDie d x).l2mode = s.l2mode := rfl
@[simp] theorem txflows_setDie (s : State) (d : Nat) (x : Die) : (s.setDie d x).txflows = s.txflows := rfl
@[simp] theorem rxflows_setDie (s : State) (d : Nat) (x : Die) : (s.setDie d x).rxflows = s.rxflows := rfl
@[simp] theorem circuits_setDie (s : State) (d : Nat) (x : Die) : (s.setDie d x).circuits = s.circuits := rfl
@[simp] theorem chans_setDie (s : State) (d : Nat) (x : Die) : (s.setDie d x).chans = s.chans := rfl
@[simp] theorem thaw_setDie (s : State) (d : Nat) (x : Die) : (s.setDie d x).thaw = s.thaw := rfl
@[simp] theorem lnq_setDie (s : State) (d : Nat) (x : Die) : (s.setDie d x).lnq = s.lnq := rfl
@[simp] theorem tasks_setDie (s : State) (d : Nat) (x : Die) : (s.setDie d x).tasks = s.tasks := rfl
@[simp] theorem nextJob_setDie (s : State) (d : Nat) (x : Die) : (s.setDie d x).nextJob = s.nextJob := rfl
@[simp] theorem passed_setDie (s : State) (d : Nat) (x : Die) : (s.setDie d x).passed = s.passed := rfl
@[simp] theorem inbox_setDie (s : State) (d : Nat) (x : Die) : (s.setDie d x).inbox = s.inbox := rfl
@[simp] theorem outbox_setDie (s : State) (d : Nat) (x : Die) : (s.setDie d x).outbox = s.outbox := rfl
@[simp] theorem answer_setDie (s : State) (d : Nat) (x : Die) : (s.setDie d x).answer = s.answer := rfl
@[simp] theorem clashes_setDie (s : State) (d : Nat) (x : Die) : (s.setDie d x).clashes = s.clashes := rfl
@[simp] theorem regions_setDie (s : State) (d : Nat) (x : Die) : (s.setDie d x).regions = s.regions := rfl
@[simp] theorem nextTag_setDie (s : State) (d : Nat) (x : Die) : (s.setDie d x).nextTag = s.nextTag := rfl
@[simp] theorem oryx_setDie (s : State) (d : Nat) (x : Die) : (s.setDie d x).oryx = s.oryx := rfl
@[simp] theorem cur_setDie (s : State) (d : Nat) (x : Die) : (s.setDie d x).cur = s.cur := rfl
@[simp] theorem mcore_setDie (s : State) (d : Nat) (x : Die) : (s.setDie d x).mcore = s.mcore := rfl
@[simp] theorem issue_setDie (s : State) (d : Nat) (x : Die) : (s.setDie d x).issue = s.issue := rfl

@[simp] theorem now_setChan (s : State) (c : Nat) (x : Chan) : (s.setChan c x).now = s.now := rfl
@[simp] theorem strands_setChan (s : State) (c : Nat) (x : Chan) : (s.setChan c x).strands = s.strands := rfl
@[simp] theorem cores_setChan (s : State) (c : Nat) (x : Chan) : (s.setChan c x).cores = s.cores := rfl
@[simp] theorem dies_setChan (s : State) (c : Nat) (x : Chan) : (s.setChan c x).dies = s.dies := rfl
@[simp] theorem mem_setChan (s : State) (c : Nat) (x : Chan) : (s.setChan c x).mem = s.mem := rfl
@[simp] theorem poison_setChan (s : State) (c : Nat) (x : Chan) : (s.setChan c x).poison = s.poison := rfl
@[simp] theorem banks_setChan (s : State) (c : Nat) (x : Chan) : (s.setChan c x).banks = s.banks := rfl
@[simp] theorem dir_setChan (s : State) (c : Nat) (x : Chan) : (s.setChan c x).dir = s.dir := rfl
@[simp] theorem ways_setChan (s : State) (c : Nat) (x : Chan) : (s.setChan c x).ways = s.ways := rfl
@[simp] theorem l2_setChan (s : State) (c : Nat) (x : Chan) : (s.setChan c x).l2 = s.l2 := rfl
@[simp] theorem hostHeld_setChan (s : State) (c : Nat) (x : Chan) : (s.setChan c x).hostHeld = s.hostHeld := rfl
@[simp] theorem heldWords_setChan (s : State) (c : Nat) (x : Chan) : (s.setChan c x).heldWords = s.heldWords := rfl
@[simp] theorem heldStores_setChan (s : State) (c : Nat) (x : Chan) : (s.setChan c x).heldStores = s.heldStores := rfl
@[simp] theorem heldEvents_setChan (s : State) (c : Nat) (x : Chan) : (s.setChan c x).heldEvents = s.heldEvents := rfl
@[simp] theorem leases_setChan (s : State) (c : Nat) (x : Chan) : (s.setChan c x).leases = s.leases := rfl
@[simp] theorem devid_setChan (s : State) (c : Nat) (x : Chan) : (s.setChan c x).devid = s.devid := rfl
@[simp] theorem l2mode_setChan (s : State) (c : Nat) (x : Chan) : (s.setChan c x).l2mode = s.l2mode := rfl
@[simp] theorem txflows_setChan (s : State) (c : Nat) (x : Chan) : (s.setChan c x).txflows = s.txflows := rfl
@[simp] theorem rxflows_setChan (s : State) (c : Nat) (x : Chan) : (s.setChan c x).rxflows = s.rxflows := rfl
@[simp] theorem circuits_setChan (s : State) (c : Nat) (x : Chan) : (s.setChan c x).circuits = s.circuits := rfl
@[simp] theorem thaw_setChan (s : State) (c : Nat) (x : Chan) : (s.setChan c x).thaw = s.thaw := rfl
@[simp] theorem lnq_setChan (s : State) (c : Nat) (x : Chan) : (s.setChan c x).lnq = s.lnq := rfl
@[simp] theorem tasks_setChan (s : State) (c : Nat) (x : Chan) : (s.setChan c x).tasks = s.tasks := rfl
@[simp] theorem nextJob_setChan (s : State) (c : Nat) (x : Chan) : (s.setChan c x).nextJob = s.nextJob := rfl
@[simp] theorem passed_setChan (s : State) (c : Nat) (x : Chan) : (s.setChan c x).passed = s.passed := rfl
@[simp] theorem inbox_setChan (s : State) (c : Nat) (x : Chan) : (s.setChan c x).inbox = s.inbox := rfl
@[simp] theorem outbox_setChan (s : State) (c : Nat) (x : Chan) : (s.setChan c x).outbox = s.outbox := rfl
@[simp] theorem answer_setChan (s : State) (c : Nat) (x : Chan) : (s.setChan c x).answer = s.answer := rfl
@[simp] theorem clashes_setChan (s : State) (c : Nat) (x : Chan) : (s.setChan c x).clashes = s.clashes := rfl
@[simp] theorem regions_setChan (s : State) (c : Nat) (x : Chan) : (s.setChan c x).regions = s.regions := rfl
@[simp] theorem nextTag_setChan (s : State) (c : Nat) (x : Chan) : (s.setChan c x).nextTag = s.nextTag := rfl
@[simp] theorem oryx_setChan (s : State) (c : Nat) (x : Chan) : (s.setChan c x).oryx = s.oryx := rfl
@[simp] theorem cur_setChan (s : State) (c : Nat) (x : Chan) : (s.setChan c x).cur = s.cur := rfl
@[simp] theorem mcore_setChan (s : State) (c : Nat) (x : Chan) : (s.setChan c x).mcore = s.mcore := rfl
@[simp] theorem issue_setChan (s : State) (c : Nat) (x : Chan) : (s.setChan c x).issue = s.issue := rfl

@[simp] theorem now_setQueue (s : State) (q : Nat) (x : LaunchQueue) : (s.setQueue q x).now = s.now := rfl
@[simp] theorem strands_setQueue (s : State) (q : Nat) (x : LaunchQueue) : (s.setQueue q x).strands = s.strands := rfl
@[simp] theorem cores_setQueue (s : State) (q : Nat) (x : LaunchQueue) : (s.setQueue q x).cores = s.cores := rfl
@[simp] theorem dies_setQueue (s : State) (q : Nat) (x : LaunchQueue) : (s.setQueue q x).dies = s.dies := rfl
@[simp] theorem mem_setQueue (s : State) (q : Nat) (x : LaunchQueue) : (s.setQueue q x).mem = s.mem := rfl
@[simp] theorem poison_setQueue (s : State) (q : Nat) (x : LaunchQueue) : (s.setQueue q x).poison = s.poison := rfl
@[simp] theorem banks_setQueue (s : State) (q : Nat) (x : LaunchQueue) : (s.setQueue q x).banks = s.banks := rfl
@[simp] theorem dir_setQueue (s : State) (q : Nat) (x : LaunchQueue) : (s.setQueue q x).dir = s.dir := rfl
@[simp] theorem ways_setQueue (s : State) (q : Nat) (x : LaunchQueue) : (s.setQueue q x).ways = s.ways := rfl
@[simp] theorem l2_setQueue (s : State) (q : Nat) (x : LaunchQueue) : (s.setQueue q x).l2 = s.l2 := rfl
@[simp] theorem hostHeld_setQueue (s : State) (q : Nat) (x : LaunchQueue) : (s.setQueue q x).hostHeld = s.hostHeld := rfl
@[simp] theorem heldWords_setQueue (s : State) (q : Nat) (x : LaunchQueue) : (s.setQueue q x).heldWords = s.heldWords := rfl
@[simp] theorem heldStores_setQueue (s : State) (q : Nat) (x : LaunchQueue) : (s.setQueue q x).heldStores = s.heldStores := rfl
@[simp] theorem heldEvents_setQueue (s : State) (q : Nat) (x : LaunchQueue) : (s.setQueue q x).heldEvents = s.heldEvents := rfl
@[simp] theorem leases_setQueue (s : State) (q : Nat) (x : LaunchQueue) : (s.setQueue q x).leases = s.leases := rfl
@[simp] theorem devid_setQueue (s : State) (q : Nat) (x : LaunchQueue) : (s.setQueue q x).devid = s.devid := rfl
@[simp] theorem l2mode_setQueue (s : State) (q : Nat) (x : LaunchQueue) : (s.setQueue q x).l2mode = s.l2mode := rfl
@[simp] theorem txflows_setQueue (s : State) (q : Nat) (x : LaunchQueue) : (s.setQueue q x).txflows = s.txflows := rfl
@[simp] theorem rxflows_setQueue (s : State) (q : Nat) (x : LaunchQueue) : (s.setQueue q x).rxflows = s.rxflows := rfl
@[simp] theorem circuits_setQueue (s : State) (q : Nat) (x : LaunchQueue) : (s.setQueue q x).circuits = s.circuits := rfl
@[simp] theorem chans_setQueue (s : State) (q : Nat) (x : LaunchQueue) : (s.setQueue q x).chans = s.chans := rfl
@[simp] theorem thaw_setQueue (s : State) (q : Nat) (x : LaunchQueue) : (s.setQueue q x).thaw = s.thaw := rfl
@[simp] theorem tasks_setQueue (s : State) (q : Nat) (x : LaunchQueue) : (s.setQueue q x).tasks = s.tasks := rfl
@[simp] theorem nextJob_setQueue (s : State) (q : Nat) (x : LaunchQueue) : (s.setQueue q x).nextJob = s.nextJob := rfl
@[simp] theorem passed_setQueue (s : State) (q : Nat) (x : LaunchQueue) : (s.setQueue q x).passed = s.passed := rfl
@[simp] theorem inbox_setQueue (s : State) (q : Nat) (x : LaunchQueue) : (s.setQueue q x).inbox = s.inbox := rfl
@[simp] theorem outbox_setQueue (s : State) (q : Nat) (x : LaunchQueue) : (s.setQueue q x).outbox = s.outbox := rfl
@[simp] theorem answer_setQueue (s : State) (q : Nat) (x : LaunchQueue) : (s.setQueue q x).answer = s.answer := rfl
@[simp] theorem clashes_setQueue (s : State) (q : Nat) (x : LaunchQueue) : (s.setQueue q x).clashes = s.clashes := rfl
@[simp] theorem regions_setQueue (s : State) (q : Nat) (x : LaunchQueue) : (s.setQueue q x).regions = s.regions := rfl
@[simp] theorem nextTag_setQueue (s : State) (q : Nat) (x : LaunchQueue) : (s.setQueue q x).nextTag = s.nextTag := rfl
@[simp] theorem oryx_setQueue (s : State) (q : Nat) (x : LaunchQueue) : (s.setQueue q x).oryx = s.oryx := rfl
@[simp] theorem cur_setQueue (s : State) (q : Nat) (x : LaunchQueue) : (s.setQueue q x).cur = s.cur := rfl
@[simp] theorem mcore_setQueue (s : State) (q : Nat) (x : LaunchQueue) : (s.setQueue q x).mcore = s.mcore := rfl
@[simp] theorem issue_setQueue (s : State) (q : Nat) (x : LaunchQueue) : (s.setQueue q x).issue = s.issue := rfl

@[simp] theorem now_setBank (s : State) (c b : Nat) (x : Bank) : (s.setBank c b x).now = s.now := rfl
@[simp] theorem strands_setBank (s : State) (c b : Nat) (x : Bank) : (s.setBank c b x).strands = s.strands := rfl
@[simp] theorem cores_setBank (s : State) (c b : Nat) (x : Bank) : (s.setBank c b x).cores = s.cores := rfl
@[simp] theorem dies_setBank (s : State) (c b : Nat) (x : Bank) : (s.setBank c b x).dies = s.dies := rfl
@[simp] theorem mem_setBank (s : State) (c b : Nat) (x : Bank) : (s.setBank c b x).mem = s.mem := rfl
@[simp] theorem poison_setBank (s : State) (c b : Nat) (x : Bank) : (s.setBank c b x).poison = s.poison := rfl
@[simp] theorem dir_setBank (s : State) (c b : Nat) (x : Bank) : (s.setBank c b x).dir = s.dir := rfl
@[simp] theorem ways_setBank (s : State) (c b : Nat) (x : Bank) : (s.setBank c b x).ways = s.ways := rfl
@[simp] theorem l2_setBank (s : State) (c b : Nat) (x : Bank) : (s.setBank c b x).l2 = s.l2 := rfl
@[simp] theorem hostHeld_setBank (s : State) (c b : Nat) (x : Bank) : (s.setBank c b x).hostHeld = s.hostHeld := rfl
@[simp] theorem heldWords_setBank (s : State) (c b : Nat) (x : Bank) : (s.setBank c b x).heldWords = s.heldWords := rfl
@[simp] theorem heldStores_setBank (s : State) (c b : Nat) (x : Bank) : (s.setBank c b x).heldStores = s.heldStores := rfl
@[simp] theorem heldEvents_setBank (s : State) (c b : Nat) (x : Bank) : (s.setBank c b x).heldEvents = s.heldEvents := rfl
@[simp] theorem leases_setBank (s : State) (c b : Nat) (x : Bank) : (s.setBank c b x).leases = s.leases := rfl
@[simp] theorem devid_setBank (s : State) (c b : Nat) (x : Bank) : (s.setBank c b x).devid = s.devid := rfl
@[simp] theorem l2mode_setBank (s : State) (c b : Nat) (x : Bank) : (s.setBank c b x).l2mode = s.l2mode := rfl
@[simp] theorem txflows_setBank (s : State) (c b : Nat) (x : Bank) : (s.setBank c b x).txflows = s.txflows := rfl
@[simp] theorem rxflows_setBank (s : State) (c b : Nat) (x : Bank) : (s.setBank c b x).rxflows = s.rxflows := rfl
@[simp] theorem circuits_setBank (s : State) (c b : Nat) (x : Bank) : (s.setBank c b x).circuits = s.circuits := rfl
@[simp] theorem chans_setBank (s : State) (c b : Nat) (x : Bank) : (s.setBank c b x).chans = s.chans := rfl
@[simp] theorem thaw_setBank (s : State) (c b : Nat) (x : Bank) : (s.setBank c b x).thaw = s.thaw := rfl
@[simp] theorem lnq_setBank (s : State) (c b : Nat) (x : Bank) : (s.setBank c b x).lnq = s.lnq := rfl
@[simp] theorem tasks_setBank (s : State) (c b : Nat) (x : Bank) : (s.setBank c b x).tasks = s.tasks := rfl
@[simp] theorem nextJob_setBank (s : State) (c b : Nat) (x : Bank) : (s.setBank c b x).nextJob = s.nextJob := rfl
@[simp] theorem passed_setBank (s : State) (c b : Nat) (x : Bank) : (s.setBank c b x).passed = s.passed := rfl
@[simp] theorem inbox_setBank (s : State) (c b : Nat) (x : Bank) : (s.setBank c b x).inbox = s.inbox := rfl
@[simp] theorem outbox_setBank (s : State) (c b : Nat) (x : Bank) : (s.setBank c b x).outbox = s.outbox := rfl
@[simp] theorem answer_setBank (s : State) (c b : Nat) (x : Bank) : (s.setBank c b x).answer = s.answer := rfl
@[simp] theorem clashes_setBank (s : State) (c b : Nat) (x : Bank) : (s.setBank c b x).clashes = s.clashes := rfl
@[simp] theorem regions_setBank (s : State) (c b : Nat) (x : Bank) : (s.setBank c b x).regions = s.regions := rfl
@[simp] theorem nextTag_setBank (s : State) (c b : Nat) (x : Bank) : (s.setBank c b x).nextTag = s.nextTag := rfl
@[simp] theorem oryx_setBank (s : State) (c b : Nat) (x : Bank) : (s.setBank c b x).oryx = s.oryx := rfl
@[simp] theorem cur_setBank (s : State) (c b : Nat) (x : Bank) : (s.setBank c b x).cur = s.cur := rfl
@[simp] theorem mcore_setBank (s : State) (c b : Nat) (x : Bank) : (s.setBank c b x).mcore = s.mcore := rfl
@[simp] theorem issue_setBank (s : State) (c b : Nat) (x : Bank) : (s.setBank c b x).issue = s.issue := rfl

@[simp] theorem now_send (s : State) (m : OutMsg) : (s.send m).now = s.now := rfl
@[simp] theorem strands_send (s : State) (m : OutMsg) : (s.send m).strands = s.strands := rfl
@[simp] theorem cores_send (s : State) (m : OutMsg) : (s.send m).cores = s.cores := rfl
@[simp] theorem dies_send (s : State) (m : OutMsg) : (s.send m).dies = s.dies := rfl
@[simp] theorem mem_send (s : State) (m : OutMsg) : (s.send m).mem = s.mem := rfl
@[simp] theorem poison_send (s : State) (m : OutMsg) : (s.send m).poison = s.poison := rfl
@[simp] theorem banks_send (s : State) (m : OutMsg) : (s.send m).banks = s.banks := rfl
@[simp] theorem dir_send (s : State) (m : OutMsg) : (s.send m).dir = s.dir := rfl
@[simp] theorem ways_send (s : State) (m : OutMsg) : (s.send m).ways = s.ways := rfl
@[simp] theorem l2_send (s : State) (m : OutMsg) : (s.send m).l2 = s.l2 := rfl
@[simp] theorem hostHeld_send (s : State) (m : OutMsg) : (s.send m).hostHeld = s.hostHeld := rfl
@[simp] theorem heldWords_send (s : State) (m : OutMsg) : (s.send m).heldWords = s.heldWords := rfl
@[simp] theorem heldStores_send (s : State) (m : OutMsg) : (s.send m).heldStores = s.heldStores := rfl
@[simp] theorem heldEvents_send (s : State) (m : OutMsg) : (s.send m).heldEvents = s.heldEvents := rfl
@[simp] theorem leases_send (s : State) (m : OutMsg) : (s.send m).leases = s.leases := rfl
@[simp] theorem devid_send (s : State) (m : OutMsg) : (s.send m).devid = s.devid := rfl
@[simp] theorem l2mode_send (s : State) (m : OutMsg) : (s.send m).l2mode = s.l2mode := rfl
@[simp] theorem txflows_send (s : State) (m : OutMsg) : (s.send m).txflows = s.txflows := rfl
@[simp] theorem rxflows_send (s : State) (m : OutMsg) : (s.send m).rxflows = s.rxflows := rfl
@[simp] theorem circuits_send (s : State) (m : OutMsg) : (s.send m).circuits = s.circuits := rfl
@[simp] theorem chans_send (s : State) (m : OutMsg) : (s.send m).chans = s.chans := rfl
@[simp] theorem thaw_send (s : State) (m : OutMsg) : (s.send m).thaw = s.thaw := rfl
@[simp] theorem lnq_send (s : State) (m : OutMsg) : (s.send m).lnq = s.lnq := rfl
@[simp] theorem tasks_send (s : State) (m : OutMsg) : (s.send m).tasks = s.tasks := rfl
@[simp] theorem nextJob_send (s : State) (m : OutMsg) : (s.send m).nextJob = s.nextJob := rfl
@[simp] theorem passed_send (s : State) (m : OutMsg) : (s.send m).passed = s.passed := rfl
@[simp] theorem inbox_send (s : State) (m : OutMsg) : (s.send m).inbox = s.inbox := rfl
@[simp] theorem answer_send (s : State) (m : OutMsg) : (s.send m).answer = s.answer := rfl
@[simp] theorem clashes_send (s : State) (m : OutMsg) : (s.send m).clashes = s.clashes := rfl
@[simp] theorem regions_send (s : State) (m : OutMsg) : (s.send m).regions = s.regions := rfl
@[simp] theorem nextTag_send (s : State) (m : OutMsg) : (s.send m).nextTag = s.nextTag := rfl
@[simp] theorem oryx_send (s : State) (m : OutMsg) : (s.send m).oryx = s.oryx := rfl
@[simp] theorem cur_send (s : State) (m : OutMsg) : (s.send m).cur = s.cur := rfl
@[simp] theorem mcore_send (s : State) (m : OutMsg) : (s.send m).mcore = s.mcore := rfl
@[simp] theorem issue_send (s : State) (m : OutMsg) : (s.send m).issue = s.issue := rfl

@[simp] theorem now_post (s : State) (l : List Instr) : (s.post l).now = s.now := rfl
@[simp] theorem strands_post (s : State) (l : List Instr) : (s.post l).strands = s.strands := rfl
@[simp] theorem cores_post (s : State) (l : List Instr) : (s.post l).cores = s.cores := rfl
@[simp] theorem dies_post (s : State) (l : List Instr) : (s.post l).dies = s.dies := rfl
@[simp] theorem mem_post (s : State) (l : List Instr) : (s.post l).mem = s.mem := rfl
@[simp] theorem poison_post (s : State) (l : List Instr) : (s.post l).poison = s.poison := rfl
@[simp] theorem banks_post (s : State) (l : List Instr) : (s.post l).banks = s.banks := rfl
@[simp] theorem dir_post (s : State) (l : List Instr) : (s.post l).dir = s.dir := rfl
@[simp] theorem ways_post (s : State) (l : List Instr) : (s.post l).ways = s.ways := rfl
@[simp] theorem l2_post (s : State) (l : List Instr) : (s.post l).l2 = s.l2 := rfl
@[simp] theorem hostHeld_post (s : State) (l : List Instr) : (s.post l).hostHeld = s.hostHeld := rfl
@[simp] theorem heldWords_post (s : State) (l : List Instr) : (s.post l).heldWords = s.heldWords := rfl
@[simp] theorem heldStores_post (s : State) (l : List Instr) : (s.post l).heldStores = s.heldStores := rfl
@[simp] theorem heldEvents_post (s : State) (l : List Instr) : (s.post l).heldEvents = s.heldEvents := rfl
@[simp] theorem leases_post (s : State) (l : List Instr) : (s.post l).leases = s.leases := rfl
@[simp] theorem devid_post (s : State) (l : List Instr) : (s.post l).devid = s.devid := rfl
@[simp] theorem l2mode_post (s : State) (l : List Instr) : (s.post l).l2mode = s.l2mode := rfl
@[simp] theorem txflows_post (s : State) (l : List Instr) : (s.post l).txflows = s.txflows := rfl
@[simp] theorem rxflows_post (s : State) (l : List Instr) : (s.post l).rxflows = s.rxflows := rfl
@[simp] theorem circuits_post (s : State) (l : List Instr) : (s.post l).circuits = s.circuits := rfl
@[simp] theorem chans_post (s : State) (l : List Instr) : (s.post l).chans = s.chans := rfl
@[simp] theorem thaw_post (s : State) (l : List Instr) : (s.post l).thaw = s.thaw := rfl
@[simp] theorem lnq_post (s : State) (l : List Instr) : (s.post l).lnq = s.lnq := rfl
@[simp] theorem tasks_post (s : State) (l : List Instr) : (s.post l).tasks = s.tasks := rfl
@[simp] theorem nextJob_post (s : State) (l : List Instr) : (s.post l).nextJob = s.nextJob := rfl
@[simp] theorem passed_post (s : State) (l : List Instr) : (s.post l).passed = s.passed := rfl
@[simp] theorem outbox_post (s : State) (l : List Instr) : (s.post l).outbox = s.outbox := rfl
@[simp] theorem answer_post (s : State) (l : List Instr) : (s.post l).answer = s.answer := rfl
@[simp] theorem clashes_post (s : State) (l : List Instr) : (s.post l).clashes = s.clashes := rfl
@[simp] theorem regions_post (s : State) (l : List Instr) : (s.post l).regions = s.regions := rfl
@[simp] theorem nextTag_post (s : State) (l : List Instr) : (s.post l).nextTag = s.nextTag := rfl
@[simp] theorem oryx_post (s : State) (l : List Instr) : (s.post l).oryx = s.oryx := rfl
@[simp] theorem cur_post (s : State) (l : List Instr) : (s.post l).cur = s.cur := rfl
@[simp] theorem mcore_post (s : State) (l : List Instr) : (s.post l).mcore = s.mcore := rfl
@[simp] theorem issue_post (s : State) (l : List Instr) : (s.post l).issue = s.issue := rfl

@[simp] theorem now_writeByte (s : State) (a : Nat) (b : Byte) : (s.writeByte a b).now = s.now := rfl
@[simp] theorem strands_writeByte (s : State) (a : Nat) (b : Byte) : (s.writeByte a b).strands = s.strands := rfl
@[simp] theorem cores_writeByte (s : State) (a : Nat) (b : Byte) : (s.writeByte a b).cores = s.cores := rfl
@[simp] theorem dies_writeByte (s : State) (a : Nat) (b : Byte) : (s.writeByte a b).dies = s.dies := rfl
@[simp] theorem poison_writeByte (s : State) (a : Nat) (b : Byte) : (s.writeByte a b).poison = s.poison := rfl
@[simp] theorem banks_writeByte (s : State) (a : Nat) (b : Byte) : (s.writeByte a b).banks = s.banks := rfl
@[simp] theorem dir_writeByte (s : State) (a : Nat) (b : Byte) : (s.writeByte a b).dir = s.dir := rfl
@[simp] theorem ways_writeByte (s : State) (a : Nat) (b : Byte) : (s.writeByte a b).ways = s.ways := rfl
@[simp] theorem l2_writeByte (s : State) (a : Nat) (b : Byte) : (s.writeByte a b).l2 = s.l2 := rfl
@[simp] theorem hostHeld_writeByte (s : State) (a : Nat) (b : Byte) : (s.writeByte a b).hostHeld = s.hostHeld := rfl
@[simp] theorem heldWords_writeByte (s : State) (a : Nat) (b : Byte) : (s.writeByte a b).heldWords = s.heldWords := rfl
@[simp] theorem heldStores_writeByte (s : State) (a : Nat) (b : Byte) : (s.writeByte a b).heldStores = s.heldStores := rfl
@[simp] theorem heldEvents_writeByte (s : State) (a : Nat) (b : Byte) : (s.writeByte a b).heldEvents = s.heldEvents := rfl
@[simp] theorem leases_writeByte (s : State) (a : Nat) (b : Byte) : (s.writeByte a b).leases = s.leases := rfl
@[simp] theorem devid_writeByte (s : State) (a : Nat) (b : Byte) : (s.writeByte a b).devid = s.devid := rfl
@[simp] theorem l2mode_writeByte (s : State) (a : Nat) (b : Byte) : (s.writeByte a b).l2mode = s.l2mode := rfl
@[simp] theorem txflows_writeByte (s : State) (a : Nat) (b : Byte) : (s.writeByte a b).txflows = s.txflows := rfl
@[simp] theorem rxflows_writeByte (s : State) (a : Nat) (b : Byte) : (s.writeByte a b).rxflows = s.rxflows := rfl
@[simp] theorem circuits_writeByte (s : State) (a : Nat) (b : Byte) : (s.writeByte a b).circuits = s.circuits := rfl
@[simp] theorem chans_writeByte (s : State) (a : Nat) (b : Byte) : (s.writeByte a b).chans = s.chans := rfl
@[simp] theorem thaw_writeByte (s : State) (a : Nat) (b : Byte) : (s.writeByte a b).thaw = s.thaw := rfl
@[simp] theorem lnq_writeByte (s : State) (a : Nat) (b : Byte) : (s.writeByte a b).lnq = s.lnq := rfl
@[simp] theorem tasks_writeByte (s : State) (a : Nat) (b : Byte) : (s.writeByte a b).tasks = s.tasks := rfl
@[simp] theorem nextJob_writeByte (s : State) (a : Nat) (b : Byte) : (s.writeByte a b).nextJob = s.nextJob := rfl
@[simp] theorem passed_writeByte (s : State) (a : Nat) (b : Byte) : (s.writeByte a b).passed = s.passed := rfl
@[simp] theorem inbox_writeByte (s : State) (a : Nat) (b : Byte) : (s.writeByte a b).inbox = s.inbox := rfl
@[simp] theorem outbox_writeByte (s : State) (a : Nat) (b : Byte) : (s.writeByte a b).outbox = s.outbox := rfl
@[simp] theorem answer_writeByte (s : State) (a : Nat) (b : Byte) : (s.writeByte a b).answer = s.answer := rfl
@[simp] theorem clashes_writeByte (s : State) (a : Nat) (b : Byte) : (s.writeByte a b).clashes = s.clashes := rfl
@[simp] theorem regions_writeByte (s : State) (a : Nat) (b : Byte) : (s.writeByte a b).regions = s.regions := rfl
@[simp] theorem nextTag_writeByte (s : State) (a : Nat) (b : Byte) : (s.writeByte a b).nextTag = s.nextTag := rfl
@[simp] theorem oryx_writeByte (s : State) (a : Nat) (b : Byte) : (s.writeByte a b).oryx = s.oryx := rfl
@[simp] theorem cur_writeByte (s : State) (a : Nat) (b : Byte) : (s.writeByte a b).cur = s.cur := rfl
@[simp] theorem mcore_writeByte (s : State) (a : Nat) (b : Byte) : (s.writeByte a b).mcore = s.mcore := rfl
@[simp] theorem issue_writeByte (s : State) (a : Nat) (b : Byte) : (s.writeByte a b).issue = s.issue := rfl

@[simp] theorem updStrand_eq (s : State) (i : Nat) (f : Strand → Strand) : s.updStrand i f = s.setStrand i (f (s.strand i)) := rfl
@[simp] theorem updMe_eq (s : State) (f : Strand → Strand) : s.updMe f = s.setStrand s.cur (f s.me) := rfl
@[simp] theorem updCore_eq (s : State) (n : Nat) (f : Core → Core) : s.updCore n f = s.setCore n (f (s.core n)) := rfl
@[simp] theorem updDie_eq (s : State) (d : Nat) (f : Die → Die) : s.updDie d f = s.setDie d (f (s.die d)) := rfl
@[simp] theorem core_setStrand (s : State) (sid : Nat) (x : Strand) (k : Nat) : (s.setStrand sid x).core k = s.core k := rfl
@[simp] theorem die_setStrand (s : State) (sid : Nat) (x : Strand) (k : Nat) : (s.setStrand sid x).die k = s.die k := rfl
@[simp] theorem chan_setStrand (s : State) (sid : Nat) (x : Strand) (k : Nat) : (s.setStrand sid x).chan k = s.chan k := rfl
@[simp] theorem queue_setStrand (s : State) (sid : Nat) (x : Strand) (k : Nat) : (s.setStrand sid x).queue k = s.queue k := rfl
@[simp] theorem strand_setCore (s : State) (n : Nat) (x : Core) (k : Nat) : (s.setCore n x).strand k = s.strand k := rfl
@[simp] theorem die_setCore (s : State) (n : Nat) (x : Core) (k : Nat) : (s.setCore n x).die k = s.die k := rfl
@[simp] theorem chan_setCore (s : State) (n : Nat) (x : Core) (k : Nat) : (s.setCore n x).chan k = s.chan k := rfl
@[simp] theorem queue_setCore (s : State) (n : Nat) (x : Core) (k : Nat) : (s.setCore n x).queue k = s.queue k := rfl
@[simp] theorem me_setCore (s : State) (n : Nat) (x : Core) : (s.setCore n x).me = s.me := rfl
@[simp] theorem strand_setDie (s : State) (d : Nat) (x : Die) (k : Nat) : (s.setDie d x).strand k = s.strand k := rfl
@[simp] theorem core_setDie (s : State) (d : Nat) (x : Die) (k : Nat) : (s.setDie d x).core k = s.core k := rfl
@[simp] theorem chan_setDie (s : State) (d : Nat) (x : Die) (k : Nat) : (s.setDie d x).chan k = s.chan k := rfl
@[simp] theorem queue_setDie (s : State) (d : Nat) (x : Die) (k : Nat) : (s.setDie d x).queue k = s.queue k := rfl
@[simp] theorem me_setDie (s : State) (d : Nat) (x : Die) : (s.setDie d x).me = s.me := rfl
@[simp] theorem strand_setChan (s : State) (c : Nat) (x : Chan) (k : Nat) : (s.setChan c x).strand k = s.strand k := rfl
@[simp] theorem core_setChan (s : State) (c : Nat) (x : Chan) (k : Nat) : (s.setChan c x).core k = s.core k := rfl
@[simp] theorem die_setChan (s : State) (c : Nat) (x : Chan) (k : Nat) : (s.setChan c x).die k = s.die k := rfl
@[simp] theorem queue_setChan (s : State) (c : Nat) (x : Chan) (k : Nat) : (s.setChan c x).queue k = s.queue k := rfl
@[simp] theorem me_setChan (s : State) (c : Nat) (x : Chan) : (s.setChan c x).me = s.me := rfl
@[simp] theorem strand_setQueue (s : State) (q : Nat) (x : LaunchQueue) (k : Nat) : (s.setQueue q x).strand k = s.strand k := rfl
@[simp] theorem core_setQueue (s : State) (q : Nat) (x : LaunchQueue) (k : Nat) : (s.setQueue q x).core k = s.core k := rfl
@[simp] theorem die_setQueue (s : State) (q : Nat) (x : LaunchQueue) (k : Nat) : (s.setQueue q x).die k = s.die k := rfl
@[simp] theorem chan_setQueue (s : State) (q : Nat) (x : LaunchQueue) (k : Nat) : (s.setQueue q x).chan k = s.chan k := rfl
@[simp] theorem me_setQueue (s : State) (q : Nat) (x : LaunchQueue) : (s.setQueue q x).me = s.me := rfl
@[simp] theorem strand_setBank (s : State) (c b : Nat) (x : Bank) (k : Nat) : (s.setBank c b x).strand k = s.strand k := rfl
@[simp] theorem core_setBank (s : State) (c b : Nat) (x : Bank) (k : Nat) : (s.setBank c b x).core k = s.core k := rfl
@[simp] theorem die_setBank (s : State) (c b : Nat) (x : Bank) (k : Nat) : (s.setBank c b x).die k = s.die k := rfl
@[simp] theorem chan_setBank (s : State) (c b : Nat) (x : Bank) (k : Nat) : (s.setBank c b x).chan k = s.chan k := rfl
@[simp] theorem queue_setBank (s : State) (c b : Nat) (x : Bank) (k : Nat) : (s.setBank c b x).queue k = s.queue k := rfl
@[simp] theorem me_setBank (s : State) (c b : Nat) (x : Bank) : (s.setBank c b x).me = s.me := rfl
@[simp] theorem strand_send (s : State) (m : OutMsg) (k : Nat) : (s.send m).strand k = s.strand k := rfl
@[simp] theorem core_send (s : State) (m : OutMsg) (k : Nat) : (s.send m).core k = s.core k := rfl
@[simp] theorem die_send (s : State) (m : OutMsg) (k : Nat) : (s.send m).die k = s.die k := rfl
@[simp] theorem chan_send (s : State) (m : OutMsg) (k : Nat) : (s.send m).chan k = s.chan k := rfl
@[simp] theorem queue_send (s : State) (m : OutMsg) (k : Nat) : (s.send m).queue k = s.queue k := rfl
@[simp] theorem me_send (s : State) (m : OutMsg) : (s.send m).me = s.me := rfl
@[simp] theorem strand_post (s : State) (l : List Instr) (k : Nat) : (s.post l).strand k = s.strand k := rfl
@[simp] theorem core_post (s : State) (l : List Instr) (k : Nat) : (s.post l).core k = s.core k := rfl
@[simp] theorem die_post (s : State) (l : List Instr) (k : Nat) : (s.post l).die k = s.die k := rfl
@[simp] theorem chan_post (s : State) (l : List Instr) (k : Nat) : (s.post l).chan k = s.chan k := rfl
@[simp] theorem queue_post (s : State) (l : List Instr) (k : Nat) : (s.post l).queue k = s.queue k := rfl
@[simp] theorem me_post (s : State) (l : List Instr) : (s.post l).me = s.me := rfl
@[simp] theorem strand_writeByte (s : State) (a : Nat) (b : Byte) (k : Nat) : (s.writeByte a b).strand k = s.strand k := rfl
@[simp] theorem core_writeByte (s : State) (a : Nat) (b : Byte) (k : Nat) : (s.writeByte a b).core k = s.core k := rfl
@[simp] theorem die_writeByte (s : State) (a : Nat) (b : Byte) (k : Nat) : (s.writeByte a b).die k = s.die k := rfl
@[simp] theorem chan_writeByte (s : State) (a : Nat) (b : Byte) (k : Nat) : (s.writeByte a b).chan k = s.chan k := rfl
@[simp] theorem queue_writeByte (s : State) (a : Nat) (b : Byte) (k : Nat) : (s.writeByte a b).queue k = s.queue k := rfl
@[simp] theorem me_writeByte (s : State) (a : Nat) (b : Byte) : (s.writeByte a b).me = s.me := rfl

end Sys2Proof.Machine.State
end

