-- ==== Sys2Proof/Laws/Maps.lean ====
section
/-! SUPPORT. Sparse maps: reading a key after writing one; and with it reading a strand, a core, a die, a channel, a queue
or a bank after one has been replaced. -/

namespace Sys2Proof.SMap

variable {α : Type}

@[simp] theorem find_insert_same (m : SMap α) (k : Nat) (v : α) : find (insert m k v) k = some v := by
  induction m with
  | nil => simp [insert, find]
  | cons p m ih =>
    obtain ⟨i, u⟩ := p
    simp only [insert]
    split
    · simp [find]
    · split
      · simp [find]
      · simp only [find]; rw [if_neg (by omega)]; exact ih

theorem find_insert_ne (m : SMap α) {j k : Nat} (v : α) (h : j ≠ k) : find (insert m k v) j = find m j := by
  induction m with
  | nil => simp [insert, find, Ne.symm h]
  | cons p m ih =>
    obtain ⟨i, u⟩ := p
    simp only [insert]
    split
    · simp [find, Ne.symm h]
    · split
      · next e => subst e; simp [find, Ne.symm h]
      · simp only [find, ih]

@[simp] theorem find_erase_same (m : SMap α) (k : Nat) : find (erase m k) k = none := by
  induction m with
  | nil => rfl
  | cons p m ih =>
    obtain ⟨i, u⟩ := p
    by_cases h : i = k
    · subst h; simpa [erase] using ih
    · simpa [erase, h, find] using ih

theorem find_erase_ne (m : SMap α) {j k : Nat} (h : j ≠ k) : find (erase m k) j = find m j := by
  induction m with
  | nil => rfl
  | cons p m ih =>
    obtain ⟨i, u⟩ := p
    by_cases hi : i = k
    · subst hi; simpa [erase, find, Ne.symm h] using ih
    · simp only [erase, List.filter_cons, bne_iff_ne, ne_eq, hi, not_false_eq_true, if_true, find]
      split
      · rfl
      · simpa [erase] using ih

variable [DecidableEq α]

@[simp] theorem getD_setD_same (m : SMap α) (k : Nat) (d v : α) : getD (setD m k d v) k d = v := by
  unfold getD setD
  split
  · next h => simp [h]
  · simp

theorem getD_setD_ne (m : SMap α) {j k : Nat} (d v : α) (h : j ≠ k) : getD (setD m k d v) j d = getD m j d := by
  unfold getD setD
  split
  · rw [find_erase_ne m h]
  · rw [find_insert_ne m v h]

end Sys2Proof.SMap

namespace Sys2Proof.Machine.State

@[simp] theorem strand_setStrand_same (s : State) (i : Nat) (x : Strand) : (s.setStrand i x).strand i = x :=
  SMap.getD_setD_same _ _ _ _
theorem strand_setStrand_ne (s : State) {i j : Nat} (x : Strand) (h : j ≠ i) : (s.setStrand i x).strand j = s.strand j :=
  SMap.getD_setD_ne _ _ _ h
@[simp] theorem me_setStrand_cur (s : State) (x : Strand) : (s.setStrand s.cur x).me = x := strand_setStrand_same _ _ _
@[simp] theorem core_setCore_same (s : State) (n : Nat) (x : Core) : (s.setCore n x).core n = x :=
  SMap.getD_setD_same _ _ _ _
theorem core_setCore_ne (s : State) {n k : Nat} (x : Core) (h : k ≠ n) : (s.setCore n x).core k = s.core k :=
  SMap.getD_setD_ne _ _ _ h
@[simp] theorem chan_setChan_same (s : State) (n : Nat) (x : Chan) : (s.setChan n x).chan n = x :=
  SMap.getD_setD_same _ _ _ _
theorem chan_setChan_ne (s : State) {n k : Nat} (x : Chan) (h : k ≠ n) : (s.setChan n x).chan k = s.chan k :=
  SMap.getD_setD_ne _ _ _ h
@[simp] theorem queue_setQueue_same (s : State) (n : Nat) (x : LaunchQueue) : (s.setQueue n x).queue n = x :=
  SMap.getD_setD_same _ _ _ _
theorem queue_setQueue_ne (s : State) {n k : Nat} (x : LaunchQueue) (h : k ≠ n) : (s.setQueue n x).queue k = s.queue k :=
  SMap.getD_setD_ne _ _ _ h
@[simp] theorem bank_setBank_same (s : State) (c b : Nat) (x : Bank) : (s.setBank c b x).bank c b = x :=
  SMap.getD_setD_same _ _ _ _
@[simp] theorem die_setDie_same (s : State) (d : Nat) (x : Die) : (s.setDie d x).die d = x := by
  simp [die, setDie]
theorem die_setDie_ne (s : State) {d e : Nat} (x : Die) (h : e % 4 ≠ d % 4) : (s.setDie d x).die e = s.die e := by
  simp [die, setDie, Ne.symm h]

end Sys2Proof.Machine.State
end

