-- ==== Sys2Proof/Laws/Memory.lean ====
section
/-! SUPPORT. Memory: reading after writing, and that every write keeps the canonical form. -/

namespace Sys2Proof.Machine

/-- Every address listed lies above one. -/
def above (a : Nat) (m : List Host.Cell) : Prop := ∀ p ∈ m, a < p.1

theorem wf_cons (i : Nat) (b : Byte) (m : List Host.Cell) :
    Memory.wf ((i, b) :: m) = true ↔ b ≠ 0 ∧ above i m ∧ Memory.wf m = true := by
  induction m generalizing i b with
  | nil => simp [Memory.wf, above]
  | cons q m ih =>
    obtain ⟨j, c⟩ := q
    simp only [Memory.wf, Bool.and_eq_true, bne_iff_ne, ne_eq, decide_eq_true_eq]
    constructor
    · rintro ⟨⟨h1, h2⟩, h3⟩
      refine ⟨h1, ?_, h3⟩
      intro p hp
      rcases List.mem_cons.1 hp with rfl | hp
      · exact h2
      · exact Nat.lt_trans h2 (((ih j c).1 h3).2.1 p hp)
    · rintro ⟨h1, h2, h3⟩
      exact ⟨⟨h1, h2 (j, c) (by simp)⟩, h3⟩

theorem byteAt_above {a : Nat} {m : List Host.Cell} (h : above a m) : byteAt m a = 0 := by
  induction m with
  | nil => rfl
  | cons p m ih =>
    obtain ⟨i, b⟩ := p
    have := h (i, b) (by simp)
    simp only [byteAt]
    rw [if_neg (by simp at this; omega)]
    exact ih (fun q hq => h q (by simp [hq]))

/-- A byte is the value of its address in the map, or 0. -/
theorem byteAt_eq (m : List Host.Cell) (a : Nat) : byteAt m a = SMap.getD (α := Byte) m a 0 := by
  induction m with
  | nil => rfl
  | cons p m ih =>
    obtain ⟨i, b⟩ := p
    simp only [byteAt, SMap.getD, SMap.find]
    split
    · rfl
    · exact ih

/-- A byte read after it is written. -/
theorem byteAt_setByte_same (m : List Host.Cell) (a : Nat) (b : Byte) : byteAt (setByte m a b) a = b := by
  rw [byteAt_eq]; exact SMap.getD_setD_same _ _ _ _

/-- A byte that is not the one written reads as before. -/
theorem byteAt_setByte_ne {m : List Host.Cell} {a x : Nat} (b : Byte) (hx : x ≠ a) :
    byteAt (setByte m a b) x = byteAt m x := by
  rw [byteAt_eq, byteAt_eq]; exact SMap.getD_setD_ne _ _ _ hx

/-- Removing cells keeps the canonical form. -/
theorem wf_filter {m : List Host.Cell} (f : Host.Cell → Bool) (h : Memory.wf m = true) :
    Memory.wf (m.filter f) = true := by
  induction m with
  | nil => rfl
  | cons p m ih =>
    obtain ⟨i, c⟩ := p
    obtain ⟨hc, ha, hm⟩ := (wf_cons i c m).1 h
    by_cases hf : f (i, c) = true
    · rw [List.filter_cons_of_pos hf]
      exact (wf_cons _ _ _).2 ⟨hc, fun q hq => ha q (List.mem_filter.1 hq).1, ih hm⟩
    · rw [List.filter_cons_of_neg hf]; exact ih hm

theorem above_insert {x a : Nat} {m : List Host.Cell} (b : Byte) (hx : x < a) (h : above x m) :
    above x (SMap.insert (α := Byte) m a b) := by
  induction m with
  | nil => intro p hp; simp [SMap.insert] at hp; subst hp; exact hx
  | cons p m ih =>
    obtain ⟨i, c⟩ := p
    have hi : x < i := h (i, c) (by simp)
    have hm : above x m := fun q hq => h q (by simp [hq])
    have put : ∀ (j : Nat) (d : Byte) (l : List Host.Cell), x < j → above x l → above x ((j, d) :: l) := by
      intro j d l hj hl q hq
      rcases List.mem_cons.1 hq with rfl | hq
      · exact hj
      · exact hl q hq
    simp only [SMap.insert]
    repeat' split
    · exact put _ _ _ hx h
    · exact put _ _ _ hx hm
    · exact put _ _ _ hi (ih hm)

/-- Writing a byte keeps the canonical form. -/
theorem wf_setByte {m : List Host.Cell} (a : Nat) (b : Byte) (h : Memory.wf m = true) :
    Memory.wf (setByte m a b) = true := by
  unfold setByte SMap.setD
  split
  · exact wf_filter _ h
  · next hb =>
    induction m with
    | nil => exact (wf_cons _ _ _).2 ⟨hb, by intro p hp; simp at hp, rfl⟩
    | cons p m ih =>
      obtain ⟨i, c⟩ := p
      obtain ⟨hc, ha, hm⟩ := (wf_cons i c m).1 h
      simp only [SMap.insert]
      split
      · next hai =>
        refine (wf_cons _ _ _).2 ⟨hb, ?_, h⟩
        intro q hq
        rcases List.mem_cons.1 hq with rfl | hq
        · exact hai
        · exact Nat.lt_trans hai (ha q hq)
      · split
        · next hai => subst hai; exact (wf_cons _ _ _).2 ⟨hb, ha, hm⟩
        · next h1 h2 => exact (wf_cons _ _ _).2 ⟨hc, above_insert b (by omega) ha, ih hm⟩

/-- Two memories in canonical form that read alike are equal. -/
theorem memory_ext {m n : List Host.Cell} (hm : Memory.wf m = true) (hn : Memory.wf n = true)
    (h : ∀ a, byteAt m a = byteAt n a) : m = n := by
  induction m generalizing n with
  | nil =>
    cases n with
    | nil => rfl
    | cons q n =>
      obtain ⟨j, d⟩ := q
      have := h j
      simp [byteAt] at this
      exact absurd this.symm ((wf_cons j d n).1 hn).1
  | cons p m ih =>
    obtain ⟨i, c⟩ := p
    obtain ⟨hc, ha, hm'⟩ := (wf_cons i c m).1 hm
    cases n with
    | nil =>
      have := h i
      simp [byteAt] at this
      exact absurd this hc
    | cons q n =>
      obtain ⟨j, d⟩ := q
      obtain ⟨hd, hb, hn'⟩ := (wf_cons j d n).1 hn
      have hij : i = j := by
        rcases Nat.lt_trichotomy i j with hlt | rfl | hlt
        · have := h i
          rw [byteAt, if_pos rfl, byteAt_above (m := (j, d) :: n) (by
            intro q hq
            rcases List.mem_cons.1 hq with rfl | hq
            · exact hlt
            · exact Nat.lt_trans hlt (hb q hq))] at this
          exact absurd this hc
        · rfl
        · have := h j
          rw [byteAt_above (m := (i, c) :: m) (by
            intro q hq
            rcases List.mem_cons.1 hq with rfl | hq
            · exact hlt
            · exact Nat.lt_trans hlt (ha q hq)), byteAt, if_pos rfl] at this
          exact absurd this.symm hd
      subst hij
      have hcd : c = d := by simpa [byteAt] using h i
      subst hcd
      rw [ih hm' hn' (fun a => ?_)]
      by_cases hai : i = a
      · subst hai; rw [byteAt_above ha, byteAt_above hb]
      · simpa [byteAt, hai] using h a

/-- Bytes read alike where the bytes do. -/
theorem readBytes_congr {m m' : List Host.Cell} {a n : Nat} (h : ∀ x, a ≤ x → x < a + n → byteAt m x = byteAt m' x) :
    readBytes m a n = readBytes m' a n := by
  induction n generalizing a with
  | zero => rfl
  | succ n ih =>
    simp only [readBytes]
    rw [h a (Nat.le_refl _) (by omega), ih (fun x h1 h2 => h x (by omega) (by omega))]

/-- n bytes are a number below 256^n. -/
theorem readBytes_lt (m : List Host.Cell) (a n : Nat) : readBytes m a n < 256 ^ n := by
  induction n generalizing a with
  | zero => simp [readBytes]
  | succ n ih =>
    have h1 := (byteAt m a).isLt
    have h2 := ih (a + 1)
    simp only [readBytes, Nat.pow_succ]
    omega

namespace State

/-- Writing a byte keeps the canonical form. -/
theorem inv_writeByte {s : State} (a : Nat) (b : Byte) (h : s.Inv) : (s.writeByte a b).Inv := wf_setByte a b h

/-- Writing bytes under a mask keeps the canonical form. -/
theorem inv_writeBytes {s : State} (a v bm n : Nat) (h : s.Inv) : (s.writeBytes a v bm n).Inv := by
  induction n generalizing s a v bm with
  | zero => exact h
  | succ n ih =>
    simp only [writeBytes]
    apply ih
    split
    · exact inv_writeByte _ _ h
    · exact h

/-- Writing n bytes keeps the canonical form. -/
theorem inv_writeMem {s : State} (a n v : Nat) (h : s.Inv) : (s.writeMem a n v).Inv := inv_writeBytes _ _ _ _ h

/-- A state with the same memory has its canonical form. -/
theorem inv_of_mem {s t : State} (e : t.mem = s.mem) (h : s.Inv) : t.Inv := by
  unfold State.Inv at *; rw [e]; exact h

/-- A byte that a write under a mask reaches, and that its mask enables. -/
theorem byteAt_writeBytes {s : State} (a v bm n x : Nat) :
    byteAt (s.writeBytes a v bm n).mem x =
      if a ≤ x ∧ x < a + n ∧ bm.testBit (x - a) = true then BitVec.ofNat 8 (v / 256 ^ (x - a)) else byteAt s.mem x := by
  induction n generalizing s a v bm with
  | zero =>
    rw [if_neg (by omega)]
    rfl
  | succ n ih =>
    simp only [writeBytes]
    rw [ih]
    by_cases hx : a + 1 ≤ x
    · have e1 : x - a = (x - (a + 1)) + 1 := by omega
      have e2 : (bm / 2).testBit (x - (a + 1)) = bm.testBit (x - a) := by rw [e1, Nat.testBit_succ]
      have e3 : v / 256 / 256 ^ (x - (a + 1)) = v / 256 ^ (x - a) := by
        rw [Nat.div_div_eq_div_mul, e1, Nat.pow_succ, Nat.mul_comm]
      have e4 : byteAt (if bm % 2 = 1 then s.writeByte a (BitVec.ofNat 8 v) else s).mem x = byteAt s.mem x := by
        split
        · exact byteAt_setByte_ne _ (by omega)
        · rfl
      rw [e2, e3, e4]
      by_cases hc : x < a + (n + 1) ∧ bm.testBit (x - a) = true
      · rw [if_pos ⟨hx, by omega, hc.2⟩, if_pos ⟨by omega, hc.1, hc.2⟩]
      · rw [if_neg (by rintro ⟨_, h1, h2⟩; exact hc ⟨by omega, h2⟩), if_neg (by rintro ⟨_, h1, h2⟩; exact hc ⟨h1, h2⟩)]
    · rw [if_neg (fun c => hx c.1)]
      by_cases hxa : x = a
      · subst hxa
        by_cases hb : bm % 2 = 1
        · rw [if_pos hb, if_pos ⟨Nat.le_refl _, by omega, by simp [Nat.testBit_zero, hb]⟩]
          have : x - x = 0 := by omega
          rw [this, Nat.pow_zero, Nat.div_one]
          exact byteAt_setByte_same s.mem x (BitVec.ofNat 8 v)
        · rw [if_neg hb, if_neg]
          rintro ⟨_, _, h2⟩
          simp [Nat.testBit_zero] at h2
          exact hb h2
      · have hlt : ¬ a ≤ x := by omega
        rw [if_neg (c := a ≤ x ∧ _) (fun c => hlt c.1)]
        split
        · exact byteAt_setByte_ne _ hxa
        · rfl

/-- What a write of n bytes leaves outside them. -/
theorem byteAt_writeMem_ne {s : State} {a n x : Nat} (v : Nat) (hx : x < a ∨ a + n ≤ x) :
    byteAt (s.writeMem a n v).mem x = byteAt s.mem x := by
  rw [writeMem, byteAt_writeBytes, if_neg (by omega)]

/-- What a write of n bytes puts in them. -/
theorem byteAt_writeMem_in {s : State} {a n i : Nat} (v : Nat) (hi : i < n) :
    byteAt (s.writeMem a n v).mem (a + i) = BitVec.ofNat 8 (v / 256 ^ i) := by
  rw [writeMem, byteAt_writeBytes, if_pos]
  · simp
  · refine ⟨by omega, by omega, ?_⟩
    simp [Nat.testBit_two_pow_sub_one, hi]

/-- Bytes that read as those of v are v. -/
theorem readBytes_of_bytes (m : List Host.Cell) (a n v : Nat)
    (h : ∀ i, i < n → byteAt m (a + i) = BitVec.ofNat 8 (v / 256 ^ i)) : readBytes m a n = v % 256 ^ n := by
  induction n generalizing a v with
  | zero => simp [readBytes, Nat.mod_one]
  | succ n ih =>
    simp only [readBytes]
    rw [ih (a + 1) (v / 256) (fun i hi => by
      have := h (i + 1) (by omega)
      rw [Nat.add_assoc, Nat.add_comm 1 i, this, Nat.div_div_eq_div_mul, Nat.pow_succ, Nat.mul_comm])]
    have := h 0 (by omega)
    simp at this
    rw [this, Nat.pow_succ, Nat.mul_comm (256 ^ n) 256, Nat.mod_mul]
    rfl

/-- Memory read after it is written. -/
theorem readMem_writeMem_same {s : State} (a n v : Nat) : (s.writeMem a n v).readMem a n = v % 256 ^ n :=
  readBytes_of_bytes _ _ _ _ (fun _ hi => byteAt_writeMem_in v hi)

/-- Memory read elsewhere after a write. -/
theorem readMem_writeMem_ne {s : State} {a n b k : Nat} (v : Nat) (hd : b + k ≤ a ∨ a + n ≤ b) :
    (s.writeMem a n v).readMem b k = s.readMem b k :=
  readBytes_congr (fun _ _ _ => byteAt_writeMem_ne v (by omega))

end State

end Sys2Proof.Machine
end

