-- ==== Sys2Proof/Laws/Ops.lean ====
section
/-! SUPPORT. One lemma for each shared operation: what it does, and that it leaves memory alone or in its form. -/

namespace Sys2Proof.Machine

namespace State

/-! ### An operation behind its obstacle (R305) -/

/-- An operation that nothing stands in the way of acts. -/
theorem gate_of_free {s : State} {o : State → Option Obstacle} (eff : State → State) (h : s.Free o) :
    s.gate o eff = eff s := by
  obtain ⟨ho, hc | hp⟩ := h
  · simp [gate, hc]
  · simp only [gate, hp, ho, Bool.false_eq_true, if_false]
    split <;> rfl

/-- An operation that is alone and meets its obstacle takes it. -/
theorem gate_of_alone {s : State} {o : State → Option Obstacle} {x : Obstacle} (eff : State → State) (h : s.Alone)
    (ho : o s = some x) : s.gate o eff = s.obstruct x := by
  simp [gate, h.1, h.2, ho]

/-- A probed operation only tells its obstacle. -/
theorem gate_of_probe {s : State} (o : State → Option Obstacle) (eff : State → State) (h1 : s.issue.checked = false)
    (h2 : s.issue.probe = true) : s.gate o eff = { s with issue := { s.issue with found := o s } } := by
  simp [gate, h1, h2]

/-! ### Results in flight (R42, R43) -/

theorem emit_lands (s : State) (d : RegName) (v m : VWord) (lat : Nat) (lock : Bool) (fl : Nat) :
    Lands s (s.emit d v m lat lock fl) d v m lat lock fl := rfl
theorem putS_lands (s : State) (d : BitVec 6) (v : Word) (lat : Nat) : LandsS s (s.putS d v lat) d v lat false := rfl
theorem putSLock_lands (s : State) (d : BitVec 6) (v : Word) (lat : Nat) : LandsS s (s.putSLock d v lat) d v lat true := rfl
theorem putG_lands (s : State) (d : BitVec 4) (v : Bool) (lat : Nat) (lock : Bool) :
    LandsG s (s.putG d v lat lock) d v lat lock := rfl

/-- A result in flight changes no register, no memory and nothing of its strand but what is in flight. -/
theorem lands_frame {s u : State} {d : RegName} {v m : VWord} {lat fl : Nat} {lock : Bool} (h : Lands s u d v m lat lock fl) :
    u.mem = s.mem ∧ u.me.regs = s.me.regs ∧ u.me.v = s.me.v ∧ u.me.pc = s.me.pc ∧ u.me.status = s.me.status ∧
      u.cores = s.cores ∧ u.dies = s.dies := by
  have e : u.me = { s.me with flight := u.me.flight } := by rw [h]; simp
  refine ⟨by rw [h]; rfl, by rw [e], by rw [e], by rw [e], by rw [e], by rw [h]; rfl, by rw [h]; rfl⟩

/-! ### What leaves memory alone -/

theorem mem_foldl {α : Type} (f : State → α → State) (h : ∀ s x, (f s x).mem = s.mem) (l : List α) (s : State) :
    (l.foldl f s).mem = s.mem := by
  induction l generalizing s with
  | nil => rfl
  | cons x l ih => exact (ih (f s x)).trans (h s x)

theorem inv_foldl {α : Type} (f : State → α → State) (h : ∀ s x, s.Inv → (f s x).Inv) (l : List α) (s : State)
    (hs : s.Inv) : (l.foldl f s).Inv := by
  induction l generalizing s with
  | nil => exact hs
  | cons x l ih => exact ih (f s x) (h s x hs)

theorem mem_letGoLq (s : State) (c q : Nat) : (s.letGoLq c q).mem = s.mem := by
  simp only [letGoLq]
  repeat' split
  all_goals rfl

theorem mem_closeLq (s : State) (c q : Nat) : (s.closeLq c q).mem = s.mem := by
  simp only [closeLq]
  split
  · rfl
  · exact mem_letGoLq _ _ _

theorem mem_closeSaved (s : State) (t c : Nat) : (s.closeSaved t c).mem = s.mem := by
  simp only [closeSaved]
  rw [updCore_eq, mem_setCore]
  refine mem_foldl _ (fun s q => ?_) _ _
  split
  · exact mem_letGoLq _ _ _
  · rfl

theorem mem_stopCores (s : State) (l : List Nat) (v : Nat) : (s.stopCores l v).mem = s.mem := by
  apply mem_foldl
  intro s c
  refine (mem_foldl _ (fun s q => mem_closeLq s c q) _ _).trans ?_
  rw [updCore_eq, mem_setCore]
  apply mem_foldl
  intro s i
  rfl

theorem mem_doomTask (s : State) (t : Task) (v : Nat) : (s.doomTask t v).mem = s.mem := by
  simp only [doomTask]
  exact (mem_foldl _ (fun s c => mem_closeSaved s t.id c) _ _).trans (mem_stopCores _ _ _)

theorem mem_stopTask (s : State) (c : Nat) (t : Trap) : (s.stopTask c t).mem = s.mem := by
  simp only [stopTask]
  split
  · exact mem_doomTask _ _ _
  · exact mem_stopCores _ _ _

theorem mem_resolveGuards (s : State) (i : Nat) : (s.resolveGuards i).mem = s.mem := by
  simp only [resolveGuards]
  split <;> rfl

theorem mem_stopDebug (s : State) (i : Nat) : (s.stopDebug i).mem = s.mem := by
  rw [stopDebug, updStrand_eq, mem_setStrand, settleNow, updStrand_eq, mem_setStrand, mem_resolveGuards]

theorem mem_enterDebug (s : State) (i : Nat) : (s.enterDebug i).mem = s.mem := by
  simp only [enterDebug]
  split
  · exact mem_stopDebug _ _
  · exact mem_foldl stopDebug mem_stopDebug _ _

theorem mem_doubleTrap (s : State) (i : Nat) (t : Trap) : (s.doubleTrap i t).mem = s.mem := by
  simp only [doubleTrap]
  split
  · exact mem_enterDebug _ _
  · exact mem_stopTask _ _ _

theorem mem_dropPreloads (s : State) (c code : Nat) : (s.dropPreloads c code).mem = s.mem := by
  simp only [dropPreloads]
  repeat' split
  all_goals rfl

/-- Taking a trap leaves memory alone (R279, R280, R240). -/
theorem mem_takeTrap (s : State) (i : Nat) (t : Trap) (e : BitVec 18) : (s.takeTrap i t e).mem = s.mem := by
  simp only [takeTrap]
  repeat' split
  · rfl
  · exact mem_doubleTrap _ _ _
  · exact mem_dropPreloads _ _ _

theorem mem_raise (s : State) (k : TrapKind) (t : Trap) : (s.raise k t).mem = s.mem := by
  cases k
  · exact mem_takeTrap _ _ _ _
  · exact mem_takeTrap _ _ _ _
  · exact mem_takeTrap _ _ _ _
  · rfl

/-- What stands in the way of an operation leaves memory alone. -/
theorem mem_obstruct (s : State) (o : Obstacle) : (s.obstruct o).mem = s.mem := by
  cases o
  · exact mem_raise _ _ _
  all_goals rfl

theorem mem_afterBundle (s : State) (t : Trap) : (s.afterBundle t).mem = s.mem := by
  simp only [afterBundle]
  repeat' split
  · rfl
  · rfl
  · exact mem_takeTrap _ _ _ _

theorem mem_returnFromTrap (s : State) : s.returnFromTrap.mem = s.mem := rfl

/-- An operation keeps the form of memory when its effect does. -/
theorem inv_gate {s : State} (o : State → Option Obstacle) {eff : State → State} (he : (eff s).Inv) (h : s.Inv) :
    (s.gate o eff).Inv := by
  simp only [gate]
  repeat' split
  · exact he
  · exact h
  · exact inv_of_mem (mem_obstruct _ _) h
  · exact he

/-! ### Traps (R279) -/

/-- A trap of a strand outside a handler enters it: its registers are those of `Strand.enter`, and it is no longer in WAIT. -/
theorem strand_takeTrap {s : State} {i : Nat} (t : Trap) (e : BitVec 18) (h1 : isThread i = false)
    (h2 : (s.strand i).inh = false) :
    (s.takeTrap i t e).strand i = { (s.strand i).enter t e with
      run := if (s.strand i).run = .waiting then .ready else (s.strand i).run, wait := .none } := by
  have h : ∀ (u : State) (c k : Nat), (u.dropPreloads c k).strand i = u.strand i := by
    intro u c k
    simp only [dropPreloads]
    repeat' split
    all_goals rfl
  simp only [takeTrap, h1, h2, Bool.false_and, Bool.false_eq_true, if_false]
  rw [h, updStrand_eq, strand_setStrand_same]
  rfl

end State

/-- Results that are not visible yet stay, and the strand with them (R42). -/
theorem settle_of_none {st : Strand} {t : Nat} (h : ∀ r ∈ st.flight, r.ready t = false) : st.settle t = st := by
  have h1 : st.flight.filter (Result.ready t) = [] := List.filter_eq_nil_iff.2 (fun r hr => by simp [h r hr])
  have h2 : st.flight.filter (fun r => !r.ready t) = st.flight :=
    List.filter_eq_self.2 (fun r hr => by simp [h r hr])
  have h3 : ∀ r : Result, Result.gain [] r = r := fun r => by cases r; simp [Result.gain]
  simp only [Strand.settle, h1, h2, List.foldr_nil, List.map_nil, List.foldl_nil]
  rw [show Result.gain [] = id from funext h3, List.map_id]

/-- An instruction completes where `exec` answers the state of which P holds. -/
theorem completes_intro {i : Instr} {s u : State} {P : State → Prop} (h : exec i s = .next u) (hp : P u) :
    Completes i s P := ⟨u, h, hp⟩

end Sys2Proof.Machine
end

