-- ==== Sys2Proof/Laws/PerInstr.lean ====
section
/-! SUPPORT. What is said of every instruction as syntax, one lemma for each row of the opcode table. `FieldsFit`: every field
of an operation fits the bits that its slot gives it (R308 to R320), so that no encoding drops a bit, and the word of a micro-op
fits 64 bits (R322). -/

namespace Sys2Proof.Laws

/-- Values fit the widths of their fields, one by one. -/
def fitAll : List Nat → List Nat → Prop
  | [], [] => True
  | w :: ws, v :: vs => v < 2 ^ w ∧ fitAll ws vs
  | _, _ => False

/-- Every field of an instruction fits its slot. -/
def FieldsFit.Statement (i : Instr) : Prop :=
  match i.slot with
  | .ps => ∀ sq fst lst, fitAll scalarWidths (scalarFields ⟨sq, fst, lst, i⟩)
  | .pv => ∀ sq fst lst, fitAll vectorWidths (vectorFields ⟨sq, fst, lst, i⟩)
  | .l => ∀ sq fst lst, fitAll lWidths (lFields ⟨sq, fst, lst, i⟩)
  | .m => ∀ sq fst lst, fitAll mWidths (mFields ⟨sq, fst, lst, i⟩)
  | .x => ∀ sq fst lst, fitAll xWidths (xFields ⟨sq, fst, lst, i⟩)
  | .q => ∀ sq fst lst, fitAll qWidths (qFields ⟨sq, fst, lst, i⟩)
  | .b => ∀ sq fst lst, fitAll bWidths (bFields ⟨sq, fst, lst, i⟩)
  | .micro => encodeMicro i < 2 ^ 64
  | .event => True

theorem b2n_lt (b : Bool) : b2n b < 2 := by cases b <;> decide
theorem ty_lt (t : Ty) : t.code < 16 := by cases t <;> decide
theorem rnd_lt (r : Rnd) : r.code < 8 := by cases r <;> decide
theorem cc_lt (c : Cc) : c.code < 8 := by cases c <;> decide
theorem ord_lt (o : Ord) : o.code < 4 := by cases o <;> decide
theorem scope_lt (s : Scope) : s.code < 8 := by cases s <;> decide
theorem scopeField_lt (s : Option Scope) : scopeField s < 8 := by cases s <;> simp [scopeField, scope_lt]
theorem gop_lt (f : GopFn) : f.code < 16 := by cases f <;> decide
theorem maskFn_lt (f : MaskFn) : f.code < 16 := by cases f <;> decide
theorem redFn_lt (f : RedFn) : f.code < 16 := by cases f <;> decide
theorem amoFn_lt (f : AmoFn) : f.code < 16 := by cases f <;> decide
theorem tlbMode_lt (m : TlbMode) : m.code < 4 := by cases m <;> decide
theorem waitOrd_lt (o : WaitOrd) : o.fields.1 < 4 ∧ o.fields.2 < 8 := by
  cases o <;> rename_i s <;> have := scope_lt s <;> simp only [WaitOrd.fields] <;> omega
theorem voteSide_lt (o : VoteSide) : o.fields.1 < 2 ∧ o.fields.2 < 8 := by
  cases o <;> rename_i s <;> have := scope_lt s <;> simp only [VoteSide.fields] <;> omega
theorem bit_le (o : Option Scope) (n : Nat) : (if o.isSome = true then n else 0) ≤ n := by split <;> omega
theorem flags_lt (a b c : Bool) : b2n a < 2 ∧ b2n b < 2 ∧ b2n c < 2 := ⟨b2n_lt a, b2n_lt b, b2n_lt c⟩
theorem vsrc_lt (v : VSrc) : v.fields.1 < 64 ∧ (v.fields.2 = 0 ∨ v.fields.2 = 8) := by
  cases v <;> simp [VSrc.fields] <;> exact BitVec.isLt _
theorem srcB_lt (b : SrcB) : b.fields.1 < 2 ∧ b.fields.2.1 < 64 ∧ b.fields.2.2.1 < 64 ∧ b.fields.2.2.2 < 8 := by
  cases b with
  | reg r => have := r.isLt; simp only [SrcB.fields]; omega
  | imm v => have := v.isLt; simp only [SrcB.fields]; omega

theorem packFields_lt (ws vs : List Nat) : packFields ws vs < 2 ^ ws.sum := by
  induction ws generalizing vs with
  | nil => simp [packFields]
  | cons w ws ih =>
    cases vs with
    | nil => simp only [packFields]; exact Nat.two_pow_pos _
    | cons v vs =>
      have h1 : v % 2 ^ w < 2 ^ w := Nat.mod_lt _ (Nat.two_pow_pos w)
      have h2 := ih vs
      simp only [packFields, List.sum_cons, Nat.pow_add]
      calc v % 2 ^ w * 2 ^ ws.sum + packFields ws vs < v % 2 ^ w * 2 ^ ws.sum + 2 ^ ws.sum := by omega
        _ = (v % 2 ^ w + 1) * 2 ^ ws.sum := by rw [Nat.add_mul, Nat.one_mul]
        _ ≤ 2 ^ w * 2 ^ ws.sum := Nat.mul_le_mul_right _ h1

theorem FieldsFit.add (t : Ty) (sat : Bool) (sd : BitVec 6) (sa : BitVec 6) (sb : SrcB) :
    FieldsFit.Statement (.add t sat sd sa sb) := by
  intro sq fst lst; have := flags_lt sq fst lst; have := ty_lt t; have := b2n_lt sat; have := sd.isLt; have := sa.isLt; have := srcB_lt sb
  simp only [scalarFields, scalarWidths, fitAll, and_true]; omega
theorem FieldsFit.sub (t : Ty) (sat : Bool) (sd : BitVec 6) (sa : BitVec 6) (sb : SrcB) :
    FieldsFit.Statement (.sub t sat sd sa sb) := by
  intro sq fst lst; have := flags_lt sq fst lst; have := ty_lt t; have := b2n_lt sat; have := sd.isLt; have := sa.isLt; have := srcB_lt sb
  simp only [scalarFields, scalarWidths, fitAll, and_true]; omega
theorem FieldsFit.mul (t : Ty) (sat : Bool) (sd : BitVec 6) (sa : BitVec 6) (sb : SrcB) :
    FieldsFit.Statement (.mul t sat sd sa sb) := by
  intro sq fst lst; have := flags_lt sq fst lst; have := ty_lt t; have := b2n_lt sat; have := sd.isLt; have := sa.isLt; have := srcB_lt sb
  simp only [scalarFields, scalarWidths, fitAll, and_true]; omega
theorem FieldsFit.mulh (t : Ty) (sd : BitVec 6) (sa : BitVec 6) (sb : BitVec 6) :
    FieldsFit.Statement (.mulh t sd sa sb) := by
  intro sq fst lst; have := flags_lt sq fst lst; have := ty_lt t; have := sd.isLt; have := sa.isLt; have := sb.isLt
  simp only [scalarFields, scalarWidths, fitAll, and_true]; omega
theorem FieldsFit.div (t : Ty) (sd : BitVec 6) (sa : BitVec 6) (sb : SrcB) :
    FieldsFit.Statement (.div t sd sa sb) := by
  intro sq fst lst; have := flags_lt sq fst lst; have := ty_lt t; have := sd.isLt; have := sa.isLt; have := srcB_lt sb
  simp only [scalarFields, scalarWidths, fitAll, and_true]; omega
theorem FieldsFit.mod (t : Ty) (sd : BitVec 6) (sa : BitVec 6) (sb : SrcB) :
    FieldsFit.Statement (.mod t sd sa sb) := by
  intro sq fst lst; have := flags_lt sq fst lst; have := ty_lt t; have := sd.isLt; have := sa.isLt; have := srcB_lt sb
  simp only [scalarFields, scalarWidths, fitAll, and_true]; omega
theorem FieldsFit.and (t : Ty) (sd : BitVec 6) (sa : BitVec 6) (sb : SrcB) :
    FieldsFit.Statement (.and t sd sa sb) := by
  intro sq fst lst; have := flags_lt sq fst lst; have := ty_lt t; have := sd.isLt; have := sa.isLt; have := srcB_lt sb
  simp only [scalarFields, scalarWidths, fitAll, and_true]; omega
theorem FieldsFit.andn (t : Ty) (sd : BitVec 6) (sa : BitVec 6) (sb : SrcB) :
    FieldsFit.Statement (.andn t sd sa sb) := by
  intro sq fst lst; have := flags_lt sq fst lst; have := ty_lt t; have := sd.isLt; have := sa.isLt; have := srcB_lt sb
  simp only [scalarFields, scalarWidths, fitAll, and_true]; omega
theorem FieldsFit.or (t : Ty) (sd : BitVec 6) (sa : BitVec 6) (sb : SrcB) :
    FieldsFit.Statement (.or t sd sa sb) := by
  intro sq fst lst; have := flags_lt sq fst lst; have := ty_lt t; have := sd.isLt; have := sa.isLt; have := srcB_lt sb
  simp only [scalarFields, scalarWidths, fitAll, and_true]; omega
theorem FieldsFit.xor (t : Ty) (sd : BitVec 6) (sa : BitVec 6) (sb : SrcB) :
    FieldsFit.Statement (.xor t sd sa sb) := by
  intro sq fst lst; have := flags_lt sq fst lst; have := ty_lt t; have := sd.isLt; have := sa.isLt; have := srcB_lt sb
  simp only [scalarFields, scalarWidths, fitAll, and_true]; omega
theorem FieldsFit.shl (t : Ty) (sd : BitVec 6) (sa : BitVec 6) (sb : SrcB) :
    FieldsFit.Statement (.shl t sd sa sb) := by
  intro sq fst lst; have := flags_lt sq fst lst; have := ty_lt t; have := sd.isLt; have := sa.isLt; have := srcB_lt sb
  simp only [scalarFields, scalarWidths, fitAll, and_true]; omega
theorem FieldsFit.shr (t : Ty) (sd : BitVec 6) (sa : BitVec 6) (sb : SrcB) :
    FieldsFit.Statement (.shr t sd sa sb) := by
  intro sq fst lst; have := flags_lt sq fst lst; have := ty_lt t; have := sd.isLt; have := sa.isLt; have := srcB_lt sb
  simp only [scalarFields, scalarWidths, fitAll, and_true]; omega
theorem FieldsFit.sra (t : Ty) (sd : BitVec 6) (sa : BitVec 6) (sb : SrcB) :
    FieldsFit.Statement (.sra t sd sa sb) := by
  intro sq fst lst; have := flags_lt sq fst lst; have := ty_lt t; have := sd.isLt; have := sa.isLt; have := srcB_lt sb
  simp only [scalarFields, scalarWidths, fitAll, and_true]; omega
theorem FieldsFit.max (t : Ty) (sd : BitVec 6) (sa : BitVec 6) (sb : SrcB) :
    FieldsFit.Statement (.max t sd sa sb) := by
  intro sq fst lst; have := flags_lt sq fst lst; have := ty_lt t; have := sd.isLt; have := sa.isLt; have := srcB_lt sb
  simp only [scalarFields, scalarWidths, fitAll, and_true]; omega
theorem FieldsFit.min (t : Ty) (sd : BitVec 6) (sa : BitVec 6) (sb : SrcB) :
    FieldsFit.Statement (.min t sd sa sb) := by
  intro sq fst lst; have := flags_lt sq fst lst; have := ty_lt t; have := sd.isLt; have := sa.isLt; have := srcB_lt sb
  simp only [scalarFields, scalarWidths, fitAll, and_true]; omega
theorem FieldsFit.bext (t : Ty) (sd : BitVec 6) (sa : BitVec 6) (pos : BitVec 6) (len : BitVec 6) :
    FieldsFit.Statement (.bext t sd sa pos len) := by
  intro sq fst lst; have := flags_lt sq fst lst; have := ty_lt t; have := sd.isLt; have := sa.isLt; have := pos.isLt; have := len.isLt
  simp only [scalarFields, scalarWidths, fitAll, and_true]; omega
theorem FieldsFit.bins (t : Ty) (sd : BitVec 6) (sa : BitVec 6) (pos : BitVec 6) (len : BitVec 6) :
    FieldsFit.Statement (.bins t sd sa pos len) := by
  intro sq fst lst; have := flags_lt sq fst lst; have := ty_lt t; have := sd.isLt; have := sa.isLt; have := pos.isLt; have := len.isLt
  simp only [scalarFields, scalarWidths, fitAll, and_true]; omega
theorem FieldsFit.clz (t : Ty) (sd : BitVec 6) (sa : BitVec 6) :
    FieldsFit.Statement (.clz t sd sa) := by
  intro sq fst lst; have := flags_lt sq fst lst; have := ty_lt t; have := sd.isLt; have := sa.isLt
  simp only [scalarFields, scalarWidths, fitAll, and_true]; omega
theorem FieldsFit.popc (t : Ty) (sd : BitVec 6) (sa : BitVec 6) :
    FieldsFit.Statement (.popc t sd sa) := by
  intro sq fst lst; have := flags_lt sq fst lst; have := ty_lt t; have := sd.isLt; have := sa.isLt
  simp only [scalarFields, scalarWidths, fitAll, and_true]; omega
theorem FieldsFit.cmp (t : Ty) (cc : Cc) (gd : BitVec 4) (sa : BitVec 6) (sb : SrcB) :
    FieldsFit.Statement (.cmp t cc gd sa sb) := by
  intro sq fst lst; have := flags_lt sq fst lst; have := ty_lt t; have := cc_lt cc; have := gd.isLt; have := sa.isLt; have := srcB_lt sb; have := (gd.zeroExtend 6).isLt
  simp only [scalarFields, scalarWidths, fitAll, and_true]; omega
theorem FieldsFit.sel (t : Ty) (sd : BitVec 6) (gc : BitVec 4) (inv : Bool) (sa : BitVec 6) (sb : BitVec 6) :
    FieldsFit.Statement (.sel t sd gc inv sa sb) := by
  intro sq fst lst; have := flags_lt sq fst lst; have := ty_lt t; have := sd.isLt; have := gc.isLt; have := b2n_lt inv; have := sa.isLt; have := sb.isLt
  simp only [scalarFields, scalarWidths, fitAll, and_true]; omega
theorem FieldsFit.gop (f : GopFn) (gd : BitVec 4) (ga : BitVec 4) (ia : Bool) (gb : BitVec 4) (ib : Bool) :
    FieldsFit.Statement (.gop f gd ga ia gb ib) := by
  intro sq fst lst; have := flags_lt sq fst lst; have := gop_lt f; have := gd.isLt; have := ga.isLt; have := b2n_lt ia; have := gb.isLt; have := b2n_lt ib
  simp only [scalarFields, scalarWidths, fitAll, and_true]; omega
theorem FieldsFit.lea (d : SaReg) (base : SaReg) (idx : LeaIdx) :
    FieldsFit.Statement (.lea d base idx) := by
  intro sq fst lst; have := flags_lt sq fst lst
  cases d <;> cases base <;> cases idx <;> rename_i x y z <;>
    (first | (rename_i w; have := w.isLt) | skip) <;> have := x.isLt <;> have := y.isLt <;> have := z.isLt <;>
    simp only [scalarFields, scalarWidths, fitAll, SrcB.fields, Ty.code, BitVec.toNat_ofNat, and_true] <;> omega
theorem FieldsFit.mov (d : MovDst) (src : MovSrc) :
    FieldsFit.Statement (.mov d src) := by
  intro sq fst lst; have := flags_lt sq fst lst
  cases d <;> cases src <;> rename_i x y <;> have := x.isLt <;> have := y.isLt <;>
    simp only [scalarFields, scalarWidths, fitAll, SrcB.fields, Ty.code, BitVec.toNat_ofNat, and_true] <;> omega
theorem FieldsFit.movhi (sd : BitVec 6) (imm : BitVec 16) (q : BitVec 2) :
    FieldsFit.Statement (.movhi sd imm q) := by
  intro sq fst lst; have := flags_lt sq fst lst; have := sd.isLt; have := imm.isLt; have := q.isLt
  simp only [scalarFields, scalarWidths, fitAll, and_true]; omega
theorem FieldsFit.cvti (tt : Ty) (frm : Ty) (sat : Bool) (rnd : Rnd) (sd : BitVec 6) (sa : BitVec 6) :
    FieldsFit.Statement (.cvti tt frm sat rnd sd sa) := by
  intro sq fst lst; have := flags_lt sq fst lst; have := ty_lt tt; have := ty_lt frm; have := b2n_lt sat; have := rnd_lt rnd; have := sd.isLt; have := sa.isLt
  simp only [scalarFields, scalarWidths, fitAll, and_true]; omega
theorem FieldsFit.fadd (t : Ty) (rnd : Rnd) (sd : BitVec 6) (sa : BitVec 6) (sb : BitVec 6) :
    FieldsFit.Statement (.fadd t rnd sd sa sb) := by
  intro sq fst lst; have := flags_lt sq fst lst; have := ty_lt t; have := rnd_lt rnd; have := sd.isLt; have := sa.isLt; have := sb.isLt
  simp only [scalarFields, scalarWidths, fitAll, and_true]; omega
theorem FieldsFit.fmul (t : Ty) (rnd : Rnd) (sd : BitVec 6) (sa : BitVec 6) (sb : BitVec 6) :
    FieldsFit.Statement (.fmul t rnd sd sa sb) := by
  intro sq fst lst; have := flags_lt sq fst lst; have := ty_lt t; have := rnd_lt rnd; have := sd.isLt; have := sa.isLt; have := sb.isLt
  simp only [scalarFields, scalarWidths, fitAll, and_true]; omega
theorem FieldsFit.ffma (t : Ty) (rnd : Rnd) (sd : BitVec 6) (sa : BitVec 6) (sb : BitVec 6) (sc : BitVec 6) :
    FieldsFit.Statement (.ffma t rnd sd sa sb sc) := by
  intro sq fst lst; have := flags_lt sq fst lst; have := ty_lt t; have := rnd_lt rnd; have := sd.isLt; have := sa.isLt; have := sb.isLt; have := sc.isLt
  simp only [scalarFields, scalarWidths, fitAll, and_true]; omega
theorem FieldsFit.fcmp (t : Ty) (cc : Cc) (gd : BitVec 4) (sa : BitVec 6) (sb : BitVec 6) :
    FieldsFit.Statement (.fcmp t cc gd sa sb) := by
  intro sq fst lst; have := flags_lt sq fst lst; have := ty_lt t; have := cc_lt cc; have := gd.isLt; have := sa.isLt; have := sb.isLt
  simp only [scalarFields, scalarWidths, fitAll, and_true]; omega
theorem FieldsFit.fcvt (tt : Ty) (frm : Ty) (rnd : Rnd) (sd : BitVec 6) (sa : BitVec 6) :
    FieldsFit.Statement (.fcvt tt frm rnd sd sa) := by
  intro sq fst lst; have := flags_lt sq fst lst; have := ty_lt tt; have := ty_lt frm; have := rnd_lt rnd; have := sd.isLt; have := sa.isLt
  simp only [scalarFields, scalarWidths, fitAll, and_true]; omega
theorem FieldsFit.vabs (t : Ty) (vd : BitVec 6) (va : BitVec 6) (mk : MaskSel) :
    FieldsFit.Statement (.vabs t vd va mk) := by
  intro sq fst lst; have := flags_lt sq fst lst; have := ty_lt t; have := vd.isLt; have := va.isLt; have := b2n_lt mk.men; have := mk.vm.isLt; have := rnd_lt .dyn
  simp only [vectorFields, vectorWidths, fitAll, and_true]; omega
theorem FieldsFit.vadd (t : Ty) (sat : Bool) (rnd : Rnd) (vd : BitVec 6) (va : BitVec 6) (vb : VSrc) (mk : MaskSel) :
    FieldsFit.Statement (.vadd t sat rnd vd va vb mk) := by
  intro sq fst lst; have := flags_lt sq fst lst; have := ty_lt t; have := b2n_lt sat; have := rnd_lt rnd; have := vd.isLt; have := va.isLt; have := vsrc_lt vb; have := b2n_lt mk.men; have := mk.vm.isLt; have := rnd_lt .dyn
  simp only [vectorFields, vectorWidths, fitAll, and_true]; omega
theorem FieldsFit.vsub (t : Ty) (sat : Bool) (rnd : Rnd) (vd : BitVec 6) (va : BitVec 6) (vb : VSrc) (mk : MaskSel) :
    FieldsFit.Statement (.vsub t sat rnd vd va vb mk) := by
  intro sq fst lst; have := flags_lt sq fst lst; have := ty_lt t; have := b2n_lt sat; have := rnd_lt rnd; have := vd.isLt; have := va.isLt; have := vsrc_lt vb; have := b2n_lt mk.men; have := mk.vm.isLt; have := rnd_lt .dyn
  simp only [vectorFields, vectorWidths, fitAll, and_true]; omega
theorem FieldsFit.vmul (t : Ty) (sat : Bool) (rnd : Rnd) (vd : BitVec 6) (va : BitVec 6) (vb : VSrc) (mk : MaskSel) :
    FieldsFit.Statement (.vmul t sat rnd vd va vb mk) := by
  intro sq fst lst; have := flags_lt sq fst lst; have := ty_lt t; have := b2n_lt sat; have := rnd_lt rnd; have := vd.isLt; have := va.isLt; have := vsrc_lt vb; have := b2n_lt mk.men; have := mk.vm.isLt; have := rnd_lt .dyn
  simp only [vectorFields, vectorWidths, fitAll, and_true]; omega
theorem FieldsFit.vfma (t : Ty) (rnd : Rnd) (vd : BitVec 6) (va : BitVec 6) (vb : VSrc) (vc : BitVec 6) (mk : MaskSel) :
    FieldsFit.Statement (.vfma t rnd vd va vb vc mk) := by
  intro sq fst lst; have := flags_lt sq fst lst; have := ty_lt t; have := rnd_lt rnd; have := vd.isLt; have := va.isLt; have := vsrc_lt vb; have := vc.isLt; have := b2n_lt mk.men; have := mk.vm.isLt; have := rnd_lt .dyn
  simp only [vectorFields, vectorWidths, fitAll, and_true]; omega
theorem FieldsFit.vand (t : Ty) (vd : BitVec 6) (va : BitVec 6) (vb : VSrc) (mk : MaskSel) :
    FieldsFit.Statement (.vand t vd va vb mk) := by
  intro sq fst lst; have := flags_lt sq fst lst; have := ty_lt t; have := vd.isLt; have := va.isLt; have := vsrc_lt vb; have := b2n_lt mk.men; have := mk.vm.isLt; have := rnd_lt .dyn
  simp only [vectorFields, vectorWidths, fitAll, and_true]; omega
theorem FieldsFit.vor (t : Ty) (vd : BitVec 6) (va : BitVec 6) (vb : VSrc) (mk : MaskSel) :
    FieldsFit.Statement (.vor t vd va vb mk) := by
  intro sq fst lst; have := flags_lt sq fst lst; have := ty_lt t; have := vd.isLt; have := va.isLt; have := vsrc_lt vb; have := b2n_lt mk.men; have := mk.vm.isLt; have := rnd_lt .dyn
  simp only [vectorFields, vectorWidths, fitAll, and_true]; omega
theorem FieldsFit.vxor (t : Ty) (vd : BitVec 6) (va : BitVec 6) (vb : VSrc) (mk : MaskSel) :
    FieldsFit.Statement (.vxor t vd va vb mk) := by
  intro sq fst lst; have := flags_lt sq fst lst; have := ty_lt t; have := vd.isLt; have := va.isLt; have := vsrc_lt vb; have := b2n_lt mk.men; have := mk.vm.isLt; have := rnd_lt .dyn
  simp only [vectorFields, vectorWidths, fitAll, and_true]; omega
theorem FieldsFit.vshl (t : Ty) (vd : BitVec 6) (va : BitVec 6) (vb : VSrc) (mk : MaskSel) :
    FieldsFit.Statement (.vshl t vd va vb mk) := by
  intro sq fst lst; have := flags_lt sq fst lst; have := ty_lt t; have := vd.isLt; have := va.isLt; have := vsrc_lt vb; have := b2n_lt mk.men; have := mk.vm.isLt; have := rnd_lt .dyn
  simp only [vectorFields, vectorWidths, fitAll, and_true]; omega
theorem FieldsFit.vshr (t : Ty) (vd : BitVec 6) (va : BitVec 6) (vb : VSrc) (mk : MaskSel) :
    FieldsFit.Statement (.vshr t vd va vb mk) := by
  intro sq fst lst; have := flags_lt sq fst lst; have := ty_lt t; have := vd.isLt; have := va.isLt; have := vsrc_lt vb; have := b2n_lt mk.men; have := mk.vm.isLt; have := rnd_lt .dyn
  simp only [vectorFields, vectorWidths, fitAll, and_true]; omega
theorem FieldsFit.vsra (t : Ty) (vd : BitVec 6) (va : BitVec 6) (vb : VSrc) (mk : MaskSel) :
    FieldsFit.Statement (.vsra t vd va vb mk) := by
  intro sq fst lst; have := flags_lt sq fst lst; have := ty_lt t; have := vd.isLt; have := va.isLt; have := vsrc_lt vb; have := b2n_lt mk.men; have := mk.vm.isLt; have := rnd_lt .dyn
  simp only [vectorFields, vectorWidths, fitAll, and_true]; omega
theorem FieldsFit.vmax (t : Ty) (vd : BitVec 6) (va : BitVec 6) (vb : VSrc) (mk : MaskSel) :
    FieldsFit.Statement (.vmax t vd va vb mk) := by
  intro sq fst lst; have := flags_lt sq fst lst; have := ty_lt t; have := vd.isLt; have := va.isLt; have := vsrc_lt vb; have := b2n_lt mk.men; have := mk.vm.isLt; have := rnd_lt .dyn
  simp only [vectorFields, vectorWidths, fitAll, and_true]; omega
theorem FieldsFit.vmin (t : Ty) (vd : BitVec 6) (va : BitVec 6) (vb : VSrc) (mk : MaskSel) :
    FieldsFit.Statement (.vmin t vd va vb mk) := by
  intro sq fst lst; have := flags_lt sq fst lst; have := ty_lt t; have := vd.isLt; have := va.isLt; have := vsrc_lt vb; have := b2n_lt mk.men; have := mk.vm.isLt; have := rnd_lt .dyn
  simp only [vectorFields, vectorWidths, fitAll, and_true]; omega
theorem FieldsFit.vneg (t : Ty) (vd : BitVec 6) (va : BitVec 6) (mk : MaskSel) :
    FieldsFit.Statement (.vneg t vd va mk) := by
  intro sq fst lst; have := flags_lt sq fst lst; have := ty_lt t; have := vd.isLt; have := va.isLt; have := b2n_lt mk.men; have := mk.vm.isLt; have := rnd_lt .dyn
  simp only [vectorFields, vectorWidths, fitAll, and_true]; omega
theorem FieldsFit.vmov (t : Ty) (vd : BitVec 6) (va : BitVec 6) (mk : MaskSel) :
    FieldsFit.Statement (.vmov t vd va mk) := by
  intro sq fst lst; have := flags_lt sq fst lst; have := ty_lt t; have := vd.isLt; have := va.isLt; have := b2n_lt mk.men; have := mk.vm.isLt; have := rnd_lt .dyn
  simp only [vectorFields, vectorWidths, fitAll, and_true]; omega
theorem FieldsFit.vbcast (t : Ty) (vd : BitVec 6) (sa : BitVec 6) (mk : MaskSel) :
    FieldsFit.Statement (.vbcast t vd sa mk) := by
  intro sq fst lst; have := flags_lt sq fst lst; have := ty_lt t; have := vd.isLt; have := sa.isLt; have := b2n_lt mk.men; have := mk.vm.isLt; have := rnd_lt .dyn
  simp only [vectorFields, vectorWidths, fitAll, and_true]; omega
theorem FieldsFit.vsel (t : Ty) (vd : BitVec 6) (va : BitVec 6) (vb : VSrc) (vm : BitVec 3) :
    FieldsFit.Statement (.vsel t vd va vb vm) := by
  intro sq fst lst; have := flags_lt sq fst lst; have := ty_lt t; have := vd.isLt; have := va.isLt; have := vsrc_lt vb; have := vm.isLt; have := rnd_lt .dyn; have := b2n_lt true
  simp only [vectorFields, vectorWidths, fitAll, and_true]; omega
theorem FieldsFit.vcmp (t : Ty) (cc : Cc) (vmd : BitVec 3) (va : BitVec 6) (vb : VSrc) (mk : MaskSel) :
    FieldsFit.Statement (.vcmp t cc vmd va vb mk) := by
  intro sq fst lst; have := flags_lt sq fst lst; have := ty_lt t; have := cc_lt cc; have := vmd.isLt; have := va.isLt; have := vsrc_lt vb; have := b2n_lt mk.men; have := mk.vm.isLt; have := rnd_lt .dyn; have := (vmd.zeroExtend 6).isLt
  simp only [vectorFields, vectorWidths, fitAll, and_true]; omega
theorem FieldsFit.vcount (sd : BitVec 6) (vma : BitVec 3) :
    FieldsFit.Statement (.vcount sd vma) := by
  intro sq fst lst; have := flags_lt sq fst lst; have := sd.isLt; have := vma.isLt; have := rnd_lt .dyn
  simp only [vectorFields, vectorWidths, fitAll, and_true]; omega
theorem FieldsFit.vcvt (tt : Ty) (frm : Ty) (rnd : Rnd) (vd : BitVec 6) (va : BitVec 6) (mk : MaskSel) :
    FieldsFit.Statement (.vcvt tt frm rnd vd va mk) := by
  intro sq fst lst; have := flags_lt sq fst lst; have := ty_lt tt; have := ty_lt frm; have := rnd_lt rnd; have := vd.isLt; have := va.isLt; have := b2n_lt mk.men; have := mk.vm.isLt; have := rnd_lt .dyn
  simp only [vectorFields, vectorWidths, fitAll, and_true]; omega
theorem FieldsFit.vexp2 (t : Ty) (rnd : Rnd) (vd : BitVec 6) (va : BitVec 6) (mk : MaskSel) :
    FieldsFit.Statement (.vexp2 t rnd vd va mk) := by
  intro sq fst lst; have := flags_lt sq fst lst; have := ty_lt t; have := rnd_lt rnd; have := vd.isLt; have := va.isLt; have := b2n_lt mk.men; have := mk.vm.isLt; have := rnd_lt .dyn
  simp only [vectorFields, vectorWidths, fitAll, and_true]; omega
theorem FieldsFit.vlog2 (t : Ty) (rnd : Rnd) (vd : BitVec 6) (va : BitVec 6) (mk : MaskSel) :
    FieldsFit.Statement (.vlog2 t rnd vd va mk) := by
  intro sq fst lst; have := flags_lt sq fst lst; have := ty_lt t; have := rnd_lt rnd; have := vd.isLt; have := va.isLt; have := b2n_lt mk.men; have := mk.vm.isLt; have := rnd_lt .dyn
  simp only [vectorFields, vectorWidths, fitAll, and_true]; omega
theorem FieldsFit.vrcp (t : Ty) (rnd : Rnd) (vd : BitVec 6) (va : BitVec 6) (mk : MaskSel) :
    FieldsFit.Statement (.vrcp t rnd vd va mk) := by
  intro sq fst lst; have := flags_lt sq fst lst; have := ty_lt t; have := rnd_lt rnd; have := vd.isLt; have := va.isLt; have := b2n_lt mk.men; have := mk.vm.isLt; have := rnd_lt .dyn
  simp only [vectorFields, vectorWidths, fitAll, and_true]; omega
theorem FieldsFit.vrsq (t : Ty) (rnd : Rnd) (vd : BitVec 6) (va : BitVec 6) (mk : MaskSel) :
    FieldsFit.Statement (.vrsq t rnd vd va mk) := by
  intro sq fst lst; have := flags_lt sq fst lst; have := ty_lt t; have := rnd_lt rnd; have := vd.isLt; have := va.isLt; have := b2n_lt mk.men; have := mk.vm.isLt; have := rnd_lt .dyn
  simp only [vectorFields, vectorWidths, fitAll, and_true]; omega
theorem FieldsFit.vextr (t : Ty) (sd : BitVec 6) (va : BitVec 6) (sb : BitVec 6) :
    FieldsFit.Statement (.vextr t sd va sb) := by
  intro sq fst lst; have := flags_lt sq fst lst; have := ty_lt t; have := sd.isLt; have := va.isLt; have := sb.isLt; have := rnd_lt .dyn
  simp only [vectorFields, vectorWidths, fitAll, and_true]; omega
theorem FieldsFit.vins (t : Ty) (vd : BitVec 6) (sa : BitVec 6) (sb : BitVec 6) :
    FieldsFit.Statement (.vins t vd sa sb) := by
  intro sq fst lst; have := flags_lt sq fst lst; have := ty_lt t; have := vd.isLt; have := sa.isLt; have := sb.isLt; have := rnd_lt .dyn
  simp only [vectorFields, vectorWidths, fitAll, and_true]; omega
theorem FieldsFit.vmask (f : MaskFn) (vmd : BitVec 3) (vma : BitVec 3) (vmb : BitVec 3) :
    FieldsFit.Statement (.vmask f vmd vma vmb) := by
  intro sq fst lst; have := flags_lt sq fst lst; have := maskFn_lt f; have := vmd.isLt; have := vma.isLt; have := vmb.isLt; have := rnd_lt .dyn
  simp only [vectorFields, vectorWidths, fitAll, and_true]; omega
theorem FieldsFit.vperm (t : Ty) (vd : BitVec 6) (va : BitVec 6) (vb : VSrc) (mk : MaskSel) :
    FieldsFit.Statement (.vperm t vd va vb mk) := by
  intro sq fst lst; have := flags_lt sq fst lst; have := ty_lt t; have := vd.isLt; have := va.isLt; have := vsrc_lt vb; have := b2n_lt mk.men; have := mk.vm.isLt; have := rnd_lt .dyn
  simp only [vectorFields, vectorWidths, fitAll, and_true]; omega
theorem FieldsFit.vred (t : Ty) (f : RedFn) (rnd : Rnd) (sd : BitVec 6) (va : BitVec 6) (mk : MaskSel) :
    FieldsFit.Statement (.vred t f rnd sd va mk) := by
  intro sq fst lst; have := flags_lt sq fst lst; have := ty_lt t; have := redFn_lt f; have := rnd_lt rnd; have := sd.isLt; have := va.isLt; have := b2n_lt mk.men; have := mk.vm.isLt; have := rnd_lt .dyn
  simp only [vectorFields, vectorWidths, fitAll, and_true]; omega
theorem FieldsFit.vscan (t : Ty) (rnd : Rnd) (vd : BitVec 6) (va : BitVec 6) (mk : MaskSel) :
    FieldsFit.Statement (.vscan t rnd vd va mk) := by
  intro sq fst lst; have := flags_lt sq fst lst; have := ty_lt t; have := rnd_lt rnd; have := vd.isLt; have := va.isLt; have := b2n_lt mk.men; have := mk.vm.isLt; have := rnd_lt .dyn
  simp only [vectorFields, vectorWidths, fitAll, and_true]; omega
theorem FieldsFit.ld (t : Ty) (o : OrdSc) (sd : BitVec 6) (ea : Addr) :
    FieldsFit.Statement (.ld t o sd ea) := by
  intro sq fst lst; have := flags_lt sq fst lst; have := ty_lt t; have := ord_lt o.ord; have := scope_lt o.scope; have := sd.isLt; have := ea.ab.isLt; have := ea.imm.isLt; have := ord_lt .relaxed; have := scope_lt .core
  simp only [lFields, lWidths, fitAll, and_true]; omega
theorem FieldsFit.st (t : Ty) (o : OrdSc) (ea : Addr) (sb : BitVec 6) :
    FieldsFit.Statement (.st t o ea sb) := by
  intro sq fst lst; have := flags_lt sq fst lst; have := ty_lt t; have := ord_lt o.ord; have := scope_lt o.scope; have := ea.ab.isLt; have := ea.imm.isLt; have := sb.isLt; have := ord_lt .relaxed; have := scope_lt .core
  simp only [lFields, lWidths, fitAll, and_true]; omega
theorem FieldsFit.vld (o : OrdSc) (vd : BitVec 6) (ea : Addr) (mk : MaskSel) :
    FieldsFit.Statement (.vld o vd ea mk) := by
  intro sq fst lst; have := flags_lt sq fst lst; have := ord_lt o.ord; have := scope_lt o.scope; have := vd.isLt; have := ea.ab.isLt; have := ea.imm.isLt; have := b2n_lt mk.men; have := mk.vm.isLt; have := ord_lt .relaxed; have := scope_lt .core
  simp only [lFields, lWidths, fitAll, and_true]; omega
theorem FieldsFit.vst (o : OrdSc) (ea : Addr) (vb : BitVec 6) (mk : MaskSel) :
    FieldsFit.Statement (.vst o ea vb mk) := by
  intro sq fst lst; have := flags_lt sq fst lst; have := ord_lt o.ord; have := scope_lt o.scope; have := ea.ab.isLt; have := ea.imm.isLt; have := vb.isLt; have := b2n_lt mk.men; have := mk.vm.isLt; have := ord_lt .relaxed; have := scope_lt .core
  simp only [lFields, lWidths, fitAll, and_true]; omega
theorem FieldsFit.fence (o : OrdSc) :
    FieldsFit.Statement (.fence o) := by
  intro sq fst lst; have := flags_lt sq fst lst; have := ord_lt o.ord; have := scope_lt o.scope; have := ord_lt .relaxed; have := scope_lt .core
  simp only [lFields, lWidths, fitAll, and_true]; omega
theorem FieldsFit.waitaddr (t : Ty) (o : OrdSc) (sd : BitVec 6) (ea : Addr) (sb : BitVec 6) :
    FieldsFit.Statement (.waitaddr t o sd ea sb) := by
  intro sq fst lst; have := flags_lt sq fst lst; have := ty_lt t; have := ord_lt o.ord; have := scope_lt o.scope; have := sd.isLt; have := ea.ab.isLt; have := ea.imm.isLt; have := sb.isLt; have := ord_lt .relaxed; have := scope_lt .core
  simp only [lFields, lWidths, fitAll, and_true]; omega
theorem FieldsFit.cflush (ea : Addr) :
    FieldsFit.Statement (.cflush ea) := by
  intro sq fst lst; have := flags_lt sq fst lst; have := ea.ab.isLt; have := ea.imm.isLt; have := ord_lt .relaxed; have := scope_lt .core
  simp only [lFields, lWidths, fitAll, and_true]; omega
theorem FieldsFit.cinv (ea : Addr) :
    FieldsFit.Statement (.cinv ea) := by
  intro sq fst lst; have := flags_lt sq fst lst; have := ea.ab.isLt; have := ea.imm.isLt; have := ord_lt .relaxed; have := scope_lt .core
  simp only [lFields, lWidths, fitAll, and_true]; omega
theorem FieldsFit.gidx (t : Ty) (ea : Addr) (sb : BitVec 6) :
    FieldsFit.Statement (.gidx t ea sb) := by
  intro sq fst lst; have := flags_lt sq fst lst; have := ty_lt t; have := ea.ab.isLt; have := ea.imm.isLt; have := sb.isLt; have := ord_lt .relaxed; have := scope_lt .core
  simp only [lFields, lWidths, fitAll, and_true]; omega
theorem FieldsFit.sidx (t : Ty) (ea : Addr) (sb : BitVec 6) (sc : BitVec 6) :
    FieldsFit.Statement (.sidx t ea sb sc) := by
  intro sq fst lst; have := flags_lt sq fst lst; have := ty_lt t; have := ea.ab.isLt; have := ea.imm.isLt; have := sb.isLt; have := sc.isLt; have := ord_lt .relaxed; have := scope_lt .core
  simp only [lFields, lWidths, fitAll, and_true]; omega
theorem FieldsFit.gpop (sd : BitVec 6) :
    FieldsFit.Statement (.gpop sd) := by
  intro sq fst lst; have := flags_lt sq fst lst; have := sd.isLt; have := ord_lt .relaxed; have := scope_lt .core
  simp only [lFields, lWidths, fitAll, and_true]; omega
theorem FieldsFit.gpopRp (sd : BitVec 6) :
    FieldsFit.Statement (.gpopRp sd) := by
  intro sq fst lst; have := flags_lt sq fst lst; have := sd.isLt; have := ord_lt .relaxed; have := scope_lt .core
  simp only [lFields, lWidths, fitAll, and_true]; omega
theorem FieldsFit.qstat (sd : BitVec 6) :
    FieldsFit.Statement (.qstat sd) := by
  intro sq fst lst; have := flags_lt sq fst lst; have := sd.isLt; have := ord_lt .relaxed; have := scope_lt .core
  simp only [lFields, lWidths, fitAll, and_true]; omega
theorem FieldsFit.amo (t : Ty) (f : AmoFn) (o : OrdSc) (sd : BitVec 6) (ea : Addr) (sb : BitVec 6) :
    FieldsFit.Statement (.amo t f o sd ea sb) := by
  intro sq fst lst; have := flags_lt sq fst lst; have := ty_lt t; have := amoFn_lt f; have := ord_lt o.ord; have := scope_lt o.scope; have := sd.isLt; have := ea.ab.isLt; have := ea.imm.isLt; have := sb.isLt; have := ord_lt .relaxed; have := scope_lt .core
  simp only [lFields, lWidths, fitAll, and_true]; omega
theorem FieldsFit.amocas (t : Ty) (o : OrdSc) (sd : BitVec 6) (ea : Addr) (sb : BitVec 6) (sc : BitVec 6) :
    FieldsFit.Statement (.amocas t o sd ea sb sc) := by
  intro sq fst lst; have := flags_lt sq fst lst; have := ty_lt t; have := ord_lt o.ord; have := scope_lt o.scope; have := sd.isLt; have := ea.ab.isLt; have := ea.imm.isLt; have := sb.isLt; have := sc.isLt; have := ord_lt .relaxed; have := scope_lt .core
  simp only [lFields, lWidths, fitAll, and_true]; omega
theorem FieldsFit.qinc (t : Ty) (o : OrdSc) (sd : BitVec 6) (gd : BitVec 4) (ea : Addr) (sb : BitVec 6) :
    FieldsFit.Statement (.qinc t o sd gd ea sb) := by
  intro sq fst lst; have := flags_lt sq fst lst; have := ty_lt t; have := ord_lt o.ord; have := scope_lt o.scope; have := sd.isLt; have := gd.isLt; have := ea.ab.isLt; have := ea.imm.isLt; have := sb.isLt; have := ord_lt .relaxed; have := scope_lt .core
  simp only [lFields, lWidths, fitAll, and_true]; omega
theorem FieldsFit.qwrap (t : Ty) (o : OrdSc) (sd : BitVec 6) (gd : BitVec 4) (ea : Addr) (sb : BitVec 6) :
    FieldsFit.Statement (.qwrap t o sd gd ea sb) := by
  intro sq fst lst; have := flags_lt sq fst lst; have := ty_lt t; have := ord_lt o.ord; have := scope_lt o.scope; have := sd.isLt; have := gd.isLt; have := ea.ab.isLt; have := ea.imm.isLt; have := sb.isLt; have := ord_lt .relaxed; have := scope_lt .core
  simp only [lFields, lWidths, fitAll, and_true]; omega
theorem FieldsFit.qdec (t : Ty) (o : OrdSc) (sd : BitVec 6) (gd : BitVec 4) (ea : Addr) :
    FieldsFit.Statement (.qdec t o sd gd ea) := by
  intro sq fst lst; have := flags_lt sq fst lst; have := ty_lt t; have := ord_lt o.ord; have := scope_lt o.scope; have := sd.isLt; have := gd.isLt; have := ea.ab.isLt; have := ea.imm.isLt; have := ord_lt .relaxed; have := scope_lt .core
  simp only [lFields, lWidths, fitAll, and_true]; omega
theorem FieldsFit.qaddl (t : Ty) (o : OrdSc) (sd : BitVec 6) (gd : BitVec 4) (ea : Addr) (sb : BitVec 6) :
    FieldsFit.Statement (.qaddl t o sd gd ea sb) := by
  intro sq fst lst; have := flags_lt sq fst lst; have := ty_lt t; have := ord_lt o.ord; have := scope_lt o.scope; have := sd.isLt; have := gd.isLt; have := ea.ab.isLt; have := ea.imm.isLt; have := sb.isLt; have := ord_lt .relaxed; have := scope_lt .core
  simp only [lFields, lWidths, fitAll, and_true]; omega
theorem FieldsFit.spld (o : OrdSc) (sd : BitVec 6) (as : BitVec 4) (sk : BitVec 6) :
    FieldsFit.Statement (.spld o sd as sk) := by
  intro sq fst lst; have := flags_lt sq fst lst; have := ord_lt o.ord; have := scope_lt o.scope; have := sd.isLt; have := as.isLt; have := sk.isLt; have := ord_lt .relaxed; have := scope_lt .core
  simp only [lFields, lWidths, fitAll, and_true]; omega
theorem FieldsFit.spst (o : OrdSc) (as : BitVec 4) (sk : BitVec 6) (sv : BitVec 6) :
    FieldsFit.Statement (.spst o as sk sv) := by
  intro sq fst lst; have := flags_lt sq fst lst; have := ord_lt o.ord; have := scope_lt o.scope; have := as.isLt; have := sk.isLt; have := sv.isLt; have := ord_lt .relaxed; have := scope_lt .core
  simp only [lFields, lWidths, fitAll, and_true]; omega
theorem FieldsFit.spadd (o : OrdSc) (sd : BitVec 6) (as : BitVec 4) (sk : BitVec 6) (sv : BitVec 6) :
    FieldsFit.Statement (.spadd o sd as sk sv) := by
  intro sq fst lst; have := flags_lt sq fst lst; have := ord_lt o.ord; have := scope_lt o.scope; have := sd.isLt; have := as.isLt; have := sk.isLt; have := sv.isLt; have := ord_lt .relaxed; have := scope_lt .core
  simp only [lFields, lWidths, fitAll, and_true]; omega
theorem FieldsFit.spcur (ac : BitVec 4) (as : BitVec 4) (sk : BitVec 6) :
    FieldsFit.Statement (.spcur ac as sk) := by
  intro sq fst lst; have := flags_lt sq fst lst; have := ac.isLt; have := as.isLt; have := sk.isLt; have := ord_lt .relaxed; have := scope_lt .core
  simp only [lFields, lWidths, fitAll, and_true]; omega
theorem FieldsFit.spnext (o : OrdSc) (sk : BitVec 6) (sv : BitVec 6) (gd : BitVec 4) (ac : BitVec 4) :
    FieldsFit.Statement (.spnext o sk sv gd ac) := by
  intro sq fst lst; have := flags_lt sq fst lst; have := ord_lt o.ord; have := scope_lt o.scope; have := sk.isLt; have := sv.isLt; have := gd.isLt; have := ac.isLt; have := ord_lt .relaxed; have := scope_lt .core
  simp only [lFields, lWidths, fitAll, and_true]; omega
theorem FieldsFit.lend (b : BitVec 2) :
    FieldsFit.Statement (.lend b) := by
  intro sq fst lst; have := flags_lt sq fst lst; have := b.isLt
  simp only [mFields, mWidths, fitAll, and_true]; omega
theorem FieldsFit.mcall (idx : BitVec 10) :
    FieldsFit.Statement (.mcall idx) := by
  intro sq fst lst; have := flags_lt sq fst lst; have := idx.isLt
  simp only [mFields, mWidths, fitAll, and_true]; omega
theorem FieldsFit.mpwr (sd : BitVec 6) (req : Bool) :
    FieldsFit.Statement (.mpwr sd req) := by
  intro sq fst lst; have := flags_lt sq fst lst; have := sd.isLt; have := b2n_lt req
  simp only [mFields, mWidths, fitAll, and_true]; omega
theorem FieldsFit.mstat (sd : BitVec 6) :
    FieldsFit.Statement (.mstat sd) := by
  intro sq fst lst; have := flags_lt sq fst lst; have := sd.isLt
  simp only [mFields, mWidths, fitAll, and_true]; omega
theorem FieldsFit.mwait (n : BitVec 2) :
    FieldsFit.Statement (.mwait n) := by
  intro sq fst lst; have := flags_lt sq fst lst; have := n.isLt
  simp only [mFields, mWidths, fitAll, and_true]; omega
theorem FieldsFit.scld (xd : BitVec 4) (ab : BitVec 4) (imm : BitVec 14) :
    FieldsFit.Statement (.scld xd ab imm) := by
  intro sq fst lst; have := flags_lt sq fst lst; have := xd.isLt; have := ab.isLt; have := imm.isLt
  simp only [xFields, xWidths, fitAll, and_true]; omega
theorem FieldsFit.scst (ab : BitVec 4) (imm : BitVec 14) (xs : BitVec 4) :
    FieldsFit.Statement (.scst ab imm xs) := by
  intro sq fst lst; have := flags_lt sq fst lst; have := ab.isLt; have := imm.isLt; have := xs.isLt
  simp only [xFields, xWidths, fitAll, and_true]; omega
theorem FieldsFit.lqbindTx (lq : BitVec 4) (sd : BitVec 6) (sp : BitVec 6) (sc : BitVec 6) :
    FieldsFit.Statement (.lqbindTx lq sd sp sc) := by
  intro sq fst lst; have := flags_lt sq fst lst; have := lq.isLt; have := sd.isLt; have := sp.isLt; have := sc.isLt
  simp only [qFields, qWidths, fitAll, and_true]; omega
theorem FieldsFit.lqbindRx (lq : BitVec 4) (sd : BitVec 6) (sp : BitVec 6) (sc : BitVec 6) :
    FieldsFit.Statement (.lqbindRx lq sd sp sc) := by
  intro sq fst lst; have := flags_lt sq fst lst; have := lq.isLt; have := sd.isLt; have := sp.isLt; have := sc.isLt
  simp only [qFields, qWidths, fitAll, and_true]; omega
theorem FieldsFit.lqbindUn (lq : BitVec 4) (sd : BitVec 6) :
    FieldsFit.Statement (.lqbindUn lq sd) := by
  intro sq fst lst; have := flags_lt sq fst lst; have := lq.isLt; have := sd.isLt
  simp only [qFields, qWidths, fitAll, and_true]; omega
theorem FieldsFit.lqpush (lq : BitVec 4) (vb : BitVec 2) :
    FieldsFit.Statement (.lqpush lq vb) := by
  intro sq fst lst; have := flags_lt sq fst lst; have := lq.isLt; have := vb.isLt
  simp only [qFields, qWidths, fitAll, and_true]; omega
theorem FieldsFit.lqpushT (lq : BitVec 4) (vb : BitVec 2) (st : BitVec 6) :
    FieldsFit.Statement (.lqpushT lq vb st) := by
  intro sq fst lst; have := flags_lt sq fst lst; have := lq.isLt; have := vb.isLt; have := st.isLt
  simp only [qFields, qWidths, fitAll, and_true]; omega
theorem FieldsFit.lqpop (lq : BitVec 4) (vb : BitVec 2) :
    FieldsFit.Statement (.lqpop lq vb) := by
  intro sq fst lst; have := flags_lt sq fst lst; have := lq.isLt; have := vb.isLt
  simp only [qFields, qWidths, fitAll, and_true]; omega
theorem FieldsFit.lqstat (sd : BitVec 6) (lq : BitVec 4) :
    FieldsFit.Statement (.lqstat sd lq) := by
  intro sq fst lst; have := flags_lt sq fst lst; have := sd.isLt; have := lq.isLt
  simp only [qFields, qWidths, fitAll, and_true]; omega
theorem FieldsFit.xfer (fab : Bool) (spec : Bool) (ad : BitVec 4) (as : BitVec 4) (sl : BitVec 6) (ac : BitVec 4) (sv : BitVec 6) :
    FieldsFit.Statement (.xfer fab spec ad as sl ac sv) := by
  intro sq fst lst; have := flags_lt sq fst lst; have := b2n_lt fab; have := b2n_lt spec; have := ad.isLt; have := as.isLt; have := sl.isLt; have := ac.isLt; have := sv.isLt
  simp only [qFields, qWidths, fitAll, and_true]; omega
theorem FieldsFit.ejob (w : BitVec 5) (ss : BitVec 6) :
    FieldsFit.Statement (.ejob w ss) := by
  intro sq fst lst; have := flags_lt sq fst lst; have := w.isLt; have := ss.isLt
  simp only [qFields, qWidths, fitAll, and_true]; omega
theorem FieldsFit.ego (spec : Bool) (e : BitVec 1) :
    FieldsFit.Statement (.ego spec e) := by
  intro sq fst lst; have := flags_lt sq fst lst; have := b2n_lt spec; have := e.isLt
  simp only [qFields, qWidths, fitAll, and_true]; omega
theorem FieldsFit.route (spec : Bool) (aj : BitVec 4) :
    FieldsFit.Statement (.route spec aj) := by
  intro sq fst lst; have := flags_lt sq fst lst; have := b2n_lt spec; have := aj.isLt
  simp only [qFields, qWidths, fitAll, and_true]; omega
theorem FieldsFit.abandon (ab : BitVec 4) :
    FieldsFit.Statement (.abandon ab) := by
  intro sq fst lst; have := flags_lt sq fst lst; have := ab.isLt
  simp only [qFields, qWidths, fitAll, and_true]; omega
theorem FieldsFit.cload (ap : BitVec 4) (sn : BitVec 6) :
    FieldsFit.Statement (.cload ap sn) := by
  intro sq fst lst; have := flags_lt sq fst lst; have := ap.isLt; have := sn.isLt
  simp only [qFields, qWidths, fitAll, and_true]; omega
theorem FieldsFit.carm (spec : Bool) (ac : BitVec 4) :
    FieldsFit.Statement (.carm spec ac) := by
  intro sq fst lst; have := flags_lt sq fst lst; have := b2n_lt spec; have := ac.isLt
  simp only [qFields, qWidths, fitAll, and_true]; omega
theorem FieldsFit.ctrig (spec : Bool) (t : BitVec 4) :
    FieldsFit.Statement (.ctrig spec t) := by
  intro sq fst lst; have := flags_lt sq fst lst; have := b2n_lt spec; have := t.isLt
  simp only [qFields, qWidths, fitAll, and_true]; omega
theorem FieldsFit.spdense (spec : Bool) (ac : BitVec 4) :
    FieldsFit.Statement (.spdense spec ac) := by
  intro sq fst lst; have := flags_lt sq fst lst; have := b2n_lt spec; have := ac.isLt
  simp only [qFields, qWidths, fitAll, and_true]; omega
theorem FieldsFit.arrive (rel : Option Scope) (ch : BitVec 5) :
    FieldsFit.Statement (.arrive rel ch) := by
  intro sq fst lst; have := flags_lt sq fst lst; have := scopeField_lt rel; have := ch.isLt; have := bit_le rel 2
  simp only [qFields, qWidths, fitAll, and_true]; omega
theorem FieldsFit.bwait (o : WaitOrd) (ch : BitVec 5) :
    FieldsFit.Statement (.bwait o ch) := by
  intro sq fst lst; have := flags_lt sq fst lst; have := waitOrd_lt o; have := ch.isLt
  simp only [qFields, qWidths, fitAll, and_true]; omega
theorem FieldsFit.vote (rel : VoteSide) (acq : VoteSide) (gand : BitVec 4) (gor : BitVec 4) (gsrc : BitVec 4) (ch : BitVec 5) :
    FieldsFit.Statement (.vote rel acq gand gor gsrc ch) := by
  intro sq fst lst; have := flags_lt sq fst lst; have := voteSide_lt rel; have := voteSide_lt acq; have := gand.isLt; have := gor.isLt; have := gsrc.isLt; have := ch.isLt
  simp only [qFields, qWidths, fitAll, and_true]; omega
theorem FieldsFit.bdom (sd : BitVec 6) (ch : BitVec 5) :
    FieldsFit.Statement (.bdom sd ch) := by
  intro sq fst lst; have := flags_lt sq fst lst; have := sd.isLt; have := ch.isLt
  simp only [qFields, qWidths, fitAll, and_true]; omega
theorem FieldsFit.ctlrd (sd : BitVec 6) (cr : BitVec 12) :
    FieldsFit.Statement (.ctlrd sd cr) := by
  intro sq fst lst; have := flags_lt sq fst lst; have := sd.isLt; have := cr.isLt
  simp only [qFields, qWidths, fitAll, and_true]; omega
theorem FieldsFit.ctlwr (cr : BitVec 12) (ss : BitVec 6) :
    FieldsFit.Statement (.ctlwr cr ss) := by
  intro sq fst lst; have := flags_lt sq fst lst; have := cr.isLt; have := ss.isLt
  simp only [qFields, qWidths, fitAll, and_true]; omega
theorem FieldsFit.tlbinv (mode : TlbMode) (sa : BitVec 6) (sb : BitVec 6) :
    FieldsFit.Statement (.tlbinv mode sa sb) := by
  intro sq fst lst; have := flags_lt sq fst lst; have := tlbMode_lt mode; have := sa.isLt; have := sb.isLt
  simp only [qFields, qWidths, fitAll, and_true]; omega
theorem FieldsFit.kstart (sd : BitVec 6) (sa : BitVec 6) (sb : BitVec 6) :
    FieldsFit.Statement (.kstart sd sa sb) := by
  intro sq fst lst; have := flags_lt sq fst lst; have := sd.isLt; have := sa.isLt; have := sb.isLt
  simp only [qFields, qWidths, fitAll, and_true]; omega
theorem FieldsFit.bankcfg (sb : BitVec 6) (sc : BitVec 6) :
    FieldsFit.Statement (.bankcfg sb sc) := by
  intro sq fst lst; have := flags_lt sq fst lst; have := sb.isLt; have := sc.isLt
  simp only [qFields, qWidths, fitAll, and_true]; omega
theorem FieldsFit.br (off : BitVec 22) :
    FieldsFit.Statement (.br off) := by
  intro sq fst lst; have := flags_lt sq fst lst; have := off.isLt
  simp only [bFields, bWidths, fitAll, and_true]; omega
theorem FieldsFit.jmp (sa : BitVec 6) :
    FieldsFit.Statement (.jmp sa) := by
  intro sq fst lst; have := flags_lt sq fst lst; have := sa.isLt
  simp only [bFields, bWidths, fitAll, and_true]; omega
theorem FieldsFit.call (sd : BitVec 6) (off : BitVec 22) :
    FieldsFit.Statement (.call sd off) := by
  intro sq fst lst; have := flags_lt sq fst lst; have := sd.isLt; have := off.isLt
  simp only [bFields, bWidths, fitAll, and_true]; omega
theorem FieldsFit.ret (sa : BitVec 6) :
    FieldsFit.Statement (.ret sa) := by
  intro sq fst lst; have := flags_lt sq fst lst; have := sa.isLt
  simp only [bFields, bWidths, fitAll, and_true]; omega
theorem FieldsFit.loop (l : BitVec 3) (off : BitVec 22) :
    FieldsFit.Statement (.loop l off) := by
  intro sq fst lst; have := flags_lt sq fst lst; have := l.isLt; have := off.isLt
  simp only [bFields, bWidths, fitAll, and_true]; omega
theorem FieldsFit.lbreak (l : BitVec 3) :
    FieldsFit.Statement (.lbreak l) := by
  intro sq fst lst; have := flags_lt sq fst lst; have := l.isLt
  simp only [bFields, bWidths, fitAll, and_true]; omega
theorem FieldsFit.lpsetCnt (l : BitVec 3) (sr : BitVec 6) :
    FieldsFit.Statement (.lpsetCnt l sr) := by
  intro sq fst lst; have := flags_lt sq fst lst; have := l.isLt; have := sr.isLt
  simp only [bFields, bWidths, fitAll, and_true]; omega
theorem FieldsFit.lpsetStr (l : BitVec 3) (ar : BitVec 4) (sr : BitVec 6) :
    FieldsFit.Statement (.lpsetStr l ar sr) := by
  intro sq fst lst; have := flags_lt sq fst lst; have := l.isLt; have := ar.isLt; have := sr.isLt
  simp only [bFields, bWidths, fitAll, and_true]; omega
theorem FieldsFit.trap (imm : BitVec 16) :
    FieldsFit.Statement (.trap imm) := by
  intro sq fst lst; have := flags_lt sq fst lst; have := imm.isLt
  simp only [bFields, bWidths, fitAll, and_true]; omega
theorem FieldsFit.svc (imm : BitVec 16) :
    FieldsFit.Statement (.svc imm) := by
  intro sq fst lst; have := flags_lt sq fst lst; have := imm.isLt
  simp only [bFields, bWidths, fitAll, and_true]; omega
theorem FieldsFit.mAin (cb : BitVec 3) (rows : BitVec 8) (z : Bool) (src : MSrc) :
    FieldsFit.Statement (.mAin cb rows z src) := packFields_lt _ _
theorem FieldsFit.mBld (imm : BitVec 32) :
    FieldsFit.Statement (.mBld imm) := packFields_lt _ _
theorem FieldsFit.mCin (cb : BitVec 3) (rows : BitVec 8) (src : MSrc) :
    FieldsFit.Statement (.mCin cb rows src) := packFields_lt _ _
theorem FieldsFit.mCout (cb : BitVec 3) (rows : BitVec 8) (dst : MDst) :
    FieldsFit.Statement (.mCout cb rows dst) := packFields_lt _ _
theorem FieldsFit.mEpi (scl : Bool) (bias : Bool) (clamp : Bool) (gate : Bool) (fmt : BitVec 3) (sc : BitVec 4) (bi : BitVec 4) (cl : BitVec 4) :
    FieldsFit.Statement (.mEpi scl bias clamp gate fmt sc bi cl) := packFields_lt _ _
theorem FieldsFit.mGrp (ms : BitVec 4) (mc : BitVec 3) (imm : BitVec 32) :
    FieldsFit.Statement (.mGrp ms mc imm) := packFields_lt _ _
theorem FieldsFit.mLoop (lvl : BitVec 1) (ms : BitVec 4) (len : BitVec 12) (imm : BitVec 32) :
    FieldsFit.Statement (.mLoop lvl ms len imm) := packFields_lt _ _
theorem FieldsFit.mMac (cb : BitVec 3) :
    FieldsFit.Statement (.mMac cb) := packFields_lt _ _
theorem FieldsFit.mPset (tgt : BitVec 5) (ms : BitVec 4) (imm : BitVec 32) :
    FieldsFit.Statement (.mPset tgt ms imm) := packFields_lt _ _
theorem FieldsFit.mSel (word : BitVec 12) (g : BitVec 12) :
    FieldsFit.Statement (.mSel word g) := packFields_lt _ _
theorem FieldsFit.quantumExpiry (path : Nat) :
    FieldsFit.Statement (.quantumExpiry path) := trivial
theorem FieldsFit.holdTimeout (path : Nat) :
    FieldsFit.Statement (.holdTimeout path) := trivial
theorem FieldsFit.holdEnd (sid : Nat) :
    FieldsFit.Statement (.holdEnd sid) := trivial
theorem FieldsFit.waitConditionMet (sid : Nat) :
    FieldsFit.Statement (.waitConditionMet sid) := trivial
theorem FieldsFit.storeDrain (sid : Nat) :
    FieldsFit.Statement (.storeDrain sid) := trivial
theorem FieldsFit.leaseWaitEnd (sid : Nat) :
    FieldsFit.Statement (.leaseWaitEnd sid) := trivial
theorem FieldsFit.leaseExpiry (line : Nat) :
    FieldsFit.Statement (.leaseExpiry line) := trivial
theorem FieldsFit.directoryRead (line : Nat) (cluster : Nat) :
    FieldsFit.Statement (.directoryRead line cluster) := trivial
theorem FieldsFit.directoryWrite (line : Nat) (cluster : Nat) :
    FieldsFit.Statement (.directoryWrite line cluster) := trivial
theorem FieldsFit.directoryWriteback (line : Nat) (cluster : Nat) :
    FieldsFit.Statement (.directoryWriteback line cluster) := trivial
theorem FieldsFit.directoryCleanEviction (line : Nat) (cluster : Nat) :
    FieldsFit.Statement (.directoryCleanEviction line cluster) := trivial
theorem FieldsFit.l2ModeSwitch (value : Word) :
    FieldsFit.Statement (.l2ModeSwitch value) := trivial
theorem FieldsFit.bankSwitchDone (cluster : Nat) (bank : Nat) :
    FieldsFit.Statement (.bankSwitchDone cluster bank) := trivial
theorem FieldsFit.biasFlipToHost (region : Nat) :
    FieldsFit.Statement (.biasFlipToHost region) := trivial
theorem FieldsFit.biasFlipToDevice (region : Nat) :
    FieldsFit.Statement (.biasFlipToDevice region) := trivial
theorem FieldsFit.hostMemAccess (acc : HostAcc) :
    FieldsFit.Statement (.hostMemAccess acc) := trivial
theorem FieldsFit.pageLockTake (value : Word) :
    FieldsFit.Statement (.pageLockTake value) := trivial
theorem FieldsFit.pageLockRelease (value : Word) :
    FieldsFit.Statement (.pageLockRelease value) := trivial
theorem FieldsFit.remoteLoad (p : Packet) :
    FieldsFit.Statement (.remoteLoad p) := trivial
theorem FieldsFit.remoteStore (p : Packet) :
    FieldsFit.Statement (.remoteStore p) := trivial
theorem FieldsFit.remoteAtomic (p : Packet) :
    FieldsFit.Statement (.remoteAtomic p) := trivial
theorem FieldsFit.remoteCancel (p : Packet) :
    FieldsFit.Statement (.remoteCancel p) := trivial
theorem FieldsFit.ackReceived (a : AckPkt) :
    FieldsFit.Statement (.ackReceived a) := trivial
theorem FieldsFit.responseReceived (r : RespPkt) :
    FieldsFit.Statement (.responseReceived r) := trivial
theorem FieldsFit.ackTimeout (dst : Nat) (flow : Nat) (psn : Nat) :
    FieldsFit.Statement (.ackTimeout dst flow psn) := trivial
theorem FieldsFit.rnrRetry (dst : Nat) (flow : Nat) (psn : Nat) :
    FieldsFit.Statement (.rnrRetry dst flow psn) := trivial
theorem FieldsFit.circuitCellArrival (die : Nat) (port : Nat) (c : Cell) :
    FieldsFit.Statement (.circuitCellArrival die port c) := trivial
theorem FieldsFit.cellSend (die : Nat) (out : Nat) :
    FieldsFit.Statement (.cellSend die out) := trivial
theorem FieldsFit.packetRoute (die : Nat) (c : Cell) :
    FieldsFit.Statement (.packetRoute die c) := trivial
theorem FieldsFit.linkCellReceive (die : Nat) (port : Nat) (c : LinkCell) :
    FieldsFit.Statement (.linkCellReceive die port c) := trivial
theorem FieldsFit.linkReplay (die : Nat) (port : Nat) (lack : Nat) :
    FieldsFit.Statement (.linkReplay die port lack) := trivial
theorem FieldsFit.linkRetrain (die : Nat) (port : Nat) (ldly : Nat) :
    FieldsFit.Statement (.linkRetrain die port ldly) := trivial
theorem FieldsFit.keySwitch (die : Nat) (port : Nat) :
    FieldsFit.Statement (.keySwitch die port) := trivial
theorem FieldsFit.counterWarn (die : Nat) (port : Nat) :
    FieldsFit.Statement (.counterWarn die port) := trivial
theorem FieldsFit.counterSpent (die : Nat) (port : Nat) :
    FieldsFit.Statement (.counterSpent die port) := trivial
theorem FieldsFit.slotTableArm (die : Nat) (value : Word) :
    FieldsFit.Statement (.slotTableArm die value) := trivial
theorem FieldsFit.slotTableSwap (die : Nat) :
    FieldsFit.Statement (.slotTableSwap die) := trivial
theorem FieldsFit.fabstatClear (die : Nat) (value : Word) :
    FieldsFit.Statement (.fabstatClear die value) := trivial
theorem FieldsFit.stripCellSend (core : Nat) (lq : Nat) :
    FieldsFit.Statement (.stripCellSend core lq) := trivial
theorem FieldsFit.stripCellReceive (circ : Nat) (src : Nat) (cell : Nat) (space : Nat) (payload : Nat) :
    FieldsFit.Statement (.stripCellReceive circ src cell space payload) := trivial
theorem FieldsFit.spaceCellSend (core : Nat) (lq : Nat) :
    FieldsFit.Statement (.spaceCellSend core lq) := trivial
theorem FieldsFit.spaceCellReceive (circ : Nat) (src : Nat) (space : Nat) :
    FieldsFit.Statement (.spaceCellReceive circ src space) := trivial
theorem FieldsFit.routineStart (core : Nat) :
    FieldsFit.Statement (.routineStart core) := trivial
theorem FieldsFit.bldComplete (core : Nat) :
    FieldsFit.Statement (.bldComplete core) := trivial
theorem FieldsFit.routineComplete (core : Nat) :
    FieldsFit.Statement (.routineComplete core) := trivial
theorem FieldsFit.powerTokenArrival (cluster : Nat) :
    FieldsFit.Statement (.powerTokenArrival cluster) := trivial
theorem FieldsFit.tokenHoldExpiry (cluster : Nat) :
    FieldsFit.Statement (.tokenHoldExpiry cluster) := trivial
theorem FieldsFit.mpwrRequestExpiry (cluster : Nat) :
    FieldsFit.Statement (.mpwrRequestExpiry cluster) := trivial
theorem FieldsFit.oryxAnswer (sid : Nat) :
    FieldsFit.Statement (.oryxAnswer sid) := trivial
theorem FieldsFit.densifyJob (die : Nat) (job : Nat) :
    FieldsFit.Statement (.densifyJob die job) := trivial
theorem FieldsFit.routingJobStart (die : Nat) :
    FieldsFit.Statement (.routingJobStart die) := trivial
theorem FieldsFit.chamoisRoundStart (die : Nat) :
    FieldsFit.Statement (.chamoisRoundStart die) := trivial
theorem FieldsFit.chreqRequest (tid : Nat) (value : Word) :
    FieldsFit.Statement (.chreqRequest tid value) := trivial
theorem FieldsFit.chreqEnd (tid : Nat) :
    FieldsFit.Statement (.chreqEnd tid) := trivial
theorem FieldsFit.chgrantRead (tid : Nat) (sd : BitVec 6) :
    FieldsFit.Statement (.chgrantRead tid sd) := trivial
theorem FieldsFit.chemit (tid : Nat) (value : Word) :
    FieldsFit.Statement (.chemit tid value) := trivial
theorem FieldsFit.permitRequest (die : Nat) (expert : Nat) (rep : Nat) (mb : Nat) (seq : Nat) (round : Nat) (rank : Nat) (count : Nat) :
    FieldsFit.Statement (.permitRequest die expert rep mb seq round rank count) := trivial
theorem FieldsFit.permitGrant (die : Nat) (expert : Nat) (rep : Nat) (round : Nat) (count : Nat) :
    FieldsFit.Statement (.permitGrant die expert rep round count) := trivial
theorem FieldsFit.binWrite (die : Nat) (expert : Nat) (msg : BinMsg) :
    FieldsFit.Statement (.binWrite die expert msg) := trivial
theorem FieldsFit.combineSend (die : Nat) (slot : Nat) (po : Int) (msg : CombMsg) :
    FieldsFit.Statement (.combineSend die slot po msg) := trivial
theorem FieldsFit.combineDrop (die : Nat) (msg : DropMsg) :
    FieldsFit.Statement (.combineDrop die msg) := trivial
theorem FieldsFit.combineWatchdog (die : Nat) :
    FieldsFit.Statement (.combineWatchdog die) := trivial
theorem FieldsFit.impalaRunStart (die : Nat) (entry : Nat) :
    FieldsFit.Statement (.impalaRunStart die entry) := trivial
theorem FieldsFit.wordTrigger (die : Nat) (entry : Nat) :
    FieldsFit.Statement (.wordTrigger die entry) := trivial
theorem FieldsFit.impalaSend (die : Nat) (entry : Nat) :
    FieldsFit.Statement (.impalaSend die entry) := trivial
theorem FieldsFit.impalaRecv (die : Nat) (entry : Nat) :
    FieldsFit.Statement (.impalaRecv die entry) := trivial
theorem FieldsFit.impalaRrs (die : Nat) (entry : Nat) :
    FieldsFit.Statement (.impalaRrs die entry) := trivial
theorem FieldsFit.impalaCopy (die : Nat) (entry : Nat) :
    FieldsFit.Statement (.impalaCopy die entry) := trivial
theorem FieldsFit.impalaWait (die : Nat) (entry : Nat) :
    FieldsFit.Statement (.impalaWait die entry) := trivial
theorem FieldsFit.impalaLoop (die : Nat) (entry : Nat) :
    FieldsFit.Statement (.impalaLoop die entry) := trivial
theorem FieldsFit.impalaEnd (die : Nat) (entry : Nat) :
    FieldsFit.Statement (.impalaEnd die entry) := trivial
theorem FieldsFit.chunkArrival (die : Nat) (entry : Nat) (run : Nat) (rank : Nat) (chunk : Nat) (msg : ChunkMsg) :
    FieldsFit.Statement (.chunkArrival die entry run rank chunk msg) := trivial
theorem FieldsFit.launchPacketAppend (queue : Nat) :
    FieldsFit.Statement (.launchPacketAppend queue) := trivial
theorem FieldsFit.startMessage (task : Nat) (core : Nat) :
    FieldsFit.Statement (.startMessage task core) := trivial
theorem FieldsFit.coreCompletion (core : Nat) :
    FieldsFit.Statement (.coreCompletion core) := trivial
theorem FieldsFit.taskRetire (task : Nat) :
    FieldsFit.Statement (.taskRetire task) := trivial
theorem FieldsFit.preload (task : Nat) :
    FieldsFit.Statement (.preload task) := trivial
theorem FieldsFit.budgetExpiry (task : Nat) :
    FieldsFit.Statement (.budgetExpiry task) := trivial
theorem FieldsFit.taskResume (task : Nat) :
    FieldsFit.Statement (.taskResume task) := trivial
theorem FieldsFit.jobStart (die : Nat) (engine : Nat) :
    FieldsFit.Statement (.jobStart die engine) := trivial
theorem FieldsFit.jobRetire (die : Nat) (job : Nat) :
    FieldsFit.Statement (.jobRetire die job) := trivial
theorem FieldsFit.jobFailure (die : Nat) (job : Nat) (cause : Nat) (tval : Nat) :
    FieldsFit.Statement (.jobFailure die job cause tval) := trivial
theorem FieldsFit.commitEntryCommit (core : Nat) (idx : Nat) :
    FieldsFit.Statement (.commitEntryCommit core idx) := trivial
theorem FieldsFit.commitEntryDiscard (core : Nat) (idx : Nat) :
    FieldsFit.Statement (.commitEntryDiscard core idx) := trivial
theorem FieldsFit.preemption (sid : Nat) :
    FieldsFit.Statement (.preemption sid) := trivial
theorem FieldsFit.contextRestore (sid : Nat) (task : Nat) :
    FieldsFit.Statement (.contextRestore sid task) := trivial
theorem FieldsFit.interrupt (sid : Nat) :
    FieldsFit.Statement (.interrupt sid) := trivial
theorem FieldsFit.isend (value : Word) :
    FieldsFit.Statement (.isend value) := trivial
theorem FieldsFit.timerInterrupt (sid : Nat) :
    FieldsFit.Statement (.timerInterrupt sid) := trivial
theorem FieldsFit.gatherDataArrival (sid : Nat) :
    FieldsFit.Statement (.gatherDataArrival sid) := trivial
theorem FieldsFit.elementFault (sid : Nat) :
    FieldsFit.Statement (.elementFault sid) := trivial
theorem FieldsFit.bmembWrite (core : Nat) (hi : Bool) (value : Word) :
    FieldsFit.Statement (.bmembWrite core hi value) := trivial
theorem FieldsFit.completionObserved (die : Nat) (ch : Nat) :
    FieldsFit.Statement (.completionObserved die ch) := trivial
theorem FieldsFit.dbgchanWrite (value : Word) :
    FieldsFit.Statement (.dbgchanWrite value) := trivial
theorem FieldsFit.debugHaltRequest (sid : Nat) :
    FieldsFit.Statement (.debugHaltRequest sid) := trivial
theorem FieldsFit.debugResume (sid : Nat) :
    FieldsFit.Statement (.debugResume sid) := trivial
theorem FieldsFit.selfTestPass (word : Nat) (bit : Nat) :
    FieldsFit.Statement (.selfTestPass word bit) := trivial
theorem FieldsFit.unitFailure (word : Nat) (bit : Nat) :
    FieldsFit.Statement (.unitFailure word bit) := trivial
theorem FieldsFit.droopTrip (die : Nat) :
    FieldsFit.Statement (.droopTrip die) := trivial
theorem FieldsFit.droopRecovery (die : Nat) :
    FieldsFit.Statement (.droopRecovery die) := trivial
theorem FieldsFit.machineCheck (t : McTarget) :
    FieldsFit.Statement (.machineCheck t) := trivial
theorem FieldsFit.softError (unit : Nat) :
    FieldsFit.Statement (.softError unit) := trivial
theorem FieldsFit.registerWrite (off : Nat) (size : Nat) (value : Nat) :
    FieldsFit.Statement (.registerWrite off size value) := trivial
theorem FieldsFit.scatterElementComplete (sid : Nat) :
    FieldsFit.Statement (.scatterElementComplete sid) := trivial
theorem FieldsFit.fabricStart (slot : Nat) :
    FieldsFit.Statement (.fabricStart slot) := trivial
theorem FieldsFit.mark : FieldsFit.Statement .mark := by
  intro sq fst lst; have := flags_lt sq fst lst; have := ord_lt .relaxed; have := scope_lt .core
  simp only [lFields, lWidths, fitAll, and_true]; omega
theorem FieldsFit.reclaim : FieldsFit.Statement .reclaim := by
  intro sq fst lst; have := flags_lt sq fst lst
  simp only [mFields, mWidths, fitAll, and_true]; omega
theorem FieldsFit.yield : FieldsFit.Statement .yield := by
  intro sq fst lst; have := flags_lt sq fst lst
  simp only [bFields, bWidths, fitAll, and_true]; omega
theorem FieldsFit.halt : FieldsFit.Statement .halt := by
  intro sq fst lst; have := flags_lt sq fst lst
  simp only [bFields, bWidths, fitAll, and_true]; omega
theorem FieldsFit.bkpt : FieldsFit.Statement .bkpt := by
  intro sq fst lst; have := flags_lt sq fst lst
  simp only [bFields, bWidths, fitAll, and_true]; omega
theorem FieldsFit.eret : FieldsFit.Statement .eret := by
  intro sq fst lst; have := flags_lt sq fst lst
  simp only [bFields, bWidths, fitAll, and_true]; omega
theorem FieldsFit.mEnd : FieldsFit.Statement .mEnd := packFields_lt _ _
theorem FieldsFit.mNextg : FieldsFit.Statement .mNextg := packFields_lt _ _
theorem FieldsFit.mSync : FieldsFit.Statement .mSync := packFields_lt _ _
theorem FieldsFit.l2ModeSwitchDone : FieldsFit.Statement .l2ModeSwitchDone := trivial
theorem FieldsFit.biasFlipDone : FieldsFit.Statement .biasFlipDone := trivial
theorem FieldsFit.dispatch : FieldsFit.Statement .dispatch := trivial
theorem FieldsFit.powerOnReset : FieldsFit.Statement .powerOnReset := trivial
theorem FieldsFit.warmReset : FieldsFit.Statement .warmReset := trivial
theorem FieldsFit.bootGo : FieldsFit.Statement .bootGo := trivial
theorem FieldsFit.bootOk : FieldsFit.Statement .bootOk := trivial
theorem FieldsFit.bootFail : FieldsFit.Statement .bootFail := trivial
theorem FieldsFit.bootTimeout : FieldsFit.Statement .bootTimeout := trivial

end Sys2Proof.Laws
end

