-- ==== Sys2Proof/Certificates/Slice0/Obligations.lean ====
section
/-! DEFINITION. The statements for the provers. `Completes i s P` says that `exec i s` answers a next state of which `P`
holds; `Lands` that nothing but one more result in flight has changed, which is the frame of every operation that only
writes a register. A statement in parts is the conjunction of the parts above it. -/

section

open Sys2Proof Sys2Proof.Machine

/-! ### Scalar operations (R309) -/

/-- R334, R435, R410 with R59: the wrapped sum, difference and product of two integers, and the high half of a product, are
put in flight with the latencies of R43, and nothing else changes. -/
def Sys2Proof.Machine.ScalarArithmeticWraps : Prop :=
  ∀ (t : Ty) (sd sa rb : BitVec 6) (sb : SrcB) (s : State), t.isInt = true →
    Completes (.add t false sd sa sb) s (fun u => ∃ v, LandsS s u sd v 1 false ∧
      HoldsWrapped t v (s.me.regs.src t sa + s.me.regs.opnd t sb)) ∧
    Completes (.sub t false sd sa sb) s (fun u => ∃ v, LandsS s u sd v 1 false ∧
      HoldsWrapped t v (s.me.regs.src t sa - s.me.regs.opnd t sb)) ∧
    Completes (.mul t false sd sa sb) s (fun u => ∃ v, LandsS s u sd v 3 false ∧
      HoldsWrapped t v (s.me.regs.src t sa * s.me.regs.opnd t sb)) ∧
    Completes (.mulh t sd sa rb) s (fun u => ∃ v, LandsS s u sd v 3 false ∧
      HoldsWrapped t v ((s.me.regs.src t sa * s.me.regs.src t rb).fdiv (2 ^ t.width : Nat)))

/-- R334, R435, R410 with R59: with `.sat` the exact result is clamped to the range of the type. -/
def Sys2Proof.Machine.ScalarArithmeticSaturates : Prop :=
  ∀ (t : Ty) (sd sa : BitVec 6) (sb : SrcB) (s : State), t.isInt = true →
    Completes (.add t true sd sa sb) s (fun u => ∃ v, LandsS s u sd v 1 false ∧
      HoldsClamped t v (s.me.regs.src t sa + s.me.regs.opnd t sb)) ∧
    Completes (.sub t true sd sa sb) s (fun u => ∃ v, LandsS s u sd v 1 false ∧
      HoldsClamped t v (s.me.regs.src t sa - s.me.regs.opnd t sb)) ∧
    Completes (.mul t true sd sa sb) s (fun u => ∃ v, LandsS s u sd v 3 false ∧
      HoldsClamped t v (s.me.regs.src t sa * s.me.regs.opnd t sb))

/-- R359 and R405: the quotient is truncated toward zero and the remainder has the sign of the dividend; a zero divisor
gives all ones and the dividend, and the most negative number by −1 gives itself and 0. Interlocked, w/2 + 4 cycles. -/
def Sys2Proof.Machine.DivisionTruncates : Prop :=
  ∀ (t : Ty) (sd sa : BitVec 6) (sb : SrcB) (s : State), t.isInt = true →
    let a := s.me.regs.src t sa
    let b := s.me.regs.opnd t sb
    let ovf := t.signed = true ∧ a = -(2 ^ (t.width - 1) : Nat) ∧ b = -1
    Completes (.div t sd sa sb) s (fun u => ∃ v, LandsS s u sd v (t.width / 2 + 4) true ∧
      Holds t v (if b = 0 then (if t.signed then -1 else (2 ^ t.width : Nat) - 1)
        else if ovf then a else a.tdiv b)) ∧
    Completes (.mod t sd sa sb) s (fun u => ∃ v, LandsS s u sd v (t.width / 2 + 4) true ∧
      Holds t v (if b = 0 then a else if ovf then 0 else a.tmod b))

/-- R412, R463, R424: OR, XOR and the shifts, bit by bit; a shift by w or more gives zeros, or
copies of the top bit. -/
def Sys2Proof.Machine.ScalarBitsAndShifts : Prop :=
  ∀ (t : Ty) (sd sa : BitVec 6) (sb : SrcB) (s : State), t.isInt = true →
    let a := s.me.regs.rs sa
    let b := s.me.regs.srcB sb
    let n := b.toNat % 256
    Completes (.or t sd sa sb) s (fun u => ∃ v, LandsS s u sd v 1 false ∧
      HoldsBits t v (fun k => a.getLsbD k || b.getLsbD k)) ∧
    Completes (.xor t sd sa sb) s (fun u => ∃ v, LandsS s u sd v 1 false ∧
      HoldsBits t v (fun k => a.getLsbD k != b.getLsbD k)) ∧
    Completes (.shl t sd sa sb) s (fun u => ∃ v, LandsS s u sd v 1 false ∧
      HoldsBits t v (fun k => decide (n ≤ k) && a.getLsbD (k - n))) ∧
    Completes (.shr t sd sa sb) s (fun u => ∃ v, LandsS s u sd v 1 false ∧
      HoldsBits t v (fun k => decide (k + n < t.width) && a.getLsbD (k + n))) ∧
    Completes (.sra t sd sa sb) s (fun u => ∃ v, LandsS s u sd v 1 false ∧
      HoldsBits t v (fun k => a.getLsbD (min (k + n) (t.width - 1))))

/-- R343, R344, R407: bit fields out and in, and a halfword put in a register. -/
def Sys2Proof.Machine.BitFieldsAndCounts : Prop :=
  ∀ (t : Ty) (sd sa pos len : BitVec 6) (imm : BitVec 16) (q : BitVec 2) (s : State),
    t.isInt = true → pos.toNat + (len.toNat + 1) ≤ t.width →
    let a := s.me.regs.rs sa
    let d := s.me.regs.rs sd
    Completes (.bext t sd sa pos len) s (fun u => ∃ v, LandsS s u sd v 1 false ∧
      ∀ k, k < 64 → v.getLsbD k = if k ≤ len.toNat then a.getLsbD (pos.toNat + k)
        else (t.signed && a.getLsbD (pos.toNat + len.toNat))) ∧
    Completes (.bins t sd sa pos len) s (fun u => ∃ v, LandsS s u sd v 1 false ∧
      HoldsBits t v (fun k => if pos.toNat ≤ k ∧ k ≤ pos.toNat + len.toNat then a.getLsbD (k - pos.toNat)
        else d.getLsbD k)) ∧
    Completes (.movhi sd imm q) s (fun u => ∃ v, LandsS s u sd v 1 false ∧
      ∀ k, k < 64 → v.getLsbD k = if k / 16 = q.toNat then imm.getLsbD (k % 16) else d.getLsbD k)

/-- R343, R344, R407, R412, R424, R463: bits, shifts and fields. -/
def Obligations.ScalarBits : Prop := ScalarBitsAndShifts ∧ BitFieldsAndCounts

/-- R354, R370, R378, R403, R406, R423: compares and guard operations write a guard; the larger and the smaller of two
integers, a choice by a guard, an address sum and a move write a register of any class. -/
def Obligations.CompareSelectMove : Prop :=
  ∀ (t : Ty) (sd sa rb : BitVec 6) (sb : SrcB) (cc : Cc) (gd ga gb : BitVec 4) (ia ib inv : Bool) (f : GopFn)
    (d base : SaReg) (idx : LeaIdx) (md : MovDst) (src : MovSrc) (s : State), t.isInt = true → cc.intOk = true →
    let r := s.me.regs
    let a := r.src t sa
    let b := r.opnd t sb
    Completes (.cmp t cc gd sa sb) s (fun u => ∃ v, LandsG s u gd v 1 false ∧
      (v = true ↔ match cc with
        | .eq => a = b | .ne => a ≠ b | .lt => a < b | .le => a ≤ b | .gt => b < a | .ge => b ≤ a
        | .un => False | .ord => False)) ∧
    Completes (.gop f gd ga ia gb ib) s (fun u => LandsG s u gd (match f with
      | .and => (r.rg ga != ia) && (r.rg gb != ib)
      | .or => (r.rg ga != ia) || (r.rg gb != ib)
      | .xor => (r.rg ga != ia) != (r.rg gb != ib)
      | .mov => r.rg ga != ia) 1 false) ∧
    Completes (.max t sd sa sb) s (fun u => ∃ v, LandsS s u sd v 1 false ∧ Holds t v (max a b)) ∧
    Completes (.min t sd sa sb) s (fun u => ∃ v, LandsS s u sd v 1 false ∧ Holds t v (min a b)) ∧
    Completes (.sel t sd ga inv sa rb) s (fun u => ∃ v, LandsS s u sd v 1 false ∧
      Holds t v (if r.rg ga = inv then r.src t rb else a)) ∧
    Completes (.lea d base idx) s (fun u =>
      Lands s u (saName d) ((r.sa base + r.leaIdx idx).setWidth 2048) (BitVec.allOnes 2048) 1 false 0) ∧
    Completes (.mov md src) s (fun u =>
      Lands s u (movName md) ((r.movSrc src).setWidth 2048) (BitVec.allOnes 2048) 1 false 0)

/-- The strand's generator stepped once where the mode is stochastic (R72). -/
def Sys2Proof.Machine.afterDraw (s : State) (m : Mode) : State :=
  if m = .rs then s.updMe (fun st => { st with rng := rngStep st.rng }) else s

/-- The bits that one draw gives a rounding: bits 31:8 after the step (R69, R71). -/
def Sys2Proof.Machine.drawBits (s : State) (m : Mode) : Nat := if m = .rs then (rngStep s.me.rng).toNat / 2 ^ 8 else 0

/-- R358, R363 to R366, R403, R72: a scalar floating operation puts the rounded result and its flags in flight for 4 cycles;
under the stochastic mode the generator of the strand steps once, and nothing else changes. -/
def Obligations.ScalarFloatsRound : Prop :=
  ∀ (t tt frm : Ty) (rnd : Rnd) (sd sa sb sc : BitVec 6) (gd : BitVec 4) (cc : Cc) (s : State),
    t.isF = true → tt.isInt = false → frm.isInt = false →
    let r := s.me.regs
    let m := effMode rnd s.me.fpctl
    let fz := s.me.fpctl.getLsbD 3
    let x := r.pat t sa
    let y := r.pat t sb
    let put (u : State) (v : Nat × Nat) : Prop :=
      Lands (afterDraw s m) u (.s sd) (BitVec.ofNat 2048 v.1) (BitVec.allOnes 2048) 4 false v.2
    Completes (.fadd t rnd sd sa sb) s (fun u => put u (fAdd t m fz (drawBits s m) x y)) ∧
    Completes (.fmul t rnd sd sa sb) s (fun u => put u (fMul t m fz (drawBits s m) x y)) ∧
    Completes (.ffma t rnd sd sa sb sc) s (fun u => put u (fFma t m fz (drawBits s m) x y (r.pat t sc))) ∧
    Completes (.fcvt tt frm rnd sd sa) s (fun u => put u (convert tt frm false m fz (drawBits s m) (r.pat frm sa))) ∧
    (∀ it : Ty, it.isInt = true → Completes (.cvti tt it false rnd sd sa) s (fun u =>
      put u (convert tt it false m fz (drawBits s m) (r.pat it sa))) ∧
      Completes (.cvti it frm false rnd sd sa) s (fun u => ∃ v, v = convert it frm false m fz (drawBits s m) (r.pat frm sa) ∧
        put u ((extendTy it v.1).toNat, v.2))) ∧
    Completes (.fcmp t cc gd sa sb) s (fun u =>
      LandsG s u gd (fCmp cc (flush fz (readFloat t x)) (flush fz (readFloat t y))) 4 false) ∧
    Completes (.max t sd sa (.reg sb)) s (fun u =>
      LandsS s u sd (BitVec.ofNat 64 (fMaxMin t true fz x y)) 4 false) ∧
    Completes (.min t sd sa (.reg sb)) s (fun u =>
      LandsS s u sd (BitVec.ofNat 64 (fMaxMin t false fz x y)) 4 false)

/-- R358 between two integer types: Wrap, or Sat with `.sat`, of the source's value; no flag and no draw. -/
def Sys2Proof.Machine.IntegerConversions : Prop :=
  ∀ (tt frm : Ty) (rnd : Rnd) (sd sa : BitVec 6) (s : State), tt.isInt = true → frm.isInt = true →
    Completes (.cvti tt frm false rnd sd sa) s (fun u => ∃ v, LandsS s u sd v 4 false ∧
      HoldsWrapped tt v (s.me.regs.src frm sa)) ∧
    Completes (.cvti tt frm true rnd sd sa) s (fun u => ∃ v, LandsS s u sd v 4 false ∧
      HoldsClamped tt v (s.me.regs.src frm sa))

/-- R334, R435, R410, R359, R405, R358: integer arithmetic: Wrap, Sat, division, and conversion between integer types. -/
def Obligations.ScalarArithmetic : Prop := ScalarArithmeticWraps ∧ ScalarArithmeticSaturates ∧ DivisionTruncates ∧ IntegerConversions

/-! ### Vector operations (R311, R440 to R458) -/

/-- A vector result of lanes of width w, each lane given by its number, with the mask of the enabled lanes. -/
def Sys2Proof.Machine.LandsV (s u : State) (t : Ty) (vd : BitVec 6) (mk : MaskSel) (lat : Nat) (f : Nat → Nat) : Prop :=
  ∃ val mask, Lands s u (.v vd) val mask lat false 0 ∧
    (∀ i, i < laneCount t.width → laneAt t.width val i = f i % 2 ^ t.width) ∧
    (∀ i, i < 2048 → mask.getLsbD i = (!mk.men || (s.me.regs.rvm mk.vm).getLsbD (i / t.width * t.width / 8)))

/-- R444, R441, R424, R456: the integer and the moving vector operations, lane by lane and written where the mask enables,
once no operand lies in a lent bank. -/
def Sys2Proof.Machine.VectorLanes : Prop :=
  ∀ (t : Ty) (rnd : Rnd) (vd va : BitVec 6) (vb : VSrc) (mk : MaskSel) (s : State), t.isInt = true →
    s.Free (lentUse ([vd, va] ++ srcRegs vb)) →
    let x := laneAt t.width (s.me.rv va)
    let y := s.me.vsrc t.width vb
    Completes (.vadd t false rnd vd va vb mk) s (fun u => LandsV s u t vd mk 2 (fun i => x i + y i)) ∧
    Completes (.vsub t false rnd vd va vb mk) s (fun u => LandsV s u t vd mk 2 (fun i => x i + (2 ^ t.width - y i % 2 ^ t.width))) ∧
    Completes (.vmul t false rnd vd va vb mk) s (fun u => LandsV s u t vd mk 2 (fun i => x i * y i)) ∧
    Completes (.vand t vd va vb mk) s (fun u => LandsV s u t vd mk 2 (fun i => x i &&& y i)) ∧
    Completes (.vor t vd va vb mk) s (fun u => LandsV s u t vd mk 2 (fun i => x i ||| y i)) ∧
    Completes (.vxor t vd va vb mk) s (fun u => LandsV s u t vd mk 2 (fun i => x i ^^^ y i)) ∧
    Completes (.vshl t vd va vb mk) s (fun u => LandsV s u t vd mk 2 (fun i => x i * 2 ^ (y i % 256))) ∧
    Completes (.vshr t vd va vb mk) s (fun u => LandsV s u t vd mk 2 (fun i => x i / 2 ^ (y i % 256))) ∧
    Completes (.vsra t vd va vb mk) s (fun u => LandsV s u t vd mk 2 (fun i => sraPat t.width (x i) (y i % 256))) ∧
    Completes (.vmax t vd va vb mk) s (fun u => LandsV s u t vd mk 2 (fun i =>
      if intOf t (x i) < intOf t (y i) then y i else x i)) ∧
    Completes (.vmin t vd va vb mk) s (fun u => LandsV s u t vd mk 2 (fun i =>
      if intOf t (y i) < intOf t (x i) then y i else x i)) ∧
    Completes (.vperm t vd va vb mk) s (fun u => LandsV s u t vd mk 6 (fun i => x (y i % laneCount t.width)))

/-- R444 for one operand: absolute value, negation, copy and broadcast of integer lanes; and the choice by a mask, which
writes every lane. -/
def Sys2Proof.Machine.VectorMoves : Prop :=
  ∀ (t : Ty) (vd va sa : BitVec 6) (vb : VSrc) (vm : BitVec 3) (mk : MaskSel) (s : State), t.isInt = true →
    s.Free (lentUse ([vd, va] ++ srcRegs vb)) →
    let x := laneAt t.width (s.me.rv va)
    Completes (.vabs t vd va mk) s (fun u => LandsV s u t vd mk 2 (fun i => (intOf t (x i)).natAbs)) ∧
    Completes (.vneg t vd va mk) s (fun u => LandsV s u t vd mk 2 (fun i => 2 ^ t.width - x i)) ∧
    Completes (.vmov t vd va mk) s (fun u => LandsV s u t vd mk 2 x) ∧
    Completes (.vbcast t vd sa mk) s (fun u => LandsV s u t vd mk 2 (fun _ => (s.me.regs.rs sa).toNat)) ∧
    Completes (.vsel t vd va vb vm) s (fun u => LandsV s u t vd ⟨false, 0⟩ 2 (fun i =>
      if (s.me.regs.rvm vm).getLsbD (i * t.width / 8) then x i else s.me.vsrc t.width vb i))

/-- R444 with R59: with `.sat` a lane of an integer sum, difference or product is clamped to the range of the type. -/
def Sys2Proof.Machine.VectorSaturates : Prop :=
  ∀ (t : Ty) (rnd : Rnd) (vd va : BitVec 6) (vb : VSrc) (mk : MaskSel) (s : State), t.isInt = true →
    s.Free (lentUse ([vd, va] ++ srcRegs vb)) →
    let x (i : Nat) : Int := intOf t (laneAt t.width (s.me.rv va) i)
    let y (i : Nat) : Int := intOf t (s.me.vsrc t.width vb i)
    let lo : Int := if t.signed then -(2 ^ (t.width - 1) : Nat) else 0
    let hi : Int := if t.signed then (2 ^ (t.width - 1) : Nat) - 1 else (2 ^ t.width : Nat) - 1
    let clamp (v : Int) : Nat := (max lo (min hi v) % (2 ^ t.width : Nat)).toNat
    Completes (.vadd t true rnd vd va vb mk) s (fun u => LandsV s u t vd mk 2 (fun i => clamp (x i + y i))) ∧
    Completes (.vsub t true rnd vd va vb mk) s (fun u => LandsV s u t vd mk 2 (fun i => clamp (x i - y i))) ∧
    Completes (.vmul t true rnd vd va vb mk) s (fun u => LandsV s u t vd mk 2 (fun i => clamp (x i * y i)))

/-- R441, R444, R424, R456: integer vector operations, with and without `.sat`, and the moves of lanes. -/
def Obligations.VectorIntegers : Prop := VectorLanes ∧ VectorMoves ∧ VectorSaturates

/-- The draws of a vector operation and the state after them: one draw for each enabled lane in order (R72). -/
def Sys2Proof.Machine.vecDraws (s : State) (m : Mode) (on : List Bool) : List Nat × State := s.draws m on

/-- R442, R444, R448: a floating vector operation gives each enabled lane its rounded result, from the draw of
that lane, and the flags of every enabled lane. -/
def Sys2Proof.Machine.VectorFloatsByLane : Prop :=
  ∀ (t : Ty) (rnd : Rnd) (vd va vc : BitVec 6) (vb : VSrc) (mk : MaskSel) (s : State), t.isF = true →
    s.Free (lentUse ([vd, va, vc] ++ srcRegs vb)) →
    let x := laneAt t.width (s.me.rv va)
    let y := s.me.vsrc t.width vb
    let z := laneAt t.width (s.me.rv vc)
    let m := effMode rnd s.me.fpctl
    let fz := s.me.fpctl.getLsbD 3
    let n := laneCount t.width
    let on := s.me.regs.lanesOn mk t.width n
    let d := vecDraws s m on
    let put (u : State) (lat : Nat) (f : Nat → Nat → Nat × Nat) : Prop :=
      ∃ val flags, Lands d.2 u (.v vd) val (maskBits t.width on) lat false flags ∧
        (∀ i, i < n → on.getD i false = true → laneAt t.width val i = (f (d.1.getD i 0) i).1 % 2 ^ t.width) ∧
        (∀ k, flags.testBit k = (List.range n).any (fun i => on.getD i false && (f (d.1.getD i 0) i).2.testBit k))
    Completes (.vadd t false rnd vd va vb mk) s (fun u => put u 4 (fun r i => fAdd t m fz r (x i) (y i))) ∧
    Completes (.vsub t false rnd vd va vb mk) s (fun u => put u 4 (fun r i => fSub t m fz r (x i) (y i))) ∧
    Completes (.vmul t false rnd vd va vb mk) s (fun u => put u 4 (fun r i => fMul t m fz r (x i) (y i))) ∧
    Completes (.vfma t rnd vd va vb vc mk) s (fun u => put u 4 (fun r i => fFma t m fz r (x i) (y i) (z i))) ∧
    Completes (.vexp2 t rnd vd va mk) s (fun u => put u 8 (fun r i => fExp2 t m fz r (x i))) ∧
    Completes (.vlog2 t rnd vd va mk) s (fun u => put u 8 (fun r i => fLog2 t m fz r (x i))) ∧
    Completes (.vrcp t rnd vd va mk) s (fun u => put u 8 (fun r i => fRcp t m fz r (x i))) ∧
    Completes (.vrsq t rnd vd va mk) s (fun u => put u 8 (fun r i => fRsq t m fz r (x i)))

/-- R403, R444, R445 with R67: the floating vector operations that round nothing: the larger and the smaller lane in 4 cycles, the
absolute value and the negation by the sign bit, a NaN made canonical, and the compare, in 2; they draw nothing and raise no flag. -/
def Sys2Proof.Machine.VectorFloatsExact : Prop :=
  ∀ (t : Ty) (cc : Cc) (vd va : BitVec 6) (vmd : BitVec 3) (vb : VSrc) (mk : MaskSel) (s : State), t.isF = true →
    s.Free (lentUse ([vd, va] ++ srcRegs vb)) →
    let x := laneAt t.width (s.me.rv va)
    let y := s.me.vsrc t.width vb
    let fz := s.me.fpctl.getLsbD 3
    let signed (i f : Nat) : Nat := if (readFloat t (x i)).isNaN then canonNaN t else f
    Completes (.vmax t vd va vb mk) s (fun u => LandsV s u t vd mk 4 (fun i => fMaxMin t true fz (x i) (y i))) ∧
    Completes (.vmin t vd va vb mk) s (fun u => LandsV s u t vd mk 4 (fun i => fMaxMin t false fz (x i) (y i))) ∧
    Completes (.vabs t vd va mk) s (fun u => LandsV s u t vd mk 2 (fun i => signed i (x i % 2 ^ (t.width - 1)))) ∧
    Completes (.vneg t vd va mk) s (fun u => LandsV s u t vd mk 2 (fun i => signed i (x i ^^^ 2 ^ (t.width - 1)))) ∧
    Completes (.vcmp t cc vmd va vb mk) s (fun u => ∃ val mask, Lands s u (.vm vmd) val mask 2 false 0 ∧
      (∀ j, j < 256 → val.getLsbD j =
        fCmp cc (flush fz (readFloat t (x (j / t.bytes)))) (flush fz (readFloat t (y (j / t.bytes))))) ∧
      (∀ j, j < 256 → mask.getLsbD j = s.me.regs.laneOn mk t.width (j / t.bytes)))

/-- R447 where a type is floating: a conversion works on the lanes of the wider type, each enabled one with its own draw, and
gives the flags of all of them. -/
def Sys2Proof.Machine.VectorConversions : Prop :=
  ∀ (tt frm : Ty) (rnd : Rnd) (vd va : BitVec 6) (mk : MaskSel) (s : State), (tt.isInt && frm.isInt) = false →
    s.Free (lentUse [vd, va]) →
    let m := effMode rnd s.me.fpctl
    let fz := s.me.fpctl.getLsbD 3
    let n := 2048 / max tt.width frm.width
    let on := s.me.regs.lanesOn mk tt.width n
    let d := vecDraws s m on
    let c (i : Nat) : Nat × Nat := convert tt frm false m fz (d.1.getD i 0) (laneAt frm.width (s.me.rv va) i)
    Completes (.vcvt tt frm rnd vd va mk) s (fun u => ∃ val flags, Lands d.2 u (.v vd) val (maskBits tt.width on) 4 false flags ∧
      (∀ i, i < n → on.getD i false = true → laneAt tt.width val i = (c i).1 % 2 ^ tt.width) ∧
      (∀ k, flags.testBit k = (List.range n).any (fun i => on.getD i false && (c i).2.testBit k)))

/-- R457, R458 with R77 and R79 for a floating type: the sum of the enabled lanes, each converted to `.f32`, in the fixed tree, the
lanes not enabled as −0, and one rounding at its root; the largest and the smallest enabled lane, canonical NaN where one of them is NaN;
and the running sums from the lowest enabled lane on, each rounded with its lane's draw. Interlocked or not as R43 has it, 6 cycles. -/
def Sys2Proof.Machine.VectorFloatReductions : Prop :=
  ∀ (t : Ty) (rnd : Rnd) (sd vd va : BitVec 6) (mk : MaskSel) (s : State), t.isF = true → s.Free (lentUse [vd, va]) →
    let x := laneAt t.width (s.me.rv va)
    let m := effMode rnd s.me.fpctl
    let fz := s.me.fpctl.getLsbD 3
    let n := laneCount t.width
    let on := s.me.regs.laneOn mk t.width
    let lanes := (List.range n).filter on
    let d := vecDraws s m (s.me.regs.lanesOn mk t.width n)
    let leaf (i : Nat) : Nat := (roundTo .f32 .rne false 0 (flush fz (readFloat t (x i)))).1
    let plus (a b : Nat) : Nat × Nat := finishFloat .f32 .rne fz 0 (addNum .rne (readFloat .f32 a) (readFloat .f32 b))
    let best (mx : Bool) : Nat := if lanes.any (fun i => (readFloat t (x i)).isNaN) then canonNaN t else
      (roundTo t .rne false 0 (lanes.foldl (fun a i => (if mx then maxNum else minNum) a (flush fz (readFloat t (x i)))) (.inf mx))).1
    let run (k : Nat) : Nat := ((List.range k).filter on).foldl (fun a i => (plus a (leaf i)).1) (2 ^ 31)
    let step (i : Nat) : Nat × Nat := plus (run i) (leaf i)
    let out (i : Nat) : Nat × Nat := roundTo t m fz (d.1.getD i 0) (readFloat .f32 (step i).1)
    Completes (.vred t .sum rnd sd va mk) s (fun u =>
      let root := pairTreeWith plus (Nat.log2 n + 1) ((List.range n).map (fun i => if on i then leaf i else 2 ^ 31))
      let r := roundTo t m fz (drawBits s m) (readFloat .f32 root.1)
      Lands (afterDraw s m) u (.s sd) (BitVec.ofNat 2048 r.1) (BitVec.allOnes 2048) 6 false (root.2 ||| r.2)) ∧
    Completes (.vred t .max rnd sd va mk) s (fun u => LandsS s u sd (BitVec.ofNat 64 (best true)) 6 false) ∧
    Completes (.vred t .min rnd sd va mk) s (fun u => LandsS s u sd (BitVec.ofNat 64 (best false)) 6 false) ∧
    Completes (.vscan t rnd vd va mk) s (fun u => ∃ val flags,
      Lands d.2 u (.v vd) val (maskBits t.width (s.me.regs.lanesOn mk t.width n)) 6 false flags ∧
      (∀ i, i < n → on i = true → laneAt t.width val i = (out i).1 % 2 ^ t.width) ∧
      (∀ k, flags.testBit k = (List.range n).any (fun i => on i && ((step i).2.testBit k || (out i).2.testBit k))))

/-- R403, R442, R444, R445, R447, R448, R457, R458: the floating vector operations. -/
def Obligations.VectorFloatsRound : Prop :=
  VectorFloatsByLane ∧ VectorFloatsExact ∧ VectorConversions ∧ VectorFloatReductions

/-- R445, R446, R447, R449, R450, R453, R457, R458: compares into mask registers, the count of a mask register, integer
conversions, one lane out and in, mask operations, and integer sums, maxima and minima over the enabled lanes. -/
def Obligations.VectorMasksAndReductions : Prop :=
  ∀ (t : Ty) (cc : Cc) (rnd : Rnd) (f : MaskFn) (sd vd va sa sb : BitVec 6) (vmd vma vmb : BitVec 3) (vb : VSrc)
    (mk : MaskSel) (s : State), t.isInt = true → s.Free (lentUse ([vd, va] ++ srcRegs vb)) →
    let r := s.me.regs
    let n := laneCount t.width
    let x := laneAt t.width (s.me.rv va)
    let k := (r.rs sb).toNat % n
    Completes (.vcmp t cc vmd va vb mk) s (fun u => ∃ val mask, Lands s u (.vm vmd) val mask 2 false 0 ∧
      (∀ j, j < 256 → val.getLsbD j =
        iCmp cc (intOf t (x (j / t.bytes))) (intOf t (s.me.vsrc t.width vb (j / t.bytes)))) ∧
      (∀ j, j < 256 → mask.getLsbD j = r.laneOn mk t.width (j / t.bytes))) ∧
    Completes (.vcount sd vma) s (fun u => ∃ v, LandsS s u sd v 2 false ∧
      v.toNat = ((List.range 256).filter (fun j => (r.rvm vma).getLsbD j)).length) ∧
    Completes (.vextr t sd va sb) s (fun u => ∃ v, LandsS s u sd v 2 false ∧ Holds t v (intOf t (x k))) ∧
    Completes (.vins t vd sa sb) s (fun u => ∃ val mask, Lands s u (.v vd) val mask 2 false 0 ∧
      (∀ j, j < 2048 → mask.getLsbD j = decide (j / t.width = k)) ∧
      laneAt t.width val k = (r.rs sa).toNat % 2 ^ t.width) ∧
    Completes (.vmask f vmd vma vmb) s (fun u => ∃ val, Lands s u (.vm vmd) val (BitVec.allOnes 2048) 2 false 0 ∧
      ∀ j, j < 256 → val.getLsbD j = match f with
        | .and => (r.rvm vma).getLsbD j && (r.rvm vmb).getLsbD j
        | .or => (r.rvm vma).getLsbD j || (r.rvm vmb).getLsbD j
        | .xor => (r.rvm vma).getLsbD j != (r.rvm vmb).getLsbD j
        | .andn => (r.rvm vma).getLsbD j && !(r.rvm vmb).getLsbD j
        | .not => !(r.rvm vma).getLsbD j
        | .ones => true
        | .zero => false) ∧
    Completes (.vred t .sum rnd sd va mk) s (fun u => ∃ v, LandsS s u sd v 6 false ∧
      HoldsWrapped t v (((List.range n).filter (r.laneOn mk t.width)).map (fun i => intOf t (x i))).sum) ∧
    Completes (.vred t .max rnd sd va mk) s (fun u => ∃ v, LandsS s u sd v 6 false ∧
      Holds t v ((((List.range n).filter (r.laneOn mk t.width)).map (fun i => intOf t (x i))).foldl max
        (if t.signed then -(2 ^ (t.width - 1) : Nat) else 0))) ∧
    Completes (.vred t .min rnd sd va mk) s (fun u => ∃ v, LandsS s u sd v 6 false ∧
      Holds t v ((((List.range n).filter (r.laneOn mk t.width)).map (fun i => intOf t (x i))).foldl min
        (if t.signed then (2 ^ (t.width - 1) : Nat) - 1 else (2 ^ t.width : Nat) - 1))) ∧
    Completes (.vscan t rnd vd va mk) s (fun u => ∃ val, Lands s u (.v vd) val
        (maskBits t.width (r.lanesOn mk t.width n)) 6 false 0 ∧
      ∀ i, i < n → laneAt t.width val i =
        ((((List.range (i + 1)).filter (r.laneOn mk t.width)).map (fun j => intOf t (x j))).sum % 2 ^ t.width).toNat) ∧
    (∀ frm : Ty, frm.isInt = true → frm.width ≤ t.width →
      Completes (.vcvt t frm rnd vd va mk) s (fun u => ∃ val, Lands s u (.v vd) val
          (maskBits t.width (r.lanesOn mk t.width n)) 4 false 0 ∧
        ∀ i, i < n → r.laneOn mk t.width i = true → laneAt t.width val i =
          (intOf frm (laneAt frm.width (s.me.rv va) i) % 2 ^ t.width).toNat))

/-- R443, R159: a vector operation with an operand in the bank that the strand has lent takes cause 0x21 with the bank as
TVAL at its own bundle, and writes no register. -/
def Sys2Proof.Machine.LentBankTraps : Prop :=
  ∀ (t frm : Ty) (sat : Bool) (rnd : Rnd) (cc : Cc) (f : RedFn) (o : OrdSc) (ea : Addr) (sd vd va vc : BitVec 6) (vmd : BitVec 3)
    (vb : VSrc) (mk : MaskSel) (b : Nat) (s : State), s.Alone → isThread s.cur = false →
    s.me.inh = false → s.myCore.lent = some (strandIn s.cur, b) →
    let two (i : Instr) : Prop := i = .vmov t vd va mk ∨ i = .vabs t vd va mk ∨ i = .vneg t vd va mk ∨ i = .vadd t sat rnd vd va vb mk ∨
      i = .vsub t sat rnd vd va vb mk ∨ i = .vmul t sat rnd vd va vb mk ∨ i = .vfma t rnd vd va vb vc mk ∨ i = .vand t vd va vb mk ∨
      i = .vor t vd va vb mk ∨ i = .vxor t vd va vb mk ∨ i = .vshl t vd va vb mk ∨ i = .vshr t vd va vb mk ∨
      i = .vsra t vd va vb mk ∨ i = .vmax t vd va vb mk ∨ i = .vmin t vd va vb mk ∨ i = .vperm t vd va vb mk ∨
      i = .vsel t vd va vb vmd ∨ i = .vexp2 t rnd vd va mk ∨ i = .vlog2 t rnd vd va mk ∨ i = .vrcp t rnd vd va mk ∨
      i = .vrsq t rnd vd va mk ∨ i = .vcvt t frm rnd vd va mk ∨ i = .vscan t rnd vd va mk
    let src (i : Instr) : Prop := i = .vred t f rnd sd va mk ∨ i = .vcmp t cc vmd va vb mk ∨ i = .vextr t sd va sd
    let dst (i : Instr) : Prop := i = .vbcast t vd sd mk ∨ i = .vins t vd sd sd ∨ i = .vld o vd ea mk ∨ i = .vst o ea vd mk
    ∀ i, ((bankOf vd = b ∨ bankOf va = b) ∧ two i) ∨ (bankOf va = b ∧ src i) ∨ (bankOf vd = b ∧ dst i) →
    ∃ u, exec i s = .next u ∧ u.me.cause.toNat % 256 = 0x21 ∧ u.me.tval.toNat = b % 2 ^ 64 ∧
      u.me.epc = s.issue.off ∧ u.me.regs = s.me.regs ∧ u.me.v = s.me.v ∧ u.me.flight = s.me.flight

/-! ### Loads, stores and order (R312 to R314) -/

/-- The conditions under which a load of n bytes executes (R377, R102, R132): it is aligned, a pop finds its FIFO filled and no
load before it, and a remote one has the answer of its home. -/
def Sys2Proof.Machine.LoadGoes (s : State) (n va pa : Nat) (d : Dest) : Prop :=
  s.Acts ∧ va % n = 0 ∧ match d with
    | .pop clu b => s.loadHeld pa = false ∧ (s.bank clu b).fifo ≠ []
    | .remote => s.loadHeld pa = false ∧ s.Answered (.load [(0, pa, va, Nat.log2 n)])
    | _ => True

/-- The conditions under which WAITADDR's wait is over (R137, R460): it is aligned, its word is in local memory or a register of
the device, and the word differs from the operand. -/
def Sys2Proof.Machine.WaitIsOver (s : State) (t : Ty) (va pa : Nat) (sb : BitVec 6) (d : Dest) : Prop :=
  let want := (s.me.regs.rs sb).toNat % 2 ^ t.width
  s.Acts ∧ va % t.bytes = 0 ∧ match d with
    | .mem a => regionOf a ≠ .host ∧ s.loadHeld pa = false ∧ s.readOwn s.cur pa t.bytes ≠ want
    | .mmio off => s.mmioRead off t.bytes ≠ want
    | _ => False

/-- What a load of n bytes reads (R377, R102, R132, R117): the answer of a remote home, the head of a FIFO, a register of the
device, or memory under the strand's own stores. -/
def Sys2Proof.Machine.loadValue (s : State) (pa va n : Nat) : Dest → Nat
  | .remote => s.answered (.load [(0, pa, va, Nat.log2 n)]) 0 n
  | .pop clu b => ((s.bank clu b).fifo.headD 0).toNat
  | .mmio off => s.mmioRead off n
  | _ => s.readOwn s.cur pa n

/-- Does a load have what it reads in its issue cycle: the answer of a home, the head of a FIFO, or data at hand (log 36)? -/
def Sys2Proof.Machine.loadsAtOnce (s : State) (pa page : Nat) (f : Option Fill) : Dest → Bool
  | .remote | .pop _ _ => true
  | _ => s.performsNow (s.wouldHit pa f) pa page

/-- R377, R117, R125, R137, R460: an aligned load puts what it reads in flight for its register, as its type says, or joins the
strand's load queue with the result awaited; the load at the head of the queue, when it performs, gives that result what memory
holds then under the strand's earlier stores. WAITADDR, once the word differs from its operand, puts the word in flight. No other
register changes, and memory is as the translation left it. When a load performs is the model's choice (log 36). -/
def Obligations.LoadReadsMemory : Prop :=
  ∀ (t : Ty) (o : OrdSc) (sd sb : BitVec 6) (ea : Addr) (s : State) (pa ty : Nat) (d : Dest) (x : Xlat),
    let va := s.me.regs.addr ea
    let c := s.spaceOf s.cur
    let s' := s.commitXlat c .read x
    let f := s.fillOf c va pa false x
    let same (u : State) : Prop := u.me.regs = s.me.regs ∧ u.me.v = s.me.v ∧ u.me.pc = s.me.pc ∧
      u.me.status = s.me.status ∧ u.me.gated = s.me.gated ∧ u.me.storeQ = s.me.storeQ ∧ u.mem = s'.mem
    (s.access c .read t.bytes va = .ok (pa, ty, d, x) →
      (LoadGoes s t.bytes va pa d → loadsAtOnce s' pa ty f d = true → Completes (.ld t o sd ea) s (fun u =>
        let w := match d with | .pop _ _ => s'.flushLoads s.cur | _ => s
        same u ∧ LockedResult w u (.s sd) ((extendTy t (loadValue s' pa va t.bytes d)).setWidth 2048))) ∧
      (LoadGoes s t.bytes va pa d → loadsAtOnce s' pa ty f d = false → Completes (.ld t o sd ea) s (fun u =>
        same u ∧ ∃ l k, u.me.flight = s.me.flight ++ [awaited s (.s sd) (BitVec.allOnes 2048) k] ∧
          u.me.loadQ = s.me.loadQ ++ [l] ∧ l.dst = .reg k none ∧ l.ty = t ∧ l.pa = pa ∧ l.size = t.bytes ∧
          l.seq = s.issue.seq ∧ l.upTo = s.issue.seq - 1 ∧ l.after = s.me.fenceSeq ∧ l.acq = o.ord.hasAcq)) ∧
      (WaitIsOver s t va pa sb d → Completes (.waitaddr t o sd ea sb) s (fun u =>
        same u ∧ u.me.loadQ = [] ∧
          LockedResult (s'.flushLoads s.cur) u (.s sd) ((extendTy t (loadValue s' pa va t.bytes d)).setWidth 2048)))) ∧
    (∀ sid l rest k, (s.strand sid).loadQ = l :: rest → l.dst = .reg k none → k ≠ 0 →
      (∀ off, regionOf (l.pa % 2 ^ 52) ≠ .mmio off) →
      let u := s.performHead sid
      (u.strand sid).loadQ = rest ∧ u.mem = s.mem ∧ (u.strand sid).regs = (s.strand sid).regs ∧
      ∀ r ∈ (s.strand sid).flight, r.tag = k → r.dst = .s sd → ∃ z ∈ (u.strand sid).flight, z.dst = .s sd ∧
        z.due = some (max l.ready (s.cycleOf sid)) ∧
        z.val = (extendTy l.ty (((s.strand sid).storesBefore l.upTo).overlayVal l.pa
          (s.readMem (l.pa % 2 ^ 52) l.size) l.size)).setWidth 2048)

/-- R433, R125, R55, R113: an aligned store whose address may be written is put at the end of the strand's gated stores with the
low bytes of its register and its release; no register and no byte of memory changes at once, but for what the translation
writes. -/
def Obligations.StoreIsGated : Prop :=
  ∀ (t : Ty) (o : OrdSc) (sb : BitVec 6) (ea : Addr) (s : State) (pa ty : Nat) (d : Dest) (x : Xlat),
    let va := s.me.regs.addr ea
    let c := s.spaceOf s.cur
    s.access c .write t.bytes va = .ok (pa, ty, d, x) →
    s.Acts → va % t.bytes = 0 →
    Completes (.st t o ea sb) s (fun u =>
      (∃ p, u.me.gated = s.me.gated ++ [p] ∧ p.kind = (match d with | .push _ _ => .push | _ => .write) ∧ p.pa = pa ∧
        p.va = va ∧ p.size = t.bytes ∧ p.data = (s.me.regs.rs sb).toNat % 2 ^ t.width ∧ p.bmask = 2 ^ t.bytes - 1 ∧
        p.seq = s.issue.seq ∧ p.rel = (if o.ord.hasRel then some o.scope else none)) ∧
      u.me.regs = s.me.regs ∧ u.me.v = s.me.v ∧ u.me.flight = s.me.flight ∧ u.me.storeQ = s.me.storeQ ∧
      u.mem = (s.commitXlat c .write x).mem)

/-- R377, R433, R277, R55: a load or store whose address is not a multiple of its size takes cause 0x08 with the address as
TVAL, rolled back to the strand's mark: registers are those of the mark and the gated stores are gone. -/
def Sys2Proof.Machine.MisalignedAccessTraps : Prop :=
  ∀ (t : Ty) (o : OrdSc) (sd : BitVec 6) (ea : Addr) (s : State), s.Alone → isThread s.cur = false →
    s.me.inh = false → s.me.mark.valid = true → s.me.regs.addr ea % t.bytes ≠ 0 →
    ∀ i, (i = .ld t o sd ea ∨ i = .st t o ea sd) →
      ∃ u, exec i s = .next u ∧ u.me.cause.toNat % 256 = 0x08 ∧ u.me.tval = BitVec.ofNat 64 (s.me.regs.addr ea) ∧
        u.me.epc = s.me.mark.off ∧ u.me.regs = s.me.mark.regs ∧ u.me.gated = [] ∧ u.mem = s.mem

/-- The lines of a vector access through its mask that lie where `P` says: each has a translation, which the access leaves as
it is. -/
def Sys2Proof.Machine.LinesAt (s : State) (acc : Acc) (va mask : Nat) (P : Nat → Nat → Nat → Dest → Prop) : Prop :=
  ∀ i ∈ activeLines mask, ∃ pa ty d x,
    s.access (s.spaceOf s.cur) acc 64 ((va + 64 * i) % 2 ^ 64) = .ok (pa, ty, d, x) ∧ x.Settled acc ∧ P i pa ty d

/-- R451, R459, R441: VLD of an aligned address whose enabled lines can be read gives one result, of the enabled bytes of the
register alone, each line with what memory holds under the strand's own stores, or with one place in the load queue, and then the
result waits for the last of them;
VST of an aligned address whose enabled lines can be written puts one store of each such line in the gated stores, in increasing
address order, with the bytes of the register under the mask. No register changes at once and no byte of memory. Where a page is
walked, a mark in its entry is written, or a line is remote, the same is said of the bytes and of the stores without the values.
With a mask of zeros neither touches a line: they make no access and trap on no page. -/
def Obligations.VectorAccessUnderMask : Prop :=
  ∀ (o : OrdSc) (v : BitVec 6) (ea : Addr) (mk : MaskSel) (s : State),
    let va := s.me.regs.addr ea
    let mask := s.me.regs.byteMask mk
    let lines := activeLines mask
    let same (u : State) : Prop := u.me.regs = s.me.regs ∧ u.me.v = s.me.v ∧ u.me.pc = s.me.pc ∧ u.me.status = s.me.status
    (s.Acts → va % 64 = 0 → s.Keeps (bankOf v) →
      (LinesAt s .read va mask (fun _ _ _ d => ∃ a, d = .mem a) → Completes (.vld o v ea mk) s (fun u =>
        same u ∧ u.mem = s.mem ∧ u.me.gated = s.me.gated ∧ (lines ≠ [] → ∃ r : Result, u.me.flight = s.me.flight ++ [r] ∧
          r.dst = .v v ∧ r.lock = true ∧ r.mask = BitVec.ofNat 2048 (spreadMask 256 mask) ∧
          ∀ i ∈ lines, ∃ pa ty d x, s.access (s.spaceOf s.cur) .read 64 ((va + 64 * i) % 2 ^ 64) = .ok (pa, ty, d, x) ∧
            (bitsN r.val.toNat (512 * i) 512 = s.readOwn s.cur pa 64 ∨
              (r.due = none ∧ ∃ q ∈ u.me.loadQ, q.dst = .reg r.tag (some i) ∧ q.pa = pa ∧ q.size = 64 ∧
                q.upTo = s.issue.seq - 1 ∧ q.after = s.me.fenceSeq ∧ q.seq = s.issue.seq))))) ∧
      (LinesAt s .write va mask (fun _ _ _ _ => True) → Completes (.vst o ea v mk) s (fun u =>
        same u ∧ u.mem = s.mem ∧ u.me.flight = s.me.flight ∧ ∃ l : List PStore, u.me.gated = s.me.gated ++ l ∧ l.length = lines.length ∧
          ∀ (k i : Nat) (p : PStore), lines[k]? = some i → l[k]? = some p → p.size = 64 ∧ p.bmask = bitsN mask (64 * i) 64 ∧
            p.va = (va + 64 * i) % 2 ^ 64 ∧ p.data = bitsN (s.me.rv v).toNat (512 * i) 512 ∧ p.seq = s.issue.seq ∧
            p.rel = (if o.ord.hasRel then some o.scope else none) ∧
            ∃ ty d x, s.access (s.spaceOf s.cur) .write 64 ((va + 64 * i) % 2 ^ 64) = .ok (p.pa, ty, d, x)))) ∧
    (s.Free (vldObs v ea mk) → Completes (.vld o v ea mk) s (fun u => same u ∧ u.me.gated = s.me.gated ∧
      ∃ l, u.me.flight = s.me.flight ++ l ∧ ∀ r ∈ l, r.dst = .v v ∧ r.lock = true ∧
        ∀ k, k < 2048 → r.mask.getLsbD k = true → mask.testBit (k / 8) = true)) ∧
    (s.Free (vecObs ea mk v (fun i => storeObsMasked (lineMask mask i))) → Completes (.vst o ea v mk) s (fun u => same u ∧
      u.me.flight = s.me.flight ∧ ∃ l, u.me.gated = s.me.gated ++ l ∧ l.length ≤ 4 ∧
        ∀ p ∈ l, p.size = 64 ∧ ∃ i, i < 4 ∧ p.bmask = bitsN mask (64 * i) 64 ∧
          p.data = bitsN (s.me.rv v).toNat (512 * i) 512)) ∧
    (s.me.regs.rvm mk.vm = 0 → mk.men = true → va % 64 = 0 → s.Acts → s.Keeps (bankOf v) →
      Completes (.vld o v ea mk) s (fun u => u = s.endRequest) ∧ Completes (.vst o ea v mk) s (fun u => u = s))

/-- R118, R402, R124, R367, R350, R351, R426: MARK records the bundle for later loads; a fence whose wait is over (its scope's
earlier accesses done, and with acquire order the earlier loads and elements) does nothing more; a line operation on a page that is not write-back, or not of local HBM, leaves memory alone, and on one that is puts a
line operation in the gated stores. -/
def Obligations.OrderAndLines : Prop :=
  ∀ (o : OrdSc) (ea : Addr) (s : State) (pa ty : Nat) (e : Option TlbEntry) (fresh : Bool),
    let va := s.me.regs.addr ea
    let c := s.spaceOf s.cur
    let line (acc : Acc) (k : StoreKind) (u : State) : Prop :=
      let s' := s.commitXlat c acc (.ok pa ty e fresh)
      u.mem = s'.mem ∧ u.me.regs = s.me.regs ∧ u.me.flight = s.me.flight ∧
        if ty = 0 ∧ s'.isRemote pa = false ∧ inHbm (pa % 2 ^ 52) = true
        then ∃ p, u.me.gated = s.me.gated ++ [p] ∧ p.kind = k ∧ p.pa = pa / 64 * 64 ∧ p.bmask = 0
        else u = s'
    Completes .mark s (fun u => u = s.updMe (fun st => { st with fenceSeq := s.issue.seq })) ∧
    (s.Acts → (o.ord.hasRel = true → s.releaseHeld s.cur o.scope = false) →
      (¬ (o.ord.hasRel = true ∧ o.ord.hasAcq = false) → s.me.atomicWaits = false ∧ s.me.aq = [] ∧ s.me.loadQ = []) →
      Completes (.fence o) s (fun u => u = s)) ∧
    (s.Acts → (s.isRemote pa = false → inHbm (pa % 2 ^ 52) = true → s.hostBiased (pa % 2 ^ 52) = false) →
      (s.xlat c .read va = .ok pa ty e fresh → Completes (.cflush ea) s (line .read .flush)) ∧
      (s.xlat c .write va = .ok pa ty e fresh → s.me.priv ≠ 0 → Completes (.cinv ea) s (line .write .inval)))

/-- R127, R129, R335, R337, R414 to R416: what an atomic of w bits does to its word: the new value, or none where it does not
write, and the flag of a queue atomic. `lim` is the word above. -/
def Sys2Proof.Machine.AtomicValues : Prop :=
  ∀ (t : Ty) (old lim a b : Nat), t.isAmo = true → old < 2 ^ t.width → a < 2 ^ t.width →
    atomicEval (aopOf 0x0E AmoFn.add.code t) old lim a b = (some ((old + a) % 2 ^ t.width), false) ∧
    atomicEval (aopOf 0x0E AmoFn.and.code t) old lim a b = (some (old &&& a), false) ∧
    atomicEval (aopOf 0x0E AmoFn.or.code t) old lim a b = (some (old ||| a), false) ∧
    atomicEval (aopOf 0x0E AmoFn.xor.code t) old lim a b = (some (old ^^^ a), false) ∧
    atomicEval (aopOf 0x0E AmoFn.swap.code t) old lim a b = (some a, false) ∧
    atomicEval (aopOf 0x0E AmoFn.min.code t) old lim a b = (some (if intOf t a < intOf t old then a else old), false) ∧
    atomicEval (aopOf 0x0E AmoFn.max.code t) old lim a b = (some (if intOf t old < intOf t a then a else old), false) ∧
    atomicEval (aopOf 0x0F 0 t) old lim a b = (if old = a then some b else none, false) ∧
    (t.isN32or64 = true →
      atomicEval (aopOf 0x10 0 t) old lim a b = (if old < a then (some (old + 1), true) else (none, false)) ∧
      atomicEval (aopOf 0x11 0 t) old lim a b =
        (if a ≤ old + 1 then (some 0, true) else (some (old + 1), false)) ∧
      atomicEval (aopOf 0x12 0 t) old lim a b = (if 0 < old then (some (old - 1), true) else (none, false)) ∧
      atomicEval (aopOf 0x13 0 t) old lim a b = (if old + a ≤ lim then (some (old + a), true) else (none, false)))

/-- R127, R335 to R337, R414 to R416: an aligned atomic on local memory acts at once where no earlier access of the strand and
nothing at its home stands before it: its word takes the new value where there is one, every other byte is as the translation left
it, and the old value, with the flag of a queue atomic, is put in flight, interlocked. Where an earlier store, load or element still
waits, it joins the end of the strand's store queue behind the gated stores, its results awaited, and issue goes on. -/
def Sys2Proof.Machine.AtomicsActAtOnce : Prop :=
  ∀ (t : Ty) (f : AmoFn) (o : OrdSc) (sd sb sc : BitVec 6) (gd : BitVec 4) (ea : Addr) (s : State) (pa ty a : Nat) (x : Xlat),
    let va := s.me.regs.addr ea
    let c := s.spaceOf s.cur
    let s' := s.commitXlat c .atomic x
    let w := pa % 2 ^ 52
    let op1 := s.me.regs.pat t sb
    let op2 := s.me.regs.pat t sc
    t.isAmo = true → s.access c .atomic t.bytes va = .ok (pa, ty, .mem a, x) → s.Acts →
    let clear : Prop := s'.me.unseen = [] ∧ s'.me.aq = [] ∧ s'.me.loadQ = [] ∧ s'.homeBusy w = false ∧
      (inHbm w = true → s'.leaseOver w = true) ∧ (o.ord.hasRel = true → s'.releaseHeld s.cur o.scope = false)
    let done (aop p1 p2 : Nat) (gd : Option (BitVec 4)) (u : State) : Prop :=
      let old := s'.readMem w t.bytes
      let r := atomicEval aop old (s'.readMem (w + t.bytes) t.bytes) p1 p2
      (∀ v, r.1 = some v → u.readMem w t.bytes = v % 2 ^ t.width) ∧ (r.1 = none → u.mem = s'.mem) ∧
      SameMemoryBut s' u w t.bytes ∧ u.me.regs = s.me.regs ∧
      ∃ lat, u.me.flight = s.me.flight ++
        [{ dst := .s sd, val := (extendTy t old).setWidth 2048, mask := BitVec.allOnes 2048, due := some (s.issue.cycle + lat)
           lock := true, sq := s.issue.sq, fpctl := false, flags := 0, replay := false, seq := s.issue.seq, tag := 0 }] ++
        (match gd with
          | none => []
          | some g => [{ dst := .g g, val := BitVec.ofNat 2048 (b2n r.2), mask := BitVec.allOnes 2048
                         due := some (s.issue.cycle + lat), lock := true, sq := s.issue.sq, fpctl := false, flags := 0
                         replay := false, seq := s.issue.seq, tag := 0 }])
    let queued (aop p1 p2 : Nat) (gd : Option (BitVec 4)) (u : State) : Prop :=
      u.mem = s'.mem ∧ u.me.regs = s.me.regs ∧ u.me.gated = [] ∧ ∃ k p,
        u.me.storeQ = s.me.storeQ ++ s.me.gated ++ [p] ∧ p.kind = .atomic aop p2 k ∧ p.pa = pa ∧ p.data = p1 ∧
        p.size = t.bytes ∧ p.seq = s.issue.seq ∧ p.rel = (if o.ord.hasRel then some o.scope else none) ∧
        u.me.flight = s.me.flight ++ [awaited s (.s sd) (BitVec.allOnes 2048) k] ++
          (match gd with
            | none => []
            | some g => [awaited s (.g g) (BitVec.allOnes 2048) k])
    let completes (al aop p1 p2 : Nat) (gd : Option (BitVec 4)) (i : Instr) : Prop :=
      va % al = 0 →
        (clear → s'.poison = [] → s'.unclashed w t.bytes = true → Completes i s (done aop p1 p2 gd)) ∧
        (s'.me.unseen ≠ [] ∨ s'.me.loadQ ≠ [] ∨ s'.me.aq ≠ [] → Completes i s (queued aop p1 p2 gd))
    completes t.bytes (aopOf 0x0E f.code t) op1 0 none (.amo t f o sd ea sb) ∧
    completes t.bytes (aopOf 0x0F (sc.toNat % 16) t) op1 op2 none (.amocas t o sd ea sb sc) ∧
    completes t.bytes (aopOf 0x10 gd.toNat t) op1 0 (some gd) (.qinc t o sd gd ea sb) ∧
    completes t.bytes (aopOf 0x11 gd.toNat t) op1 0 (some gd) (.qwrap t o sd gd ea sb) ∧
    completes t.bytes (aopOf 0x12 gd.toNat t) 0 0 (some gd) (.qdec t o sd gd ea) ∧
    completes (2 * t.bytes) (aopOf 0x13 gd.toNat t) op1 0 (some gd) (.qaddl t o sd gd ea sb)

/-- R127, R129, R335 to R337, R414 to R416: what an atomic makes of its word, and when it acts. -/
def Obligations.Atomics : Prop := AtomicValues ∧ AtomicsActAtOnce

/-- R368, R425: an aligned push that finds room (R282) joins the address queue with its exact address, the cause for which it
will park if it has one, and its store data; a gather takes a slot of the data queue. One that does not fault joins the load
queue, or the gated stores. No register changes, and memory is as the translation left it. -/
def Sys2Proof.Machine.PushesJoinQueues : Prop :=
  ∀ (t : Ty) (ea : Addr) (sb sc : BitVec 6) (s : State) (pa ty : Nat) (k : Dest) (x : Xlat),
    let base := s.me.regs.addr ea
    let p : Int := (BitVec.ofNat 64 base).toNat + (s.me.regs.rs sb).toInt * t.bytes
    let va := (p % 2 ^ 64).toNat
    let c := s.spaceOf s.cur
    let same (u : State) : Prop := u.me.regs = s.me.regs ∧ u.me.v = s.me.v ∧ u.me.flight = s.me.flight ∧
      u.me.storeQ = s.me.storeQ ∧ u.me.pc = s.me.pc ∧ u.me.status = s.me.status
    let elem (scatter : Bool) (cause : Nat) (u : State) : Prop := ∃ e, u.me.aq = s.me.aq ++ [e] ∧ e.sid = s.cur ∧
      e.scatter = scatter ∧ e.ty = t ∧ e.va = va ∧ e.index = (s.me.regs.rs sb).toNat ∧ e.slot = s.me.nextSlot ∧
      e.seq = s.issue.seq ∧ e.cause = cause ∧ e.data = (if scatter then (s.me.regs.rs sc).toNat % 2 ^ (8 * t.bytes) else 0)
    let slot (u : State) : Prop := ∃ d, u.me.dq = s.me.dq ++ [d] ∧ d.id = s.me.nextSlot ∧ d.data = none ∧ d.held = false
    s.Acts → base % t.bytes = 0 → s.me.aq.length < 64 → s.myCore.overflow = none →
      (s.me.dq.length < 64 →
        (s.elemCause s.cur .read t.bytes p ≠ 0 → Completes (.gidx t ea sb) s (fun u => same u ∧ slot u ∧
          elem false (s.elemCause s.cur .read t.bytes p) u ∧ u.mem = s.mem ∧ u.me.loadQ = s.me.loadQ ∧
          u.me.gated = s.me.gated)) ∧
        (s.elemCause s.cur .read t.bytes p = 0 → s.access c .read t.bytes va = .ok (pa, ty, k, x) →
          Completes (.gidx t ea sb) s (fun u => same u ∧ slot u ∧ elem false 0 u ∧
            u.mem = (s.commitXlat c .read x).mem ∧ u.me.gated = s.me.gated ∧ ∃ l, u.me.loadQ = s.me.loadQ ++ [l] ∧
              l.dst = .elem s.me.nextSlot ∧ l.pa = pa ∧ l.size = t.bytes ∧ l.ty = t ∧ l.seq = s.issue.seq))) ∧
      (s.elemCause s.cur .write t.bytes p ≠ 0 → Completes (.sidx t ea sb sc) s (fun u => same u ∧ u.me.dq = s.me.dq ∧
        elem true (s.elemCause s.cur .write t.bytes p) u ∧ u.mem = s.mem ∧ u.me.loadQ = s.me.loadQ ∧
        u.me.gated = s.me.gated)) ∧
      (s.elemCause s.cur .write t.bytes p = 0 → s.access c .write t.bytes va = .ok (pa, ty, k, x) →
        Completes (.sidx t ea sb sc) s (fun u => same u ∧ u.me.dq = s.me.dq ∧ elem true 0 u ∧
          u.mem = (s.commitXlat c .write x).mem ∧ u.me.loadQ = s.me.loadQ ∧ ∃ q, u.me.gated = s.me.gated ++ [q] ∧
            q.kind = .write ∧ q.pa = pa ∧ q.size = t.bytes ∧ q.seq = s.issue.seq ∧
            q.data = (s.me.regs.rs sc).toNat % 2 ^ (8 * t.bytes) ∧ q.bmask = 2 ^ t.bytes - 1))

/-- R371, R369, R283, R426, R417: a pop whose data is there takes the oldest entry's data and keeps the entry for a rollback; a
replay of the oldest parked element that no longer faults fills its slot, or puts its store in the store queue, and gives the count
of those still parked, and with nothing parked gives 0; QSTAT gives the counts. Nothing else of the strand or of memory changes but
what the replay's translation writes. -/
def Sys2Proof.Machine.PopsAndReplays : Prop :=
  ∀ (sd : BitVec 6) (s : State) (d : DqSlot) (rest : List DqSlot) (v : Word),
    let c := s.spaceOf s.cur
    let same (u : State) : Prop := u.me.regs = s.me.regs ∧ u.me.v = s.me.v ∧ u.me.aq = s.me.aq ∧
      u.me.gated = s.me.gated ∧ u.me.pc = s.me.pc ∧ u.me.status = s.me.status
    (s.Acts → s.me.dq = d :: rest → d.data = some v → Completes (.gpop sd) s (fun u => same u ∧ u.mem = s.mem ∧
      u.me.dq = rest ∧ u.me.mark.popped = s.me.mark.popped ++ [d] ∧ LockedResult s u (.s sd) (v.setWidth 2048))) ∧
    (∀ e pa ty k x, s.Acts → s.myCore.oldestParked s.cur = some e → s.replayCause e = 0 →
      let acc : Acc := if e.scatter then .write else .read
      let s' := s.commitXlat c acc x
      let left (u : State) (n : Nat) : Prop := n = (u.myCore.parked s.cur).length +
        match u.myCore.overflow with | some o => b2n (o.sid == s.cur) | none => 0
      s.access c acc e.ty.bytes e.va = .ok (pa, ty, k, x) → Completes (.gpopRp sd) s (fun u =>
        same u ∧ u.mem = s'.mem ∧ u.myCore.fq = s.myCore.fq.erase e ∧
        (∃ n : Nat, left u n ∧ LockedResult s u (.s sd) ((BitVec.ofNat 64 n).setWidth 2048)) ∧
        (e.scatter = false → u.me.storeQ = s.me.storeQ ∧ u.me.dq = s.me.dq.map (fun d => if d.id = e.slot
          then { d with data := some (extendTy e.ty (s'.readOwn s.cur pa e.ty.bytes)), held := false } else d)) ∧
        (e.scatter = true → u.me.dq = s.me.dq ∧ ∃ q, u.me.storeQ = s.me.storeQ ++ [q] ∧ q.kind = .write ∧ q.pa = pa ∧
          q.size = e.ty.bytes ∧ q.data = e.data ∧ q.seq = s.issue.seq))) ∧
    (s.Acts → s.myCore.oldestParked s.cur = none → Completes (.gpopRp sd) s (fun u => same u ∧ u.mem = s.mem ∧
      u.me.dq = s.me.dq ∧ LockedResult s u (.s sd) 0)) ∧
    (s.me.aq.length ≤ 64 → s.me.dq.length ≤ 64 → s.myCore.fq.length ≤ 256 → Completes (.qstat sd) s (fun u =>
      ∃ w, LandsS s u sd w 3 true ∧ bitsN w.toNat 0 8 = s.me.aq.length ∧ bitsN w.toNat 8 8 = s.me.dq.length ∧
        bitsN w.toNat 16 16 = readySlots s.me.dq ∧
        w.getLsbD 32 = (match s.myCore.overflow with | some e => e.sid == s.cur | none => false) ∧
        bitsN w.toNat 40 9 = (s.myCore.parked s.cur).length ∧ bitsN w.toNat 49 15 = 256 - s.myCore.fq.length))

/-- R282, R283, R368, R369, R371, R417, R425, R426: the gather and scatter queues. -/
def Obligations.GatherQueues : Prop := PushesJoinQueues ∧ PopsAndReplays

/-! ### The M and X slots (R315, R316) -/

/-- R159, R379, R418, R148, R404, R149, R411, R409, R162, R408: a bank is lent and taken back, a call joins the queue with the
strand's m registers, a wait that is over does nothing, and the two status reads put their counts in flight. -/
def Sys2Proof.Machine.LendsAndCalls : Prop :=
  ∀ (b : BitVec 2) (n : BitVec 2) (idx : BitVec 10) (sd : BitVec 6) (s : State),
    (s.Acts → s.myCore.lent = none → (∀ r ∈ s.me.flight, ∀ i, r.dst = .v i → bankOf i ≠ b.toNat) →
      Completes (.lend b) s (fun u =>
        u = s.updCore (coreOf s.cur) (fun c => { c with lent := some (strandIn s.cur, b.toNat) }))) ∧
    (∀ k, s.myCore.lent = some (strandIn s.cur, k) → s.myCore.calls = [] → s.Acts →
      Completes .reclaim s (fun u => u = s.updCore (coreOf s.cur) (fun c => { c with lent := none }))) ∧
    (s.myCore.calls.length < 4 → s.Acts → Completes (.mcall idx) s (fun u =>
      u.myCore.calls = s.myCore.calls ++ [⟨s.cur, idx.toNat, s.me.regs.m, s.issue.seq⟩] ∧ u.me = s.me ∧ u.mem = s.mem)) ∧
    (s.myCore.own s.cur ≤ n.toNat → s.Acts → Completes (.mwait n) s (fun u => u = s)) ∧
    Completes (.mstat sd) s (fun u => ∃ w, LandsS s u sd w 3 true ∧
      (w.getLsbD 0 = s.myCore.routine.isSome) ∧ (w.getLsbD 3 = s.myCore.lent.isSome) ∧
      (s.myCore.calls.length ≤ 4 → bitsN w.toNat 5 3 = s.myCore.calls.length) ∧
      bitsN w.toNat 32 32 = s.myCore.gdone % 2 ^ 32) ∧
    Completes (.mpwr sd false) s (fun u => ∃ w, LandsS s u sd w 3 true ∧
      bitsN w.toNat 8 5 = (s.die (dieOf s.cur)).tokens.toNat ∧
      w.getLsbD 0 = (s.die (dieOf s.cur)).holdsToken (clusterIn (clusterOf (coreOf s.cur)))) ∧
    Completes (.mpwr sd true) s (fun u => u.me.regs = s.me.regs ∧ u.mem = s.mem ∧
      (u.die (dieOf s.cur)).mpwr.find (clusterIn (clusterOf (coreOf s.cur))) = some (s.issue.cycle + 1024))

/-- R421, R422: a scale load of an aligned address in the core's own tile memory, through an SCR page, puts its 128 bytes in flight
for 12 cycles once no access before it waits, and a scale store there puts the register's bytes in two gated stores. -/
def Sys2Proof.Machine.ScaleLoadStore : Prop :=
  ∀ (x ab : BitVec 4) (imm : BitVec 14) (s : State) (pa ty : Nat) (e : Option TlbEntry) (fresh : Bool),
    let va := s.me.regs.xaddr ab imm
    let c := s.spaceOf s.cur
    s.Acts → va % 128 = 0 → ty = 2 → s.isRemote pa = false → ownTile (coreOf s.cur) (pa % 2 ^ 52) = true →
    (s.xlat c .read va = .ok pa ty e fresh → s.poison = [] → s.loadHeld pa = false →
      Completes (.scld x ab imm) s (fun u =>
        let s' := (s.commitXlat c .read (.ok pa ty e fresh)).flushLoads s.cur
        s'.mem = (s.commitXlat c .read (.ok pa ty e fresh)).mem ∧ s'.me.regs = s.me.regs ∧ s'.me.loadQ = [] ∧
        Lands s' u (.x x) (BitVec.ofNat 2048 (s'.readOwn s.cur pa 128)) (BitVec.allOnes 2048) 12 false 0)) ∧
    (∀ (pb : Nat) (d d' : Dest) (y z : Xlat),
      let v := (s.me.regs.rx x).toNat
      s.xlat c .write va = .ok pa ty e fresh → s.access c .write 64 va = .ok (pa, ty, d, y) →
      (s.storeVal 64 va (v % 2 ^ 512) (2 ^ 64 - 1) none).access c .write 64 ((va + 64) % 2 ^ 64) = .ok (pb, ty, d', z) →
      Completes (.scst ab imm x) s (fun u => u.me.regs = s.me.regs ∧
        u.me.flight = s.me.flight ∧ u.me.storeQ = s.me.storeQ ∧ ∃ p q, u.me.gated = s.me.gated ++ [p, q] ∧ p.pa = pa ∧
          q.pa = pb ∧ p.data = v % 2 ^ 512 ∧ q.data = v / 2 ^ 512 ∧ p.size = 64 ∧ q.size = 64))

/-- R148, R149, R159, R162, R421, R422: the operations of the M and X slots. -/
def Obligations.MatrixCalls : Prop := LendsAndCalls ∧ ScaleLoadStore

/-! ### The Q slot (R317 to R319) -/

/-- R218, R382, R385: LQBIND, above user privilege or where the core lets users bind, claims a free circuit for an unbound queue and
answers 0; it answers 1 for a circuit that is claimed, 2 for a queue that is bound already and 3 for a phase that does not fit, and
changes nothing. `.un` answers 0 and leaves the queue unbound. LQSTAT of an unbound queue reads 0, of another its state. -/
def Sys2Proof.Machine.LinkQueueBinding : Prop :=
  ∀ (lq : BitVec 4) (sd sp sc : BitVec 6) (s : State),
    let core := coreOf s.cur
    let v := (s.me.regs.rs sc).toNat
    let free := (s.lqOf core lq.toNat).role = .unbound
    let fits := bitsN v 16 4 ≤ 8 ∧ bitsN v 24 8 < 2 ^ bitsN v 16 4
    let may : Prop := s.Acts ∧ (s.me.priv ≠ 0 ∨ s.myCore.ubind = true)
    (may → free → fits → s.circuits.find (bitsN v 8 8) = none →
      Completes (.lqbindTx lq sd sp sc) s (fun u => LockedResult s u (.s sd) 0 ∧
        (u.lqOf core lq.toNat).role = .tx ∧ (u.lqOf core lq.toNat).owner = strandIn s.cur ∧
        u.circuits.find (bitsN v 8 8) = some (core, lq.toNat, true, (s.me.regs.rs sp).toNat % 4096) ∧ u.mem = s.mem)) ∧
    (may → free → fits → s.circuits.find (v % 2 ^ 8) = none →
      Completes (.lqbindRx lq sd sp sc) s (fun u => LockedResult s u (.s sd) 0 ∧
        (u.lqOf core lq.toNat).role = .rx ∧ (u.lqOf core lq.toNat).owner = strandIn s.cur ∧
        u.circuits.find (v % 2 ^ 8) = some (core, lq.toNat, false, (s.me.regs.rs sp).toNat % 4096) ∧ u.mem = s.mem)) ∧
    (may → ¬ free →
      Completes (.lqbindTx lq sd sp sc) s (fun u => LandsS s u sd 2 4 true) ∧
      Completes (.lqbindRx lq sd sp sc) s (fun u => LandsS s u sd 2 4 true)) ∧
    (may → free → ¬ fits → Completes (.lqbindTx lq sd sp sc) s (fun u => LandsS s u sd 3 4 true)) ∧
    (may → free → fits → s.circuits.find (bitsN v 8 8) ≠ none →
      Completes (.lqbindTx lq sd sp sc) s (fun u => LandsS s u sd 1 4 true)) ∧
    (may → free → Completes (.lqbindUn lq sd) s (fun u => LandsS s u sd 0 4 true)) ∧
    (may → (s.lqOf core lq.toNat).role = .tx → (s.lqOf core lq.toNat).owner = strandIn s.cur →
      (s.lqOf core lq.toNat).out ≠ [] → Completes (.lqbindUn lq sd) s (fun u => u.mem = s.mem ∧
        (∃ k, u.me.flight = s.me.flight ++ [awaited s (.s sd) (BitVec.allOnes 2048) k]) ∧
        (u.lqOf core lq.toNat).closing = true ∧ (u.lqOf core lq.toNat).role = .tx ∧
        (u.lqOf core lq.toNat).out = (s.lqOf core lq.toNat).out)) ∧
    (may → ¬ free → (s.lqOf core lq.toNat).owner = strandIn s.cur → (s.lqOf core lq.toNat).out = [] → Completes (.lqbindUn lq sd) s (fun u => LockedResult s u (.s sd) 0 ∧
      (u.lqOf core lq.toNat).role = .unbound ∧ u.mem = s.mem)) ∧
    (free → Completes (.lqstat sd lq) s (fun u => LandsS s u sd 0 3 true)) ∧
    (¬ free → Completes (.lqstat sd lq) s (fun u => ∃ w, LandsS s u sd w 3 true ∧
      bitsN w.toNat 57 2 = (s.lqOf core lq.toNat).role.num ∧
      (w.getLsbD 63 = (s.lqOf core lq.toNat).down) ∧ (w.getLsbD 61 = ((s.lqOf core lq.toNat).owner == strandIn s.cur)) ∧
      ((s.lqOf core lq.toNat).count < 65536 → bitsN w.toNat 0 16 = (s.lqOf core lq.toNat).count)))

/-- R221, R223, R383, R384: a push of the queue's owner that finds space, with no link down and the bank its own, puts the 4,096 bytes of a bank in the queue's send buffer
under the next strip number; a pop takes the oldest strip into the sixteen registers of a bank; no register changes at once. -/
def Sys2Proof.Machine.LinkQueueStrips : Prop :=
  ∀ (lq : BitVec 4) (vb : BitVec 2) (st : BitVec 6) (s : State),
    let core := coreOf s.cur
    let x := s.lqOf core lq.toNat
    let pushed (timed : Bool) (u : State) : Prop :=
      (∃ o, (u.lqOf core lq.toNat).out = x.out ++ [o] ∧ o.num = x.count ∧ o.cell = 0 ∧ o.timed = timed ∧
        o.data = s.me.bankBits vb.toNat) ∧
      (u.lqOf core lq.toNat).count = (x.count + 1) % 65536 ∧ u.me = s.me ∧ u.mem = s.mem
    let mine (role : LqRole) : Prop := s.Acts ∧ x.role = role ∧ x.owner = strandIn s.cur ∧ x.closing = false ∧ x.down = false ∧
      s.Keeps vb.toNat
    let txFree : Prop := mine .tx ∧ x.avail ≠ 0 ∧ s.lqPaused core x = false
    (txFree → Completes (.lqpush lq vb) s (pushed false)) ∧
    (txFree → s.slotGap (s.me.regs.rs st) ≤ 1023 → (s.me.regs.rs st).toNat % 2 ^ 24 % 2 ^ x.stepl = x.phase →
      Completes (.lqpushT lq vb st) s (pushed true)) ∧
    (mine .rx → x.complete x.count = true →
      Completes (.lqpop lq vb) s (fun u => (u.lqOf core lq.toNat).count = (x.count + 1) % 65536 ∧ u.mem = s.mem ∧
        u.me.regs = s.me.regs ∧ u.me.v = s.me.v ∧ ∃ l, u.me.flight = s.me.flight ++ l ∧ l.length = 16 ∧
          ∀ i, i < 16 → ∃ r, l[i]? = some r ∧ r.dst = .v (BitVec.ofNat 6 (16 * vb.toNat + i)) ∧ r.lock = true ∧
            r.val = BitVec.ofNat 2048 (s.readMem (s.lqBuf core lq.toNat x.count) 4096 / 2 ^ (2048 * i))))

/-- R218, R221, R223, R382 to R385: the operations on link queues. -/
def Obligations.LinkQueues : Prop := LinkQueueBinding ∧ LinkQueueStrips

/-- The conditions under which a submission's regions let it execute (R107, R108, R114, R133, R273): they translate, there is room
for its locks and its job, and, without `.spec`, the earlier stores of the strand are visible at the scope that its regions need,
or, with it, the commit buffer has a free entry. -/
def Sys2Proof.Machine.RegionsGo (s : State) (spec : Bool) (regions see : List (Bool × Nat × Nat)) : Prop :=
  s.subFault regions = none ∧ (s.die (dieOf s.cur)).locks.length + regions.length ≤ 4096 ∧
  (s.die (dieOf s.cur)).jobs.length < 256 ∧
  if spec then s.commitFull = false else s.releaseHeld s.cur (s.subScope see) = false

/-- The conditions on a card under which EGO and XFER execute (R271, R299, R461). -/
def Sys2Proof.Machine.CardGoes (s : State) (spec : Bool) (e : Nat) (card : List Nat) : Prop :=
  let w (i : Nat) : Nat := card.getD i 0
  w 16 % 8 = 0 ∧ RegionsGo s spec (cardRegions card) (cardSee e card) ∧
  (e = 0 → w 21 ≤ 2 ^ 40 ∧ holdsBytes (cardRegions card) false (w 19) (w 21) = true ∧
    holdsBytes (cardRegions card) true (w 20) (w 21) = true ∧ s.copyReady (dieOf s.cur) = true) ∧
  (e = 1 → w 19 % 256 = 0 ∧ (s.queue (w 20 % 64)).en = true ∧ (s.queue (w 20 % 64)).dev = true ∧
    (s.queue (w 20 % 64)).packets.length < 32 ∧ ∃ r, s.access s.mySpace .read 64 (w 19) = .ok r)

/-- A submission has entered one job of a kind in the scheduler of the strand's die, under the next number, with its card,
its completion word and its declared regions: waiting, or, with `.spec` or behind stores of its own bundle, in the commit buffer.
Nothing of the strand changes, and of memory what the translations of `regions` write. -/
def Sys2Proof.Machine.Submitted (s u : State) (kind : JobKind) (spec : Bool) (regions : List (Bool × Nat × Nat)) (card : List Nat)
    (cw : Nat × Nat) : Prop :=
  let late := spec || s.ownStores
  let d := dieOf s.cur
  u.nextJob = s.nextJob + 1 ∧ u.me = s.me ∧ u.mem = (s.commitRegions s.mySpace regions).mem ∧
  (∃ j, (u.die d).jobs = (s.die d).jobs ++ [j] ∧ j.id = s.nextJob ∧ j.kind = kind ∧ j.sid = s.cur ∧ j.card = card ∧
    j.cwAddr = cw.1 ∧ j.cwVal = cw.2 ∧ j.failed = none ∧ j.phase = (if late then .spec else .waiting) ∧
    j.reads = s.regionRanges s.mySpace false regions ∧ j.writes = s.regionRanges s.mySpace true regions) ∧
  ∃ l, u.myCore.commit = s.myCore.commit ++ l ∧ l.length = (if late then 1 else 0) ∧
    ∀ e ∈ l, e.sid = s.cur ∧ e.seq = s.issue.seq ∧ e.spec = spec ∧ e.card = [s.nextJob]

/-- R271, R360, R461, R273, R107, R188, R189, R429: EGO 0, XFER and SPDENSE under the conditions of their cards and regions submit one
job; EGO 1 enters one launch job, whose packet it reads, or asks another device for, before the job may start. That a submission
behind accesses of its own bundle joins the commit buffer is the model's choice (log 27). -/
def Obligations.Submissions : Prop :=
  ∀ (sl sv : BitVec 6) (fab spec : Bool) (ad as ac : BitVec 4) (s : State), s.Acts →
    let mine := s.myCard
    let xcard := s.xferCard fab ad as sl ac sv
    (CardGoes s spec 0 mine → Completes (.ego spec 0) s (fun u =>
      Submitted s u .copy spec (cardRegions mine) mine (mine.getD 16 0, mine.getD 17 0))) ∧
    (CardGoes s spec 0 xcard → Completes (.xfer fab spec ad as sl ac sv) s (fun u =>
      Submitted s u .copy spec (cardRegions xcard) xcard (xcard.getD 16 0, xcard.getD 17 0))) ∧
    (CardGoes s spec 1 mine → Completes (.ego spec 1) s (fun u => u.nextJob = s.nextJob + 1 ∧ u.me = s.me ∧
      (u.die (dieOf s.cur)).jobs.length = (s.die (dieOf s.cur)).jobs.length + 1 ∧
      (∃ j ∈ (u.die (dieOf s.cur)).jobs, j.id = s.nextJob ∧ j.kind = .launch ∧ j.sid = s.cur ∧
        j.phase = (if spec || s.ownStores then .spec else .waiting)) ∧
      u.myCore.commit.length = s.myCore.commit.length + (if spec || s.ownStores then 1 else 0))) ∧
    (∀ card dsc, s.denseCard (s.me.regs.ra ac).toNat = .ok card → s.denseDesc card = .ok dsc →
      RegionsGo s spec (denseRegions dsc card) (denseRegions dsc card) → Completes (.spdense spec ac) s (fun u =>
        u.nextJob = s.nextJob + 1 ∧ u.me.regs = s.me.regs ∧ u.me.flight = s.me.flight ∧
        (u.die (dieOf s.cur)).jobs.length = (s.die (dieOf s.cur)).jobs.length + 1 ∧
        ∃ j ∈ (u.die (dieOf s.cur)).jobs, j.id = s.nextJob ∧ j.kind = .densify ∧ j.sid = s.cur ∧
          j.card = [card, dsc.nnodes] ∧ j.phase = (if spec || s.ownStores then .spec else .waiting)))

/-- The work entry that arming a card makes (R256): no run yet. -/
def Sys2Proof.Machine.armedEntry (s : State) (card : Nat) (group : List Nat) : WorkEntry :=
  { card, job := s.nextJob, group, run := 0, fired := 0, pc := none, ctr := [0, 0, 0, 0], disarm := false, outstanding := []
    taken := [] }

/-- The frame of a command of the Q slot: nothing of the strand in issue changes but its request, and no byte of memory. -/
def Sys2Proof.Machine.StrandKept (s u : State) : Prop :=
  u.me = { s.me with request := u.me.request } ∧ u.mem = s.mem

/-- R258, R273, R357, R349, R256, R257, R251, R352: CTRIG fires its line on the entries of the strand's die, once the strand's earlier
accesses are done; CARM of an aligned card whose program, fields and regions are in order arms its work entry for run 0 under one
more job; CARM of a card with DIS frees its idle entry; with `.spec`, or behind accesses of their own bundle (the model's choice, log 27), both join the
commit buffer instead. CLOAD of an aligned image in order fills the program slot it names. None changes a register or, where no translation
is walked, a byte of memory. -/
def Sys2Proof.Machine.CollectiveCommands : Prop :=
  ∀ (t ac ap : BitVec 4) (sn : BitVec 6) (spec : Bool) (s : State), s.Acts →
    let d := dieOf s.cur
    let late := spec || s.ownStores
    let va := (s.me.regs.ra ac).toNat
    ((if spec then s.commitFull = false else s.releaseHeld s.cur .dev = false) → Completes (.ctrig spec t) s (fun u =>
      u = if late then s.addCommit spec .dev 1 [t.toNat] else s.fireLine d t.toNat)) ∧
    (∀ card, s.carmCard va = .ok card → wDis card = true → RegionsGo s spec [] [] → Completes (.carm spec ac) s (fun u =>
      u.me.regs = s.me.regs ∧ u.me.flight = s.me.flight ∧ u.me.gated = s.me.gated ∧
      (late = true → ∃ e, u.myCore.commit = s.myCore.commit ++ [e] ∧ e.sid = s.cur ∧ e.card = [0, card]) ∧
      (late = false → ∀ w, s.wentry d (wEntry card) = some w → w.pc = none → u.wentry d (wEntry card) = none))) ∧
    (∀ card prog group, s.carmCard va = .ok card → wDis card = false → s.carmInput card = .ok (prog, group) →
      RegionsGo s spec (impalaRegions card prog) (impalaRegions card prog) → Completes (.carm spec ac) s (fun u =>
        u.nextJob = s.nextJob + 1 ∧ u.me.regs = s.me.regs ∧ u.me.flight = s.me.flight ∧ u.me.gated = s.me.gated ∧
        (late = true → ∃ e, u.myCore.commit = s.myCore.commit ++ [e] ∧ e.sid = s.cur ∧
          e.card = [s.nextJob, card] ++ group) ∧
        (late = false → u.wentry d (wEntry card) = some (armedEntry s card group)))) ∧
    (∀ l, s.cloadImage (s.me.regs.ra ap).toNat ((s.me.regs.rs sn).toNat % 16) = .ok l → Completes (.cload ap sn) s (fun u =>
      (u.die d).islots.find ((s.me.regs.rs sn).toNat % 16) = some l ∧ u.me.regs = s.me.regs ∧
      u.me.flight = s.me.flight ∧ u.me.gated = s.me.gated ∧
      (∀ n, n ≠ (s.me.regs.rs sn).toNat % 16 → (u.die d).islots.find n = (s.die d).islots.find n)))

/-- R227, R228, R420, R249, R333: ROUTE of an aligned card whose record, image and regions are in order enters one routing job that
keeps them, with `.spec` or behind accesses of its own bundle (the model's choice, log 27) in the commit buffer; ABANDON, above user privilege, of an aligned address where no bin area with granted rows lies ends at once, and one whose
drops their homes have accepted ends; neither changes a register. -/
def Sys2Proof.Machine.RoutingCommands : Prop :=
  ∀ (aj ab : BitVec 4) (spec : Bool) (s : State), s.Acts →
    let d := dieOf s.cur
    let h := (s.me.regs.ra ab).toNat
    (∀ card cfg dict stream, s.routeCard (s.me.regs.ra aj).toNat = .ok card → s.routeInput card = .ok (cfg, dict, stream) →
      RegionsGo s spec (routeRegions card cfg) (routeRegions card cfg) → Completes (.route spec aj) s (fun u =>
        u.nextJob = s.nextJob + 1 ∧ u.me.regs = s.me.regs ∧ u.me.flight = s.me.flight ∧ u.me.gated = s.me.gated ∧
        (u.die d).jobs.length = (s.die d).jobs.length + 1 ∧
        ∃ j ∈ (u.die d).jobs, j.id = s.nextJob ∧ j.kind = .route ∧ j.sid = s.cur ∧ j.card = [card, cfg, dict, stream] ∧
          j.phase = (if spec || s.ownStores then .spec else .waiting))) ∧
    (∀ xs k, s.me.priv ≠ 0 → h % 64 = 0 → s.abandonArea h = .ok (xs, k, []) → s.asked (.drops (0, 0) []) = false →
      (∀ x ∈ xs, x.Settled .read) → Completes (.abandon ab) s (StrandKept s)) ∧
    (∀ xs k ds, s.me.priv ≠ 0 → h % 64 = 0 → s.abandonArea h = .ok (xs, k, ds) → s.Answered (.drops (0, 0) []) →
      (∀ x ∈ xs, x.Settled .read) → Completes (.abandon ab) s (StrandKept s))

/-- R227, R228, R249, R251, R256, R257, R258, R273, R333, R349, R352, R357, R420: the commands of collectives and of token
routing. -/
def Obligations.CollectivesAndRouting : Prop := CollectiveCommands ∧ RoutingCommands

/-- R30, R31, R32, R340, R347, R342, R454, R455, R478: a member's arrival with no arrival of its own pending, once its release is over,
is recorded and sets its pending bit; a wait that is over clears it; BDOM reads membership, pending bit, freezing, the tag and the
generation that the die has observed; a vote with no arrival pending records its input and waits, and one whose generation is
observed puts the two reductions in its guards. -/
def Obligations.Barriers : Prop :=
  ∀ (rel : Option Scope) (w : WaitOrd) (vr va : VoteSide) (gand gor gsrc : BitVec 4) (sd : BitVec 6) (ch : BitVec 5) (s : State),
    let n := ch.toNat
    let cleared := s.updMe (fun st => { st with pend := st.pend &&& ~~~(1#32 <<< n) })
    (s.Acts → s.member s.cur n = true → s.pendingOn n = false → (∀ sc, rel = some sc → s.releaseHeld s.cur sc = false) →
      Completes (.arrive rel ch) s (fun u => u = s.recordArrival s.cur n s.issue.seq true false rel ∧ u.mem = s.mem ∧
        u.me.pend = s.me.pend ||| (1#32 <<< n) ∧ u.me.regs = s.me.regs ∧ u.me.flight = s.me.flight)) ∧
    (s.Acts → s.pendingOn n = false → Completes (.bwait w ch) s (fun u => u = cleared)) ∧
    Completes (.bdom sd ch) s (fun u => ∃ x, LandsS s u sd x 3 true ∧ x.getLsbD 33 = s.member s.cur n ∧
      x.getLsbD 32 = s.me.pend.getLsbD n ∧ x.getLsbD 34 = s.frz.getLsbD n ∧
      bitsN x.toNat 16 16 = (s.me.tags.getD n 0).toNat ∧ bitsN x.toNat 0 16 = (s.observed (dieOf s.cur) n).toNat) ∧
    (s.Acts → s.member s.cur n = true → s.me.pend.getLsbD n = true → s.pendingOn n = false →
      Completes (.vote vr va gand gor gsrc ch) s (fun u =>
        ∃ x, LandsG cleared x gand (s.chan n).lastAnd 1 false ∧ LandsG x u gor (s.chan n).lastOr 1 false)) ∧
    (s.Acts → s.member s.cur n = true → s.me.pend.getLsbD n = false →
      (∀ sc, vr.scope = some sc → s.releaseHeld s.cur sc = false) → Completes (.vote vr va gand gor gsrc ch) s (fun u =>
        u = (s.recordArrival s.cur n s.issue.seq (s.me.regs.rg gsrc) (s.me.regs.rg gsrc) none).enterWait (.chan n)))

/-- Has a strand the privilege, and is it a thread where the register is a thread's, for a control register (R241, R276)? -/
def Sys2Proof.Machine.CtlAllowed (s : State) (least : Nat → Nat) (cr : BitVec 12) : Prop :=
  least cr.toNat ≤ s.me.priv ∧ (0x070 ≤ cr.toNat → cr.toNat ≤ 0x072 → isThread s.cur = true)

/-- R355, R356, R71, R86, R275 to R280, R285: reads of the trap and scratch registers by a strand that may read them put their values
in flight for 3 cycles; writes change the named register and no other part of the strand, but that a TCMP above the cycle takes the
timer's bit away. -/
def Sys2Proof.Machine.TrapRegisters : Prop :=
  ∀ (sd ss : BitVec 6) (s : State), s.issue.probe = false → s.me.priv = 1 →
    let w := s.me.regs.rs ss
    Completes (.ctlrd sd 0x002) s (fun u => LandsS s u sd (s.me.epc.setWidth 64) 3 true) ∧
    Completes (.ctlrd sd 0x003) s (fun u => LandsS s u sd s.me.tval 3 true) ∧
    Completes (.ctlrd sd 0x005) s (fun u => LandsS s u sd s.me.scratch 3 true) ∧
    Completes (.ctlrd sd 0x009) s (fun u => LandsS s u sd s.me.ptroot 3 true) ∧
    Completes (.ctlrd sd 0x00C) s (fun u => LandsS s u sd (s.me.ienable.setWidth 64) 3 true) ∧
    Completes (.ctlwr 0x002 ss) s (fun u => u = s.updMe (fun st => { st with epc := w.setWidth 18 })) ∧
    Completes (.ctlwr 0x003 ss) s (fun u => u = s.updMe (fun st => { st with tval := w })) ∧
    Completes (.ctlwr 0x005 ss) s (fun u => u = s.updMe (fun st => { st with scratch := w })) ∧
    Completes (.ctlwr 0x00C ss) s (fun u => u = s.updMe (fun st => { st with ienable := w.setWidth 5 })) ∧
    Completes (.ctlwr 0x007 ss) s (fun u =>
      u = s.updMe (fun st => { st with rng := if w.setWidth 32 = 0#32 then 1 else w.setWidth 32 })) ∧
    Completes (.ctlwr 0x00D ss) s (fun u => u.me.tcmp = w ∧ (s.cycleOf s.cur < w.toNat → u.me.ipend.getLsbD 1 = false) ∧
      u.me.regs = s.me.regs ∧ u.me.flight = s.me.flight ∧ u.mem = s.mem)

/-- R355, R356, R241, R276: every read of a control register that is allowed completes with one interlocked result, the register's
value but for FPCTL and for registers that a read changes or that have no value to read; every write that is allowed completes and
leaves registers, results and stores alone. -/
def Sys2Proof.Machine.ControlAccesses : Prop :=
  ∀ (sd ss : BitVec 6) (cr : BitVec 12) (s : State), s.Acts →
    let same (u : State) : Prop := u.me.regs = s.me.regs ∧ u.me.v = s.me.v ∧ u.me.pc = s.me.pc ∧ u.me.gated = s.me.gated ∧
      u.me.storeQ = s.me.storeQ ∧ u.mem = s.mem
    (CtlAllowed s ctlReadPriv cr → Completes (.ctlrd sd cr) s (fun u => same u ∧ ∃ r, u.me.flight = s.me.flight ++ [r] ∧
      r.dst = .s sd ∧ r.lock = true ∧ r.mask = BitVec.allOnes 2048 ∧ r.seq = s.issue.seq ∧
      (cr ≠ 0x006 → cr ≠ 0x071 → cr ≠ 0x0C5 → cr ≠ 0x0C6 →
        r.val = (BitVec.ofNat 64 (s.ctlImage s.cur cr.toNat)).setWidth 2048))) ∧
    (CtlAllowed s ctlWritePriv cr → Completes (.ctlwr cr ss) s (fun u => same u ∧ u.me.flight = s.me.flight ∧
      u = s.writeCtl cr.toNat (s.me.regs.rs ss)))

/-- R355, R356, R71, R86, R241, R275 to R280, R285: CTLRD and CTLWR. -/
def Obligations.ControlRegisters : Prop := TrapRegisters ∧ ControlAccesses

/-- A start record with a field out of range or a reserved byte set (R374): IOFF, DLEN, PC0 within SLEN, STRANDS, KFLAGS, CWADDR. -/
def Sys2Proof.Machine.kBadRecord (r : Nat) : Prop :=
  2 ^ 15 ≤ fieldN r 0 4 ∨ 8192 < fieldN r 4 2 ∨ fieldN r 6 2 ≠ 0 ∨ fieldN r 8 4 ≤ fieldN r 12 4 ∨ 2 ^ 18 ≤ fieldN r 12 4 ∨
  fieldN r 16 1 = 0 ∨ 16 ≤ fieldN r 16 1 ∨ 4 ≤ fieldN r 17 1 ∨ fieldN r 18 6 ≠ 0 ∨ fieldN r 40 8 % 8 ≠ 0 ∨ fieldN r 56 8 ≠ 0

/-- R341, R103, R374, R375, R437, R438: above user privilege, BANKCFG of a ready idle bank, a FIFO one empty or forced, begins a
switch, and one that names no mode, or a bank that is not ready, switches, serves an engine or is a FIFO with entries, only sets REJ;
a TLBINV takes every translation that it names from every TLB, with the L1 lines held under it, as it
leaves, and has no more to do once its waits are over; KSTART of an aligned record that can be read answers 4 for a
field out of range, 2 for a core that is not ready and 1 for one with a strand that is not OFF, and nothing has changed but that
answer and what reading the record writes; a dictionary that fails its check gives 3 and its entry, and starts no strand; and of a record whose core may start, with a dictionary that decodes, once the strand's
earlier accesses are done, answers 0 and has started the strands of the record's mask. -/
def Obligations.PrivilegedUnits : Prop :=
  ∀ (mode : TlbMode) (sd sa sb sc : BitVec 6) (s : State), s.Acts → s.me.priv ≠ 0 →
    let clu := clusterOf (coreOf s.cur)
    let b := (s.me.regs.rs sb).toNat % 64
    let v := (s.me.regs.rs sc).toNat
    let k := s.bank clu b
    (v % 4 ≠ 3 → k.nrdy = false → k.busy = false → k.eng = false → (k.mode = .fifo → k.fifo = [] ∨ v.testBit 2 = true) → Completes (.bankcfg sb sc) s (fun u =>
      (u.bank clu b).busy = true ∧ (u.bank clu b).mode = k.mode ∧ (u.bank clu b).rej = k.rej ∧
      (u.bank clu b).target = (if v % 4 = 0 then .cache else if v % 4 = 1 then .scratchpad else .fifo) ∧
      u.me = s.me ∧ u.mem = s.mem)) ∧
    (v % 4 = 3 ∨ k.nrdy = true ∨ k.busy = true ∨ k.eng = true ∨ (k.mode = .fifo ∧ k.fifo ≠ [] ∧ v.testBit 2 = false) →
      Completes (.bankcfg sb sc) s (fun u => u = s.setBank clu b { k with rej := true })) ∧
    (State.tlbinvObs mode sa sb s = none → Completes (.tlbinv mode sa sb) s (fun u => u = s.endRequest)) ∧
    (let a := (s.me.regs.rs sa).toNat
     let x := (s.me.regs.rs sb).toNat
     let u := s.tlbRemove mode a x
     (∀ p ∈ u.ctlb, ∀ e ∈ p.2, tlbSelects mode a x e = false) ∧ (∀ p ∈ u.cores, ∀ l ∈ p.2.l1, tlbSelects mode a x l.page = false) ∧
       (∀ d e, e ∈ (u.die d).tlb ↔ e ∈ (s.die d).tlb ∧ tlbSelects mode a x e = false) ∧ u.mem = s.mem) ∧
    (∀ r, s.kRecord (s.me.regs.rs sa).toNat = .ok r → (s.me.regs.rs sa).toNat % 64 = 0 → s.poison = [] →
      let n := (s.me.regs.rs sb).toNat % 512
      let s' := s.touchSub (s.spaceOf s.cur) (s.me.regs.rs sa).toNat 64
      let both (P : State → Prop) : Prop := P s ∧ P s'
      let ready (x : State) : Prop := x.coreReady n = true
      let off (x : State) : Prop := ∀ i ∈ pathStrands n, (x.strand i).run = .off
      let answers (c : Nat) : Prop := Completes (.kstart sd sa sb) s (fun u => LockedResult s u (.s sd) (BitVec.ofNat 2048 c) ∧
        u.me.regs = s.me.regs ∧ ∃ lat, LandsS s' u sd (BitVec.ofNat 64 c) lat true)
      let goes : Prop := both ready ∧ both off ∧ s.releaseHeld s.cur .dev = false ∧ s'.ownStores = false
      s'.poison = [] → (kBadRecord r → answers 4) ∧
      (¬ kBadRecord r → both (fun x => ¬ ready x) → answers 2) ∧
      (¬ kBadRecord r → both ready → both (fun x => ¬ off x) → answers 1) ∧
      (∀ e, ¬ kBadRecord r → goes → s'.coreDict n (fieldN r 0 4) (fieldN r 4 2) = some e →
        Completes (.kstart sd sa sb) s (fun u => LockedResult s u (.s sd) (BitVec.ofNat 2048 ((3 + e * 2 ^ 32) % 2 ^ 64)) ∧ u.me.regs = s.me.regs ∧
          (∀ c, (u.core c).started = (s'.core c).started) ∧ ∀ i, (u.strand i).run = (s'.strand i).run)) ∧
      (¬ kBadRecord r → goes → s.me.run = .run → s.cur < 2048 → s'.coreDict n (fieldN r 0 4) (fieldN r 4 2) = none →
        Completes (.kstart sd sa sb) s (fun u => LockedResult s u (.s sd) 0 ∧ u.me.regs = s.me.regs ∧
          (u.core n).started = BitVec.ofNat 4 (fieldN r 16 1))))

/-- R277, R333, R341, R351, R355, R356, R362, R375, R437: a privileged operation, or an access to a control register that is above user
privilege, at user privilege takes cause 0x04 at its own bundle, and no
register and no byte of memory changes. -/
def Sys2Proof.Machine.UserPrivilegeTraps : Prop :=
  ∀ (ea : Addr) (mode : TlbMode) (sd sa sb : BitVec 6) (ab : BitVec 4) (cr : BitVec 12) (s : State), s.Alone →
    isThread s.cur = false → s.me.inh = false → s.me.priv = 0 →
    let plain : Prop := cr.toNat < 0x070 ∨ 0x072 < cr.toNat
    ∀ i, (i = .cinv ea ∨ i = .eret ∨ i = .bankcfg sa sb ∨ i = .tlbinv mode sa sb ∨ i = .abandon ab ∨ i = .kstart sd sa sb ∨
        (plain ∧ 0 < ctlReadPriv cr.toNat ∧ i = .ctlrd sd cr) ∨ (plain ∧ 0 < ctlWritePriv cr.toNat ∧ i = .ctlwr cr sa)) →
      ∃ u, exec i s = .next u ∧ u.me.cause.toNat % 256 = 0x04 ∧ u.me.epc = s.issue.off ∧ u.me.priv = 1 ∧
        u.me.inh = true ∧ u.me.regs = s.me.regs ∧ u.me.v = s.me.v ∧ u.me.flight = s.me.flight ∧ u.mem = s.mem

/-- R443, R277, R55: where an operation alone in its bundle traps, with what it saves and leaves. -/
def Obligations.OperationTraps : Prop := LentBankTraps ∧ MisalignedAccessTraps ∧ UserPrivilegeTraps

/-! ### The branch slots (R320) -/

/-- R346, R373, R419, R348, R46, R51: a branch moves the pc to its target, which for BR and CALL counts from the bundle's own
offset; it leaves the levels that do not hold the target and the squash-flagged results of earlier bundles; CALL links the
offset after the bundle, an exact sum (R8). -/
def Sys2Proof.Machine.BranchesJump : Prop :=
  ∀ (off : BitVec 22) (sa sd : BitVec 6) (s : State), s.issue.target = none →
    let rel : BitVec 18 := s.issue.off + off.setWidth 18
    let abs : BitVec 18 := (s.me.regs.rs sa).setWidth 18
    let goes (tgt : BitVec 18) (u : State) : Prop :=
      u.me.pc = tgt ∧ u.issue.target = some tgt ∧ u.me.regs = s.me.regs.leaveLoops tgt.toNat ∧ u.mem = s.mem ∧
      u.me.status = s.me.status
    Completes (.br off) s (fun u => goes rel u ∧
      u.me.flight = s.me.flight.filter (fun r => !(r.sq && r.seq < s.issue.seq && !r.ready s.issue.cycle))) ∧
    Completes (.jmp sa) s (goes abs) ∧ Completes (.ret sa) s (goes abs) ∧
    Completes (.call sd off) s (fun u => goes rel u ∧ ∃ r, r ∈ u.me.flight ∧ r.dst = .s sd ∧
      r.val = (BitVec.ofNat 64 (s.issue.off.toNat + s.issue.len)).setWidth 2048 ∧ r.due = some (s.issue.cycle + 1))

/-- The target of a branch (R346, R348, R373, R419). -/
def Sys2Proof.Machine.BranchesTo (s : State) (i : Instr) (tgt : BitVec 18) : Prop :=
  (∃ off : BitVec 22, (i = .br off ∨ ∃ sd, i = .call sd off) ∧ tgt = s.issue.off + off.setWidth 18) ∨
  (∃ sa, (i = .jmp sa ∨ i = .ret sa) ∧ tgt = (s.me.regs.rs sa).setWidth 18)

/-- R48, R321: a branch beside a taken branch does not move the pc; to another target it links nothing and sets STATUS.BRCOLL, and
with the trap of collisions enabled it is noted as the bundle's After trap of cause 0x06. -/
def Sys2Proof.Machine.BranchCollision : Prop :=
  ∀ (i : Instr) (t tgt : BitVec 18) (s : State), BranchesTo s i tgt → s.issue.target = some t →
    let kept (u : State) : Prop := u.me.pc = s.me.pc ∧ u.issue.target = some t ∧ u.mem = s.mem
    let collides (u : State) : Prop := kept u ∧ u.me.flight = s.me.flight ∧ u.me.status.getLsbD 11 = true ∧
      ∀ k, k ≠ 11 → u.me.status.getLsbD k = s.me.status.getLsbD k
    (tgt ≠ t → s.issue.bctrap = false → Completes i s collides) ∧
    (tgt ≠ t → s.issue.bctrap = true → s.issue.checked = true → s.issue.after = none → Completes i s (fun u => collides u ∧
      u.issue.after = some (Trap.of 0x06 0))) ∧
    (tgt = t → Completes i s (fun u => kept u ∧ u.me.status = s.me.status ∧
      ((∀ sd off, i ≠ .call sd off) → u.me.flight = s.me.flight)))

/-- R49 to R51, R376, R380, R381: LPSET writes the count, with strides 0, or one stride of an inactive level; LOOP opens a
level with its index 0, or with CNT 0 goes past its end unless a branch of the bundle is taken; LBREAK leaves a level and those inside it. -/
def Sys2Proof.Machine.LoopLevels : Prop :=
  ∀ (l : BitVec 3) (ar : BitVec 4) (sr : BitVec 6) (off : BitVec 22) (s : State), l.toNat < 6 → s.issue.probe = false →
    let r := s.me.regs
    let x := r.loop l.toNat
    let fin := s.issue.off.toNat + off.toNat
    (x.active = false → Completes (.lpsetCnt l sr) s (fun u => (u.me.regs.loop l.toNat).cnt = (r.rs sr).setWidth 32 ∧
      (∀ i, i < 16 → (u.me.regs.loop l.toNat).strides.getD i 0 = 0) ∧ u.me.regs.s = r.s ∧ u.me.flight = s.me.flight)) ∧
    (x.active = false → Completes (.lpsetStr l ar sr) s (fun u =>
      (u.me.regs.loop l.toNat).strides.getD ar.toNat 0 = (r.rs sr).setWidth 32 ∧ (u.me.regs.loop l.toNat).cnt = x.cnt ∧
      (∀ i, i < 16 → i ≠ ar.toNat → (u.me.regs.loop l.toNat).strides.getD i 0 = x.strides.getD i 0))) ∧
    (loopObs l off s = none → x.cnt ≠ 0 → Completes (.loop l off) s (fun u => (u.me.regs.loop l.toNat).active = true ∧
      u.me.regs.rk l = 0 ∧ (u.me.regs.loop l.toNat).fin.toNat = fin % 2 ^ 32 ∧ u.me.pc = s.me.pc)) ∧
    (loopObs l off s = none → x.cnt = 0 → s.issue.target = none → Completes (.loop l off) s (fun u =>
      u = s.updMe (fun st => { st with pc := BitVec.ofNat 18 (fin + s.bundleLen s.cur fin) }))) ∧
    (loopObs l off s = none → x.cnt = 0 → s.issue.target ≠ none → Completes (.loop l off) s (fun u => u = s)) ∧
    (x.active = true → Completes (.lbreak l) s (fun u =>
      (∀ m, l.toNat ≤ m → m < 6 → (u.me.regs.loop m).active = false) ∧ u.mem = s.mem ∧
      (s.issue.target = none → u.me.pc = BitVec.ofNat 18 (x.fin.toNat + s.bundleLen s.cur x.fin.toNat))))

/-- R46, R48 to R51, R346, R348, R373, R376, R380, R381, R419: branches, two that collide, and loop levels. -/
def Obligations.Branches : Prop := BranchesJump ∧ BranchCollision ∧ LoopLevels

/-- R436, R439, R345, R464, R372, R277: in a bundle a service call, a software trap and a breakpoint without a debugger are
noted as the bundle's After trap, of cause 0x32, 0x31 and 0x30, and YIELD, HALT and a breakpoint with a debugger as what the
end of the bundle does; nothing else changes. -/
def Sys2Proof.Machine.SystemOperationsInBundle : Prop :=
  ∀ (imm : BitVec 16) (s : State), s.issue.checked = true → s.issue.after = none →
    let noted (code tval : Nat) (u : State) : Prop := u = { s with issue := { s.issue with after := some (Trap.of code tval) } }
    Completes (.svc imm) s (noted 0x32 imm.toNat) ∧ Completes (.trap imm) s (noted 0x31 imm.toNat) ∧
    (s.issue.dbgEn = false → Completes .bkpt s (noted 0x30 0)) ∧
    (s.issue.dbgEn = true → isThread s.cur = false → Completes .bkpt s (fun u =>
      u = { s with issue := { s.issue with system := some 10 } })) ∧
    Completes .yield s (fun u => u = { s with issue := { s.issue with system := some 8 } }) ∧
    Completes .halt s (fun u => u = { s with issue := { s.issue with system := some 9 } })

/-- R436, R439, R277, R279: alone in its bundle a service call or a software trap takes its cause with its immediate as TVAL,
and EPC is the bundle that would issue next. -/
def Sys2Proof.Machine.ServiceCallEntersKernel : Prop :=
  ∀ (imm : BitVec 16) (s : State), s.issue.checked = false → isThread s.cur = false → s.me.inh = false → s.me.priv ≠ 2 →
    ∀ i code, (i = .svc imm ∧ code = 0x32 ∨ i = .trap imm ∧ code = 0x31) →
      Completes i s (fun u => u.me.cause.toNat = code ∧ u.me.tval.toNat = imm.toNat ∧ u.me.epc = s.me.pc ∧
        u.me.priv = 1 ∧ u.me.pc = s.me.tvec.extractLsb' 0 18 ∧ u.me.regs = s.me.regs ∧ u.mem = s.mem)

/-- R277, R345, R372, R436, R439, R464: the system operations. -/
def Obligations.SystemOperations : Prop := SystemOperationsInBundle ∧ ServiceCallEntersKernel

/-- R279: taking a trap outside a handler saves the return offset in EPC, the privilege and the interrupt enable in PPRIV and
PIE, the cause and TVAL, closes IE, sets INH, and continues at the kernel's or, for a machine check or from firmware, at the
firmware's handler; no general register changes. -/
def Sys2Proof.Machine.TrapEntry : Prop :=
  ∀ (st : Strand) (t : Trap) (epc : BitVec 18), st.priv < 3 →
    let up := t.code = 0x3F ∨ st.priv = 2
    let u := st.enter t epc
    u.epc = epc ∧ u.tval = BitVec.ofNat 64 t.tval ∧ u.cause.toNat % 256 = t.code % 256 ∧ u.cause.getLsbD 63 = t.intr ∧
    u.cause.getLsbD 62 = t.fq ∧ bitsN u.status.toNat 8 2 = st.priv ∧ u.status.getLsbD 5 = st.status.getLsbD 4 ∧
    u.status.getLsbD 4 = false ∧ u.status.getLsbD 10 = true ∧ (up → u.priv = 2 ∧ u.pc = st.tvec.extractLsb' 32 18) ∧
    (¬ up → u.priv = 1 ∧ u.pc = st.tvec.extractLsb' 0 18) ∧ u.regs = st.regs ∧ u.v = st.v ∧ u.flight = st.flight ∧
    (∀ k, (11 ≤ k ∨ k = 6 ∨ k = 7 ∨ k = 2 ∨ k = 3) → u.status.getLsbD k = st.status.getLsbD k)

/-- R281, R362: ERET above user privilege returns to EPC: PRIV takes PPRIV, IE takes PIE, INH is clear, and the bundle there
carries the restart mark. -/
def Sys2Proof.Machine.EretReturns : Prop :=
  ∀ s : State, s.issue.target = none → s.me.priv ≠ 0 → s.issue.probe = false →
    Completes .eret s (fun u => u.me.pc = s.issue.epc ∧ bitsN u.me.status.toNat 0 2 = bitsN s.issue.status.toNat 8 2 ∧
      u.me.status.getLsbD 4 = s.issue.status.getLsbD 5 ∧ u.me.status.getLsbD 10 = false ∧ u.me.forceMark = true ∧
      u.me.regs.s = s.me.regs.s ∧ u.me.regs.a = s.me.regs.a ∧ u.me.v = s.me.v ∧ u.mem = s.mem)

/-- R280: a trap inside a handler, with no debugger, is not entered: EPC, CAUSE and TVAL stay; where the core runs a task, every strand
of its cores goes off and the task ends with the failure value of the trap, bit 61 set; where it runs none, every strand of the core
goes off and its completion word takes that value. -/
def Sys2Proof.Machine.DoubleTrapStops : Prop :=
  ∀ (s : State) (sid : Nat) (t : Trap) (epc : BitVec 18), isThread sid = false → sid < 2048 → (s.strand sid).inh = true →
    t.code ≠ 0x3F → (s.strand sid).dbgEn = false →
    (∀ k ∈ s.tasks, some k.id = (s.core (coreOf sid)).task → bitN k.pkt (coreOf sid) = true) →
    let u := s.takeTrap sid t epc
    let why := State.failValue t.code t.tval + 2 ^ 61
    let mine := s.tasks.find? (fun x => some x.id == (s.core (coreOf sid)).task)
    (∀ k, mine = some k → (∀ c, c < 512 → bitN k.pkt c = true → (s.core c).task = some k.id →
        ∀ i ∈ pathStrands c, (u.strand i).run = .off) ∧ ∃ x ∈ u.tasks, x.id = k.id ∧ x.doomed = some why) ∧
    (mine = none → (∀ i ∈ pathStrands (coreOf sid), (u.strand i).run = .off) ∧
      (u.core (coreOf sid)).cw = (s.core (coreOf sid)).cw.map (fun w => { w with val := why })) ∧
    (u.strand sid).run = .off ∧ (u.strand sid).epc = (s.strand sid).epc ∧ (u.strand sid).cause = (s.strand sid).cause ∧
    (u.strand sid).tval = (s.strand sid).tval ∧ u.mem = s.mem

/-- R279 to R281, R362: a trap taken, its return, and a trap inside a handler. -/
def Obligations.Traps : Prop := TrapEntry ∧ EretReturns ∧ DoubleTrapStops

/-! ### Micro-ops (R387) -/

/-- A routine runs on the core whose unit acts, and fetches. -/
def Sys2Proof.Machine.Runs (s : State) (r : Routine) : Prop := (s.core s.mcore).routine = some r ∧ r.ended = false

/-- The routine after a micro-op that only changes the routine. -/
def Sys2Proof.Machine.Now (s u : State) (P : Routine → Prop) : Prop :=
  (∃ r, (u.core s.mcore).routine = some r ∧ P r) ∧ u.mem = s.mem ∧ (u.core s.mcore).acc = (s.core s.mcore).acc ∧
    u.strands = s.strands

/-- R153, R399, R394, R396, R400, R401, R393, R145: parameters, the geometry among them, epilogue, select map and loops of both levels
change the routine alone, a map once each of its words selects as many rows as the geometry says; M.SYNC waits
until every earlier micro-op is done, and M.END stops the fetch. -/
def Sys2Proof.Machine.MicroParameters : Prop :=
  ∀ (tgt : BitVec 5) (ms fsc fbi fcl : BitVec 4) (fmt : BitVec 3) (scl bias clamp gate : Bool) (imm : BitVec 32)
    (len word grp : BitVec 12) (s : State) (r : Routine), Runs s r →
    let v := (s.callM ms.toNat + (imm.signExtend 64).toNat) % 2 ^ 32
    let count := (s.callM ms.toNat + imm.toNat) % 2 ^ 32
    (tgt.toNat ≤ 17 → ms.toNat ≤ 8 → (tgt = 0 → v < 2 ^ 23 ∧ bitsN v 20 3 ≤ 5) → Completes (.mPset tgt ms imm) s (fun u => Now s u (fun q =>
      q.params.getD tgt.toNat 0 = v ∧ q.next = s.mcycle ∧ (∀ i, i ≠ tgt.toNat → q.params.getD i 0 = r.params.getD i 0)))) ∧
    (fmt.toNat ≤ 4 → (scl = true → fsc ≠ 15) → (bias = true → fbi ≠ 15) →
      Completes (.mEpi scl bias clamp gate fmt fsc fbi fcl) s (fun u => Now s u (fun q =>
        q.epi = ⟨scl, bias, clamp, gate, fmt.toNat, fsc.toNat, fbi.toNat, fcl.toNat⟩ ∧ q.params = r.params))) ∧
    (ms.toNat ≤ 8 → 0 < len.toNat → r.loop0 = none → r.loop1 = none → r.group = none → count ≠ 0 →
      Completes (.mLoop 0 ms len imm) s (fun u => Now s u (fun q =>
        q.loop0 = some ⟨r.word + 1, r.word + len.toNat, 0, count⟩ ∧ q.word = r.word + 1))) ∧
    (∀ o, ms.toNat ≤ 8 → 0 < len.toNat → r.loop0 = some o → r.loop1 = none → r.group = none → r.word + len.toNat ≤ o.last →
      count ≠ 0 → Completes (.mLoop 1 ms len imm) s (fun u => Now s u (fun q =>
        q.loop1 = some ⟨r.word + 1, r.word + len.toNat, 0, count⟩ ∧ q.loop0 = some o ∧ q.word = r.word + 1))) ∧
    (r.nOf = 48 → Completes (.mSel word 0) s (fun u => Now s u (fun q => q.map = none))) ∧
    (0 < grp.toNat → r.nOf ≠ 48 → word.toNat + grp.toNat ≤ 4096 → (∀ i, i < grp.toNat →
        let x := s.mword s.mcore (word.toNat + i)
        x < 2 ^ 48 ∧ ((List.range 48).filter (fun b => x.testBit b)).length = r.nOf) →
      Completes (.mSel word grp) s (fun u => Now s u (fun q =>
        q.map = some (word.toNat, grp.toNat) ∧ q.params = r.params))) ∧
    (r.fin ≤ s.mcycle → (s.core s.mcore).sends = 0 → Completes .mSync s (fun u => Now s u (fun q => q.next = s.mcycle))) ∧
    (s.mcycle < r.fin ∨ (s.core s.mcore).sends ≠ 0 → Completes .mSync s (fun u => Now s u (fun q => q.word = r.word ∧ s.mcycle < q.next))) ∧
    (r.group = none → r.loop0 = none → r.loop1 = none → Completes .mEnd s (fun u => Now s u (fun q => q.ended = true)))

/-- R157, R395, R398: M.GRP enters its body with the first entry of its table, or at its M.NEXTG where the entry has no rows;
M.NEXTG takes the next entry and counts the group, or ends the groups. -/
def Sys2Proof.Machine.MicroGroups : Prop :=
  ∀ (ms : BitVec 4) (mc : BitVec 3) (imm : BitVec 32) (s : State) (r : Routine) (g : MGroup), Runs s r → s.poison = [] →
    let tbl := (s.callM ms.toNat + (imm.signExtend 64).toNat) % 2 ^ 32
    let cnt := s.callM mc.toNat % 65536
    (ms.toNat ≤ 8 → r.group = none → r.loop0 = none → r.loop1 = none → tbl % 32 = 0 → tbl + 32 * cnt ≤ 2 ^ 21 → 0 < cnt →
      ∀ a, s.tileAt tbl 32 = some a → bitsN (s.readMem a 32) 0 32 ≤ 128 →
      Completes (.mGrp ms mc imm) s (fun u => Now s u (fun q => ∃ k, q.group = some k ∧ k.n = 0 ∧ k.count = cnt ∧
        k.rows = bitsN (s.readMem a 32) 0 32 ∧ (0 < k.rows → q.word = r.word + 1) ∧ (k.rows = 0 → q.word = k.last)))) ∧
    (r.group = some g → g.count ≤ g.n + 1 → Completes .mNextg s (fun u => Now s u (fun q => q.group = none) ∧
      (u.core s.mcore).gdone = ((s.core s.mcore).gdone + 1) % 2 ^ 32)) ∧
    (r.group = some g → g.n + 1 < g.count → ∀ a, s.tileAt ((g.table : Int) + 32 * ((g.n + 1 : Nat) : Int)) 32 = some a →
      bitsN (s.readMem a 32) 0 32 ≤ 128 → Completes .mNextg s (fun u => Now s u (fun q => ∃ k, q.group = some k ∧
        k.n = g.n + 1 ∧ k.rows = bitsN (s.readMem a 32) 0 32) ∧
      (u.core s.mcore).gdone = ((s.core s.mcore).gdone + 1) % 2 ^ 32))

/-- R153, R156, R157, R394 to R396, R398 to R401: the micro-ops that steer a routine. -/
def Obligations.MicroSettings : Prop := MicroParameters ∧ MicroGroups

/-- The bytes of a row that a pass over tile memory reads (R64, R143, R144): whole groups of packed elements, from the first
logical K that no earlier pass has reached to the last before the next: their offset and their number. -/
def Sys2Proof.Machine.passBytes (p : Pass) : Nat × Nat :=
  let g := packGroup p.wa
  (p.start / g.1 * g.2, (p.stop + g.1 - 1) / g.1 * g.2 - p.start / g.1 * g.2)

/-- The row of A elements that a pass reads from tile memory (R143, R154): element k of row i. -/
def Sys2Proof.Machine.passA (s : State) (r : Routine) (p : Pass) (i k : Nat) : Int :=
  let b := passBytes p
  sintN p.wa (bitsN (s.readMem ((s.tileAt (r.addr 2 0 + i * r.par 3 + b.1) b.2).getD 0) b.2) (k * p.wa - 8 * b.1) p.wa)

/-- The rows of A that a pass reads lie in tile memory (R143, R144). -/
def Sys2Proof.Machine.passFits (s : State) (r : Routine) (p : Pass) (rows : Nat) : Prop :=
  let b := passBytes p
  b.2 = 0 ∨ ∀ i, i < rows → (s.tileAt (r.addr 2 0 + i * r.par 3 + b.1) b.2).isSome = true

/-- R389, R390, R391, R392, R397, R146, R158: where no byte is poisoned and no store has met the tile memory or the words that the routine uses, M.AIN
opens a sweep at K position 0; M.BLD fetches a tile from the weight slice; M.CIN loads rows of 512 bytes into the accumulators;
M.COUT with no step of the epilogue writes a row rounded to its format to tile memory, or sends it to its slot's home, by the
outbox where that is another device (log 9); M.MAC multiplies the rows of a sweep by the front tile, block by block; and a pass
with no open sweep is a routine fault of subcode 0x0D. -/
def Obligations.MicroData : Prop :=
  ∀ (cb : BitVec 3) (rows : BitVec 8) (src : MSrc) (imm : BitVec 32) (s : State) (r : Routine) (k : Call)
    (rest : List Call), Runs s r → s.poison = [] →
    let m := rows.toNat
    let row (t : Ty) (i : Nat) (md : Mode) : Nat := packLanes t.width (roundRow t md r.fz (s.core s.mcore).mrng
      ((List.range 128).map (fun j => s.accAt cb.toNat i j))).1
    let plain : Prop := r.epi.scl = false ∧ r.epi.bias = false ∧ r.epi.clamp = false ∧ r.epi.gate = false ∧ r.epi.fmt = 0
    (m ≤ 128 → 0 < m → r.outs.getD cb.toNat 0 ≤ s.mcycle →
      Completes (.mAin cb rows false src) s (fun u => Now s u (fun q =>
        q.sweeps.find cb.toNat = some ⟨m, src, 0, []⟩ ∧ q.next = s.mcycle))) ∧
    (∀ kt lat lb a, pairOf r.wa r.wb = some (kt, lat, lb) → (r.addr 5 1 + imm.toInt) % 64 = 0 → r.bld = 0 →
      s.sliceAt (r.addr 5 1 + imm.toInt) (16 * kt * r.wb) = some a →
      Completes (.mBld imm) s (fun u => Now s u (fun q => q.bld = s.mcycle + lb ∧ q.next = s.mcycle + 1 ∧
        q.back = some ⟨(r.addr 5 1 + imm.toInt).toNat, 16 * kt * r.wb, s.readMem a (16 * kt * r.wb)⟩))) ∧
    (m ≤ 128 → 0 < m → r.outs.getD cb.toNat 0 ≤ s.mcycle → s.tileStored s.mcore = [] →
      (∀ i, i < m → (r.addr 7 2 + i * r.par 8) % 4 = 0 ∧ (s.tileAt (r.addr 7 2 + i * r.par 8) 512).isSome = true) →
      Completes (.mCin cb rows .tile) s (fun u => u.mem = s.mem ∧ u.strands = s.strands ∧
        (∃ q, (u.core s.mcore).routine = some q ∧ q.next = s.mcycle + 1) ∧
        ∀ i j p, i < m → j < 128 → s.tileAt (r.addr 7 2 + i * r.par 8) 512 = some p →
          u.accAt cb.toNat i j = bitsN (s.readMem p 512) (32 * j) 32)) ∧
    (plain → s.wordsStored s.mcore = none → r.done.find cb.toNat = none → r.addr 7 2 % 4 = 0 → ∀ p, s.tileAt (r.addr 7 2) 512 = some p →
      Completes (.mCout cb 1 .tile) s (fun u => u.readMem p 512 = row .f32 0 r.rm % 2 ^ 4096 ∧ SameMemoryBut s u p 512 ∧
        (u.core s.mcore).acc = (s.core s.mcore).acc ∧
        ∃ q, (u.core s.mcore).routine = some q ∧ q.next = s.mcycle + 1)) ∧
    (plain → s.wordsStored s.mcore = none → r.done.find cb.toNat = none → ∀ p dev die, s.tileAt (r.addr 9 3) 8 = some p →
      s.rankDie (dieOfCore s.mcore) (bitsN (s.readMem p 8) 20 12) = some (dev, die) → dev ≠ s.devid.toNat % 4096 →
      Completes (.mCout cb 1 .comb) s (fun u => u.mem = s.mem ∧ u.strands = s.strands ∧ u.outbox = s.outbox ++
        [.engine dev die 0 [s.readMem p 8 % 2 ^ 20, (r.addr 7 2 % 2 ^ 64).toNat, s.devid.toNat % 4096, s.mcore, row .bf16 0 .rne]] ∧
        (u.core s.mcore).sends = (s.core s.mcore).sends + 1)) ∧
    (∀ w t kt cost lb p, r.sweeps.find cb.toNat = some w → w.src = .tile → w.rows ≤ 128 → r.bld = 0 → r.array ≤ s.mcycle →
      r.back.or r.front = some t → pairOf r.wa r.wb = some (kt, cost, lb) → s.planPass r w t.data kt = .ok p →
      s.tileStored s.mcore = [] → passFits s r p w.rows → s.scaleFault r p w.rows true = false → Completes (.mMac cb) s (fun u =>
        u.mem = s.mem ∧ u.strands = s.strands ∧
        (∃ q, (u.core s.mcore).routine = some q ∧ q.front = some t ∧ q.array = s.mcycle + w.rows * cost) ∧
        ∀ i j, i < w.rows → j < 128 → u.accAt cb.toNat i j = (p.element (passA s r p i)
          (fun b => s.readMem ((s.tileAt ((r.par 4 : Int) + 128 * b + i) 1).getD 0) 1)
          (fun b => s.readMem ((s.sliceAt ((r.par 6 : Int) + 128 * b + j) 1).getD 0) 1) j (s.accAt cb.toNat i j)
          ((s.core s.mcore).psum.getD (cb.toNat * 16384 + i * 128 + j) 0)).1 % 2 ^ 32)) ∧
    (r.sweeps.find cb.toNat = none → (s.core s.mcore).calls = k :: rest → Completes (.mMac cb) s (fun u =>
      (u.core s.mcore).routine = none ∧ (u.core s.mcore).calls = rest ∧ (u.core s.mcore).fsub = 0x0D ∧
      (u.strand k.sid).reports = (s.strand k.sid).reports ++
        [Trap.of 0x20 (fields [(36, 0), (24, k.idx), (16, 0x0D), (0, r.word % 4096)])]))

/-! ### Events of strands, stores and memory -/

/-- R21 to R23, R20, R478, R372: at a switch point the strand in RUN whose quantum or whose hold has run out gives the path up while
another is READY, and keeps it with its quantum restarted while none is; its gated stores leave with it (R119); a strand whose wait
is over is READY or in RUN. A HALT once its bundle is complete makes the strand HALTED with nothing in its data queue where no
element of it is outstanding or parked and no release store waits; else it holds the issue path with the strand as it is (that a
waiting HALT holds, and waits for release stores, is the model's choice, log 37). -/
def Obligations.SelectorEvents : Prop :=
  ∀ (path sid : Nat) (s : State),
    let st := s.strand sid
    let woken (u : State) : Prop := ((u.strand sid).run = .ready ∨ (u.strand sid).run = .run) ∧
      (u.strand sid).wait = .none ∧ (u.strand sid).regs = st.regs ∧ (u.strand sid).pc = st.pc ∧ u.mem = s.mem
    (s.running path = some sid → 256 ≤ st.qcount → s.otherReady sid = false →
      Completes (.quantumExpiry path) s (fun u => u = s.updStrand sid (fun st => { st with qcount := 0 }))) ∧
    (s.running path = some sid → 256 ≤ st.qcount → s.otherReady sid = true →
      Completes (.quantumExpiry path) s (fun u => (u.strand sid).run = .ready ∧ (u.strand sid).regs = st.regs ∧
        (u.strand sid).pc = st.pc ∧ u.mem = s.mem)) ∧
    (∀ t, s.running path = some sid → st.holdFrom = some t → t + 64 ≤ s.cycleOf sid → s.otherReady sid = true →
      Completes (.holdTimeout path) s (fun u => (u.strand sid).run = .waiting ∧ (u.strand sid).wait = .hold ∧
        (u.strand sid).storeQ = st.storeQ ++ st.gated ∧ (u.strand sid).gated = [] ∧ (u.strand sid).forceMark = true ∧
        (u.strand sid).regs = st.regs ∧ (u.strand sid).pc = st.pc ∧ u.mem = s.mem)) ∧
    (st.run = .waiting → st.wait = .hold → Completes (.holdEnd sid) s woken) ∧
    (s.wakeDue sid = true → Completes (.waitConditionMet sid) s woken) ∧
    (sid = s.cur → s.issue.checked = false →
      let ended : Prop := st.aq = [] ∧ (s.core (coreOf sid)).oldestParked sid = none ∧ ∀ p ∈ st.gated ++ st.storeQ, p.rel = none
      (ended → Completes .halt s (fun u => (u.strand sid).run = .halted ∧ (u.strand sid).dq = [] ∧
        (u.strand sid).halting = false ∧ (u.strand sid).regs = st.regs ∧ u.mem = s.mem)) ∧
      (¬ ended → Completes .halt s (fun u => (u.strand sid).run = st.run ∧ (u.strand sid).halting = true ∧
        (u.strand sid).holdFrom ≠ none ∧ (u.strand sid).pc = s.issue.off ∧ (u.strand sid).dq = st.dq ∧
        (u.strand sid).storeQ = st.storeQ ++ st.gated ∧ (u.strand sid).regs = st.regs ∧ u.mem = s.mem)))

/-- R116, R100, R112, R138: the store at the head of a strand's queue becomes visible when it may: in memory other than device
registers and FIFO ports, where its address may still be written, on bytes that no unit works on (log 21), its enabled bytes are
written at its address, every other byte reads as before, and the store leaves the queue. With PASS = 1 it may leave the queue
before the leases of its line end, and is visible from the cycle after they have. -/
def Obligations.StoreBecomesVisible : Prop :=
  ∀ (sid : Nat) (s : State) (p : PStore) (rest : List PStore),
    let a := p.pa % 2 ^ 52
    let late := s.passTime sid p
    let seen (u : State) : Prop := SameMemoryBut s u a p.size ∧
      (∀ i, i < p.size → byteAt u.mem (a + i) = if p.bmask.testBit i then BitVec.ofNat 8 (p.data / 256 ^ i)
        else byteAt s.mem (a + i)) ∧ (u.strand sid).regs = (s.strand sid).regs
    p.kind = .write → s.isRemote p.pa = false → s.drainFails p = false → (∀ o, regionOf a ≠ .mmio o) →
    s.unclashed a p.size = true →
    ((s.strand sid).storeQ = p :: rest → s.drainReady sid p = true →
      (s.passes p = false ∨ late ≤ s.homeCycle a →
        Completes (.storeDrain sid) s (fun u => (u.strand sid).storeQ = rest ∧ seen u) ∧
        (s.l2mode = true → s.passedDue sid = none →
          Completes (.leaseWaitEnd sid) s (fun u => (u.strand sid).storeQ = rest ∧ seen u))) ∧
      (s.passes p = true → s.homeCycle a < late → Completes (.storeDrain sid) s (fun u =>
        (u.strand sid).storeQ = rest ∧ (u.strand sid).passed = (s.strand sid).passed ++ [(late, p)] ∧ u.mem = s.mem))) ∧
    (s.passedDue sid = some p → Completes (.leaseWaitEnd sid) s (fun u =>
      (u.strand sid).passed = (s.strand sid).passed.drop 1 ∧ seen u))

/-- R97, R100: what the directory holds of a line after each of its events, in normal service, state by state of R97's table (0 I, 1 S,
2 E, 3 M, 4 O, with the owner and the sharers): a read and a write by a cluster, a write-back by the owner and the eviction of a clean
copy; a lease that has run out is gone, and where nothing has waited for it no byte of memory changes. That an owner's own read, and
an event of a cluster that does not hold the line so, leave the entry is the model's reading (log 41). -/
def Sys2Proof.Machine.DirectoryAndLeases : Prop :=
  ∀ (line q e : Nat) (s : State), s.l2mode = false →
    let is (d : Dir) (u : State) : Prop := u.dirOf line = d ∧ u.mem = s.mem ∧ u.strands = s.strands
    let old := s.dirOf line
    let ow := old.2.1
    let sh := old.2.2
    let read (d : Dir) : Prop := Completes (.directoryRead line q) s (is d)
    let back (d : Dir) : Prop := Completes (.directoryWriteback line q) s (is d)
    let evict (d : Dir) : Prop := Completes (.directoryCleanEviction line q) s (is d)
    (old.1 = 0 → read (2, q, 0)) ∧ (old.1 = 1 → read (1, 0, sh ||| 2 ^ q)) ∧
    (old.1 = 2 → ow ≠ q → read (1, 0, 2 ^ ow ||| 2 ^ q)) ∧ (old.1 = 3 → ow ≠ q → read (4, ow, 2 ^ q)) ∧
    (old.1 = 4 → ow ≠ q → read (4, ow, sh ||| 2 ^ q)) ∧ (2 ≤ old.1 → ow = q → read old) ∧
    Completes (.directoryWrite line q) s (is (3, q, 0)) ∧
    (old.1 = 3 → ow = q → back (0, 0, 0)) ∧ (old.1 = 4 → ow = q → sh ≠ 0 → back (1, 0, sh)) ∧
    (old.1 = 4 → ow = q → sh = 0 → back (0, 0, 0)) ∧ (ow ≠ q ∨ (old.1 ≠ 3 ∧ old.1 ≠ 4) → back old) ∧
    (old.1 = 2 → ow = q → evict (0, 0, 0)) ∧
    (∀ left, old.1 = 1 → (∀ k, left.testBit k = (sh.testBit k && decide (k ≠ q))) →
      evict (if left = 0 then (0, 0, 0) else (1, 0, left))) ∧
    (old.1 ≠ 1 → old.1 ≠ 2 ∨ ow ≠ q → evict old) ∧
    (s.leases.find line = some e → e < s.homeCycle (line * 64) → s.hostHeld = [] → s.heldWords = [] → s.heldStores = [] →
      Completes (.leaseExpiry line) s (fun u => u.leases.find line = none ∧ u.mem = s.mem ∧ u.strands = s.strands))

/-- R99, R101, R103, R110: a switch of the L2 mode, of a bank and of the bias of a region, at its start and at its end; a region
goes to host bias once no page lock covers it. Where no access has waited at the homes, no byte of memory changes but those of a
bank. -/
def Sys2Proof.Machine.ModeSwitches : Prop :=
  ∀ (value : Word) (clu b region : Nat) (s : State),
    let k := s.bank clu b
    (s.l2busy = false → Completes (.l2ModeSwitch value) s (fun u => u.l2busy = (value.getLsbD 0 != s.l2mode) ∧
      u.l2mode = s.l2mode ∧ u.lease = value.extractLsb' 16 16 ∧ u.pass = value.getLsbD 2 ∧ u.mem = s.mem)) ∧
    (s.l2busy = true → Completes .l2ModeSwitchDone s (fun u => u.l2busy = false ∧ u.l2mode = !s.l2mode ∧
      (s.hostHeld = [] → s.heldWords = [] → s.heldStores = [] → u.dir = [] ∧ u.leases = [] ∧ u.ways = [] ∧ u.mem = s.mem))) ∧
    (k.busy = true → k.busyEnd ≤ (s.die (clu / 16)).cycle → k.target ≠ k.mode → Completes (.bankSwitchDone clu b) s (fun u =>
      (u.bank clu b).mode = k.target ∧ (u.bank clu b).busy = false ∧ (u.bank clu b).fifo = [] ∧
      (∀ x, 0x20000000000 + clu * 2 ^ 25 + b * 2 ^ 19 ≤ x → x < 0x20000000000 + clu * 2 ^ 25 + b * 2 ^ 19 + 2 ^ 19 →
        byteAt u.mem x = 0) ∧ SameMemoryBut s u (0x20000000000 + clu * 2 ^ 25 + b * 2 ^ 19) (2 ^ 19))) ∧
    (s.biasBusy = false → region < 393216 →
      Completes (.biasFlipToHost region) s (fun u => u.biasBusy = true ∧ u.biasTgt = true ∧
        u.biasRegion.toNat = region ∧ u.mem = s.mem) ∧
      Completes (.biasFlipToDevice region) s (fun u => u.biasBusy = true ∧ u.biasTgt = false ∧
        u.biasRegion.toNat = region ∧ u.mem = s.mem)) ∧
    (s.biasBusy = true → s.biasTgt = true → s.regionLocked s.biasRegion.toNat = false → Completes .biasFlipDone s (fun u =>
      u.biasBusy = false ∧ u.biasAck = true ∧ s.biasRegion.toNat ∈ u.hostbias ∧
      (s.hostHeld = [] → s.heldWords = [] → s.heldStores = [] → u.mem = s.mem))) ∧
    (s.biasBusy = true → s.biasTgt = false → Completes .biasFlipDone s (fun u =>
      u.biasBusy = false ∧ u.biasAck = true ∧ s.biasRegion.toNat ∉ u.hostbias ∧
      (s.hostHeld = [] → s.heldWords = [] → s.heldStores = [] → u.mem = s.mem)))

/-- R97 to R103, R110: the directory, leases and the modes of memory. -/
def Obligations.MemoryModes : Prop := DirectoryAndLeases ∧ ModeSwitches

/-- R100, R101, R110, R111, R292, R480, R291, R108, R294: a read of HBM by the host, where no mode switch or flip holds it, answers its
bytes, and a write over bytes that no unit works on and no lease covers is visible and changes no other byte; one that is held waits;
a register write is that of MMIO; a unit counts a corrected error; a page lock whose range translates under PLKROOT and the ASID of
PLKCTL takes the lowest free entry of its die, with the physical ranges, and answers with its number; one whose range does not, or
that finds no entry, answers ERR; one that a mode switch holds waits; and one that is there is released. -/
def Obligations.HostAndErrorEvents : Prop :=
  ∀ (a n v off size unit : Nat) (w : Word) (s : State),
    (s.hostHeld = [] → s.homeBusy a = false → a + n ≤ 0xC000000000 → s.stackOff a = false →
      Completes (.hostMemAccess (.read a n)) s (fun u => u = { s with answer := s.readMem a n }) ∧
      (v < 256 ^ n → s.unclashed a n = true → s.writeWaits a n = false → Completes (.hostMemAccess (.write a n v)) s (fun u =>
        u.readMem a n = v ∧ SameMemoryBut s u a n ∧ ∀ i, (u.strand i).regs = (s.strand i).regs))) ∧
    (s.hostHeld = [] → s.homeBusy a = true → ∀ acc, (acc = .read a n ∨ acc = .write a n v) →
      Completes (.hostMemAccess acc) s (fun u => u = { s with hostHeld := [acc] })) ∧
    (s.hostHeld = [] → s.writeWaits a n = true →
      Completes (.hostMemAccess (.write a n v)) s (fun u => u = { s with hostHeld := [.write a n v] })) ∧
    Completes (.registerWrite off size v) s (fun u => u = s.mmioWrite off size v true) ∧
    (unit < 688 → s.secnt.getD unit 0 < 2 ^ 32 - 1 → Completes (.softError unit) s (fun u =>
      u.secnt.getD unit 0 = s.secnt.getD unit 0 + 1 ∧ u.mem = s.mem)) ∧
    (let d := bitsN w.toNat 60 2
     let c : Space := { asid := bitsN w.toNat 48 12, base := bitsN s.plkroot.toNat 15 37 * 2 ^ 15, en := true, priv := 1, die := d, clu := none }
     let r := (false, s.plkva.toNat, s.plklen.toNat)
     let refused : Prop := Completes (.pageLockTake w) s (fun u => u.plkctl.getLsbD 32 = false ∧ u.plkctl.getLsbD 33 = true ∧
       bitsN u.plkctl.toNat 0 12 = w.toNat % 2 ^ 12 ∧ u.mem = s.mem ∧ u.dies = s.dies ∧ u.strands = s.strands)
     (s.l2busy = true → Completes (.pageLockTake w) s (fun u => u = { s with heldEvents := s.heldEvents ++ [.pageLockTake w] })) ∧
     (s.l2busy = false → State.freeLock (s.die d) = none → refused) ∧
     (∀ e, s.l2busy = false → s.region c r = .error e → refused) ∧
     (∀ l i, s.l2busy = false → s.region c r = .ok l → State.freeLock (s.die d) = some i → Completes (.pageLockTake w) s (fun u =>
       u.plkctl.getLsbD 32 = false ∧ u.plkctl.getLsbD 33 = false ∧ bitsN u.plkctl.toNat 0 12 = i ∧
       (u.die d).locks = (s.die d).locks ++ [(i, ⟨c.asid, s.plkva.toNat, s.plklen.toNat, l.map (·.1), 0⟩)] ∧
       u.mem = (s.commitRegions c [r]).mem ∧ ∀ k, (u.strand k).regs = (s.strand k).regs))) ∧
    ((s.die (bitsN w.toNat 60 2)).locks.any (fun l => l.1 == w.toNat % 2 ^ 12) = true →
      Completes (.pageLockRelease w) s (fun u => (u.plkctl.getLsbD 33 = false) ∧ u.mem = s.mem ∧
        (u.die (bitsN w.toNat 60 2)).locks.all (fun l => l.1 != w.toNat % 2 ^ 12) = true))

/-! ### Events of the fabric -/

/-- R203, R204: a request of a flow that has executed its number already has no effect again and is acknowledged: nothing but
the acknowledgement on its way changes. -/
def Sys2Proof.Machine.RequestsActOnce : Prop :=
  ∀ (p : Packet) (f : RxFlow) (op : Nat) (i : Packet → Instr) (s : State),
    (op = 1 ∧ i = .remoteLoad ∨ op = 2 ∧ i = .remoteStore ∨ op = 3 ∧ i = .remoteAtomic ∨ op = 4 ∧ i = .remoteCancel) →
    State.requestOk { p with op } = true → s.rxflow p.src p.flow = some f → f.executed p.psn = true →
    Completes (i p) s (fun u => u = s.sendAck p.die f)

/-- R204, R206, R207, R203: a request of another device whose turn it is, in a flow that this device knows or has room for, to memory
that takes it, acts once: a load answers the bytes, a store over bytes that no unit works on writes its enabled bytes and no other,
and with no byte enabled none, an atomic writes its new value and answers the old one, and a cancel writes none; all count as
executed. -/
def Sys2Proof.Machine.RemoteRequestsAct : Prop :=
  ∀ (p : Packet) (f : RxFlow) (a : Nat) (s : State),
    (s.rxflow p.src p.flow = some f ∨
      s.rxflow p.src p.flow = none ∧ s.rxflows.length < 8192 ∧ f = ⟨p.src, p.flow, 0, 0, 0, []⟩) →
    f.executed p.psn = false → f.dist p.psn < 64 → p.size ≤ 6 → f.depMet p = true →
    let n := 2 ^ p.size
    let executed (u : State) : Prop := ∃ g, u.rxflow p.src p.flow = some g ∧ g.executed p.psn = true
    let answered (u : State) (v : Nat) : Prop := ∃ t ∈ (u.txflow p.src (128 + p.flow % 64)).pkts,
      t.pkt.op = 0 ∧ t.pkt.tag = p.tag ∧ t.pkt.aop = 0 ∧ t.pkt.data = v
    (s.targetReach p.die .read n p.addr = some (.mem a, .fault 0) → s.homeBusy a = false → s.poisoned a n = false →
      Completes (.remoteLoad p) s (fun u => u.mem = s.mem ∧ u.strands = s.strands ∧ executed u ∧ answered u (s.readMem a n))) ∧
    (p.bmask % 2 ^ n ≠ 0 → s.targetReach p.die .write n p.addr = some (.mem a, .fault 0) →
      s.requestWaits { p with op := 2 } (.mem a) = false → s.unclashed a n = true → Completes (.remoteStore p) s (fun u =>
        SameMemoryBut s u a n ∧ executed u ∧ ∀ i, i < n → byteAt u.mem (a + i) =
          if p.bmask.testBit i then BitVec.ofNat 8 (p.data / 256 ^ i) else byteAt s.mem (a + i))) ∧
    (p.bmask % 2 ^ n = 0 → Completes (.remoteStore p) s (fun u => u.mem = s.mem ∧ u.strands = s.strands ∧ executed u)) ∧
    (let w := aopBytes p.aop
     let r := atomicEval p.aop (s.readMem a w) (s.readMem (a + w) w) (p.data % 2 ^ (8 * w)) (p.data2 % 2 ^ (8 * w))
     aopOk p.aop = true → inHbm a = true → s.targetReach p.die .atomic n p.addr = some (.mem a, .fault 0) →
      s.requestWaits { p with op := 3 } (.mem a) = false → s.poisoned a n = false → s.unclashed a w = true →
      Completes (.remoteAtomic p) s (fun u => executed u ∧ answered u (s.readMem a w + b2n r.2 * 2 ^ 64) ∧
        SameMemoryBut s u a w ∧ (∀ v, r.1 = some v → u.readMem a w = v % 2 ^ (8 * w)) ∧ (r.1 = none → u.mem = s.mem))) ∧
    Completes (.remoteCancel p) s (fun u => u.mem = s.mem ∧ u.strands = s.strands ∧ executed u)

/-- R203, R204, R206, R207: requests of other devices. -/
def Obligations.RemoteRequests : Prop := RequestsActOnce ∧ RemoteRequestsAct

/-- R203, R205, R206, R208, R204: an acknowledgement of a flow's one packet ends it and moves the window, and one for a flow with
nothing outstanding changes nothing; the response that a strand's load waits for is given to it, and one that has come before is
only acknowledged again; a packet that has timed out, or whose wait for a retry is over, is sent again, and one that is gone is
not. -/
def Obligations.AnswersOfRequests : Prop :=
  ∀ (a : AckPkt) (r : RespPkt) (f : RxFlow) (dst flow psn : Nat) (p : TxPkt) (t : TxFlow) (q : Pend) (s : State),
    let sentAgain (u : State) : Prop := u.inbox = s.inbox ++ [.packetRoute p.pkt.die (cellOf dst p.pkt)] ∧ u.mem = s.mem ∧
      u.strands = s.strands
    ((s.txflow a.src a.flow).pkts = [p] → p.sent ≠ 0 → p.waits = false → ackCovers a p.psn = true →
      psnDist a.base (s.txflow a.src a.flow).base < 32768 → Completes (.ackReceived a) s (fun u => u.mem = s.mem ∧
        u.strands = s.strands ∧ (u.txflow a.src a.flow).pkts = [] ∧ (u.txflow a.src a.flow).base = a.base)) ∧
    ((s.txflow a.src a.flow).pkts = [] → Completes (.ackReceived a) s (fun u => u = s)) ∧
    (s.rxflow r.src r.flow = some f → f.executed r.psn = true →
      Completes (.responseReceived r) s (fun u => u = s.sendAck r.die f)) ∧
    (s.rxflow r.src r.flow = some f → f.executed r.psn = false → f.dist r.psn < 64 → s.txflows = [t] → t.dst = r.src →
      t.pkts = [p] → p.waits = true → p.pkt.tag % 2 ^ 32 = r.tag → p.pkt.op = 1 → p.owner < 4095 → r.status = 0 →
      (s.strand p.owner).request = some q → q.sent = true → q.tag = p.pkt.tag / 4 →
      Completes (.responseReceived r) s (fun u => u.mem = s.mem ∧ (u.strand p.owner).request =
        some { q with got := SMap.insert q.got (p.pkt.tag % 4) (r.data % 2 ^ (8 * 2 ^ p.pkt.size)) } ∧
        (u.strand p.owner).regs = (s.strand p.owner).regs)) ∧
    (s.txPkt dst flow psn = some p → s.timedOut p = true → p.pkt.op ≠ 0 → p.cancelled = false →
      p.timeouts < max 1 s.rtxlim.toNat → Completes (.ackTimeout dst flow psn) s (fun u => sentAgain u ∧
        (u.txPkt dst flow psn).map (·.timeouts) = some (p.timeouts + 1))) ∧
    (s.txPkt dst flow psn = some p → s.retryDue p = true → Completes (.rnrRetry dst flow psn) s (fun u => sentAgain u ∧
      (u.txPkt dst flow psn).map (·.rnrUntil) = some none)) ∧
    ((s.txflow dst flow).pkts = [] → Completes (.ackTimeout dst flow psn) s (fun u => u = s) ∧
      Completes (.rnrRetry dst flow psn) s (fun u => u = s))

/-! ### Sparse regions (R164 to R190) -/

/-- R179, R430, R190: SPLD of a descriptor and key that pass their checks answers the element of the leaf that covers the key, or 0,
in the time of a lookup, after the strand's queued loads. R180, R181, R432, R427: SPST and SPADD, when their unit has answered, are
done, SPADD with the old element, and change nothing else. -/
def Sys2Proof.Machine.SparseElements : Prop :=
  ∀ (o : OrdSc) (sd sk sv : BitVec 6) (as : BitVec 4) (s : State),
    let r := s.me.regs
    let c := s.spaceOf s.cur
    let va := (r.ra as).toNat
    let key := (r.rs sk).toNat
    let val := (r.rs sv).toNat
    (∀ d a x path n leaf t, s.Acts → s.checkDesc c .sparseR va = .ok (d, a, x) → keyBad d key = false →
      s.findLeaf c .sparseR ⟨d, [], [], 0⟩ key = .ok (path, n, leaf, t) → s.loadHeld a = false →
      (s.biasBusy && s.biasTgt) = false → Completes (.spld o sd as sk) s (fun u =>
        let w := ((s.touchTree c x t).useRegion c d a).flushLoads s.cur
        LandsS w u sd (extendTy d.ty ((State.valueIn leaf key).getD 0)) (30 + 12 * (d.height + 1)) true ∧
        u.me.regs = r ∧ u.me.v = s.me.v ∧ u.me.gated = s.me.gated ∧ u.mem = (s.touchTree c x t).mem)) ∧
    (s.Acts → s.Answered (.oryx .st va key val) → Completes (.spst o as sk sv) s (fun u => u = s.endRequest)) ∧
    (s.Acts → s.Answered (.oryx .add va key val) → Completes (.spadd o sd as sk sv) s (fun u =>
      LandsS s.endRequest u sd (BitVec.ofNat 64 (s.answered (.oryx .add va key val) 0 8)) 1 true))

/-- R185, R428, R186, R431, R190: SPCUR of a descriptor and key that pass their checks puts a new cursor in one relaxed store of 32
bytes; SPNEXT, once the strand's queued loads have performed, of a cursor that has ended gives zeros and a false guard and stores nothing; of another it gives the next pair and a
true guard and stores the cursor moved on, or zeros and a false guard and the cursor ended; while another strand's step on the same
cursor is not visible, what it gives and stores is free. -/
def Sys2Proof.Machine.SparseCursors : Prop :=
  ∀ (o : OrdSc) (sk sv : BitVec 6) (as ac gd : BitVec 4) (s : State) (pa ty : Nat) (e : Option TlbEntry) (fresh : Bool),
    let r := s.me.regs
    let c := s.spaceOf s.cur
    let va := (r.ra as).toNat
    let key := (r.rs sk).toNat
    let cva := (r.ra ac).toNat
    let k := s.cursorAt cva
    let w0 := (s.commitXlat c .read (s.xlat c .read cva)).flushLoads s.cur
    let three (s u : State) (k v : Word) (g : Bool) (lat : Nat) : Prop :=
      let n := s.me.flight.length
      ∃ p q r, LandsS s p sk k lat true ∧ LandsS p q sv v lat true ∧ LandsG q r gd g lat true ∧
        u = r.updMe (fun st => { st with flight := st.flight.take n ++ (st.flight.drop n).map (fun x => { x with step := true }) })
    let stored (w u : State) (data : Nat) : Prop := ∀ pa ty y a, w.access c .write 32 cva = .ok (pa, ty, .mem a, y) →
      ∃ p, u.me.gated = s.me.gated ++ [p] ∧ p.kind = .write ∧ p.va = cva ∧ p.pa = pa ∧ p.size = 32 ∧
        p.bmask = 2 ^ 32 - 1 ∧ p.rel = none ∧ p.data = data
    s.Acts → cva % 32 = 0 → s.xlat c .write cva = .ok pa ty e fresh → s.placeOk pa ty = true →
    (∀ d a x, s.checkDesc c .sparseR va = .ok (d, a, x) → keyBad d key = false → Completes (.spcur ac as sk) s (fun u =>
      let w := (s.commitXlat c .sparseR x).useRegion c d a
      u.me.regs = r ∧ u.me.flight = s.me.flight ∧ stored w u (va + key * 2 ^ 64))) ∧
    (s.loadHeld pa = false → bitN k 193 = true → Completes (.spnext o sk sv gd ac) s (fun u => three w0 u 0 0 false 5)) ∧
    (∀ e b y q d a x, s.loadHeld pa = false → bitN k 193 = false → s.checkDesc c .sparseR (k % 2 ^ 64) = .ok (e, b, y) →
      s.nextKey c e k = .ok q → s.l2busy = false → (s.biasBusy && s.biasTgt) = false →
      w0.checkDesc c .sparseR (k % 2 ^ 64) = .ok (d, a, x) →
      let w := w0.useRegion c d a
      let lat := 30 + 12 * (d.height + 1)
      (w.cursorRaced cva = true → Completes (.spnext o sk sv gd ac) s (fun u => u.me.regs = r ∧
        (∃ p a b g, three p u a b g lat) ∧ ∃ l, u.me.gated = s.me.gated ++ l ∧ ∀ p ∈ l, p.va = cva ∧ p.size = 32)) ∧
      (∀ t, w.cursorRaced cva = false → w.nextKey c d k = .ok (none, t) → Completes (.spnext o sk sv gd ac) s (fun u =>
        ∃ k', bitsN k' 0 193 = bitsN k 0 193 ∧ bitN k' 193 = true ∧ u.me.regs = r ∧ stored (w.touchTree c x t) u k' ∧
          three ((w.touchTree c x t).storeCursor cva k') u 0 0 false lat)) ∧
      (∀ key v leaf ver t, w.cursorRaced cva = false → w.nextKey c d k = .ok (some (key, v, leaf, ver), t) →
        Completes (.spnext o sk sv gd ac) s (fun u =>
          ∃ k', bitsN k' 0 64 = bitsN k 0 64 ∧ bitsN k' 64 64 = key % 2 ^ 64 ∧ bitsN k' 128 32 = leaf % 2 ^ 32 ∧
            bitsN k' 160 32 = ver % 2 ^ 32 ∧ bitN k' 192 = true ∧ bitN k' 193 = false ∧ u.me.regs = r ∧
            stored (w.touchTree c x t) u k' ∧
            three ((w.touchTree c x t).storeCursor cva k') u (BitVec.ofNat 64 key) (extendTy d.ty v) true lat)))

/-- R179 to R181, R185, R186, R190, R427, R428, R430 to R432: the operations of sparse regions but the densifying copy. -/
def Obligations.SparseOperations : Prop := SparseElements ∧ SparseCursors

/-! ### Routers and links (R191 to R214) -/

/-- R197, R199, R194, R195, R200: a circuit cell waits at its input, and a ninth is dropped and counted, the link it came over being
kept where its circuit is claimed here (log 23); a packet waits for the
output that its entry or its escape gives it, of several open outputs of its entry for one with the fewest cells waiting (the model's
choice, log 35), one for this device for output 7, and one with no hop left is counted. A cell that an
output has ready leaves it: the circuit cell of the slot's entry first, else a sprayed one, which loses a hop; it joins the line of
its link with the next sequence number, or comes to the next die over a bridge, or goes to its home from output 7; a circuit cell for
a link that is down is counted. An output with no cell ready sends none. -/
def Obligations.RouterCells : Prop :=
  ∀ (die port out : Nat) (c : Cell) (q : QCell) (s : State),
    let d := s.die die
    let e := d.routeEnt (bitsN c.hdr 48 12)
    let waits := (d.circ.filter (fun q => q.input == port)).length
    let same (u : State) : Prop := u.mem = s.mem ∧ u.strands = s.strands ∧ u.cores = s.cores
    let onLink (u : State) (hdr : Nat) : Prop := out < 4 →
      let l := s.link die out
      ∃ lc, (u.link die out).line = l.line ++ [lc] ∧ bitsN lc.trailer 36 12 = (l.lseq + 1) % 4096 ∧
        (u.link die out).lseq = (l.lseq + 1) % 4096 ∧
        (l.txOn = false → lc.hdr = hdr ∧ lc.payload = q.cell.payload % 2 ^ 1024 ∧ lc.tag = crc64 hdr q.cell.payload ∧
          u.inbox = s.inbox)
    let goes (u : State) (hdr : Nat) : Prop := 4 ≤ out → out < 7 → hdrOk hdr = true → u.inbox = s.inbox ++
      [if cellKind hdr = 1 then .circuitCellArrival (State.bridgeTo die out).1 (State.bridgeTo die out).2 ⟨hdr, q.cell.payload⟩
        else .packetRoute (State.bridgeTo die out).1 ⟨hdr, q.cell.payload⟩]
    (hdrOk c.hdr = true → cellKind c.hdr = 1 → waits < 8 → Completes (.circuitCellArrival die port c) s (fun u =>
      u = (s.markVia die port c).updDie die (fun d => { d with circ := d.circ ++ [⟨port, 0, d.slot, c, false, none⟩] }))) ∧
    (hdrOk c.hdr = true → cellKind c.hdr = 1 → 8 ≤ waits → Completes (.circuitCellArrival die port c) s (fun u =>
      u = (s.markVia die port c).updDie die (fun d => { d with covf := min 65535 (d.covf + 1) }))) ∧
    (out < 7 → s.sendReady die out = true → s.circuitReady die out = some q → s.portOpen die out = true →
      cellKind q.cell.hdr = 1 → Completes (.cellSend die out) s (fun u => same u ∧ (u.die die).circ = d.circ.erase q ∧
        (u.die die).sent.find out = some (d.slot + 1) ∧ onLink u q.cell.hdr ∧ goes u q.cell.hdr)) ∧
    (out < 7 → s.sendReady die out = true → s.circuitReady die out = some q → s.portOpen die out = false →
      Completes (.cellSend die out) s (fun u => same u ∧ u.inbox = s.inbox ∧ u.outbox = s.outbox ∧
        (u.die die).circ = d.circ.erase q ∧ (u.die die).covf = min 65535 (d.covf + 1) ∧
        u.link die out = s.link die out)) ∧
    (out < 7 → s.sendReady die out = true → s.circuitReady die out = none → s.sprayReady die out = some q → q.esc = false →
      2 ≤ cellKind (q.cell.hdr - 2 ^ 32) → cellKind (q.cell.hdr - 2 ^ 32) ≤ 4 → Completes (.cellSend die out) s (fun u =>
        same u ∧ (u.die die).spray = d.spray.erase q ∧ (u.die die).sent.find out = some (d.slot + 1) ∧
        onLink u (q.cell.hdr - 2 ^ 32) ∧ goes u (q.cell.hdr - 2 ^ 32))) ∧
    (s.sendReady die 7 = true → s.circuitReady die 7 = none → s.sprayReady die 7 = some q → cellKind q.cell.hdr = 3 →
      Completes (.cellSend die 7) s (fun u => same u ∧ (u.die die).spray = d.spray.erase q ∧
        u.inbox = s.inbox ++ [.responseReceived (respOf die q.cell)])) ∧
    (out < 8 → s.sendReady die out = false → Completes (.cellSend die out) s (fun u => u = s)) ∧
    (hdrOk c.hdr = true → 2 ≤ cellKind c.hdr → cellKind c.hdr ≤ 4 →
      (bitsN c.hdr 48 12 = s.devId → Completes (.packetRoute die c) s (fun u => u = s.updDie die (fun d =>
        { d with spray := d.spray ++ [⟨8, 7, d.slot, c, bitN c.hdr 0, none⟩] }))) ∧
      (bitsN c.hdr 48 12 ≠ s.devId → bitsN c.hdr 32 4 ≠ 0 → e % 256 ≠ 0 → Completes (.packetRoute die c) s (fun u =>
        same u ∧ u.inbox = s.inbox ∧ ∃ q, (u.die die).spray = d.spray ++ [q] ∧ q.cell = c ∧ q.slot = d.slot ∧
        (bitN c.hdr 0 = true → q.out = bitsN e 8 3) ∧
        (bitN c.hdr 0 = false → ∀ p ∈ s.maskOpen die ⟨8, 8, d.slot, c, false, none⟩,
          q.out ∈ s.maskOpen die ⟨8, 8, d.slot, c, false, none⟩ ∧
          (d.spray.filter (fun x => x.out == q.out)).length ≤ (d.spray.filter (fun x => x.out == p)).length))) ∧
      (bitsN c.hdr 48 12 ≠ s.devId → bitsN c.hdr 32 4 = 0 ∨ e % 256 = 0 → Completes (.packetRoute die c) s (fun u =>
        u = s.updDie die (fun d => { d with drop := min 65535 (d.drop + 1) }))))

/-- R193, R209, R213, R211, R212, R298: a cell in its turn whose CRC is right is accepted and the next expected; one whose trailer or
CRC is wrong makes a NAK due and changes nothing else, where the router is ready and not in minimal mode; a replay puts the cells that LACK does not cover in line again;
retraining starts the link anew; a key switch puts the marker of kind 5 in line and changes slot; the counter events set their
bits. -/
def Obligations.LinkEvents : Prop :=
  ∀ (die port lack ldly : Nat) (lc : LinkCell) (s : State), port < 4 →
    let l := s.link die port
    let up := l.trained = true ∧ l.down = false
    let comes := up ∧ s.routerReady (die % 4) = true ∧ s.boot.min = false
    let trailerOk := bitsN lc.trailer 0 16 = crc16 lc.trailer ∧ bitsN lc.trailer 48 16 = 0
    let same (u : State) : Prop := u.mem = s.mem ∧ u.strands = s.strands ∧ u.cores = s.cores ∧ u.outbox = s.outbox
    (comes → trailerOk → bitN lc.trailer 23 = false → bitsN lc.trailer 36 12 = l.expect → l.expect < 4096 → l.rxOn = false →
      hdrOk lc.hdr = true → cellKind lc.hdr = 1 →
      (lc.tag = crc64 lc.hdr lc.payload → Completes (.linkCellReceive die port lc) s (fun u => same u ∧
        u.inbox = s.inbox ++ [.circuitCellArrival die port ⟨lc.hdr, lc.payload % 2 ^ 1024⟩] ∧
        (u.link die port).expect = (l.expect + 1) % 4096 ∧ (u.link die port).nak = false)) ∧
      (lc.tag ≠ crc64 lc.hdr lc.payload → Completes (.linkCellReceive die port lc) s (fun u => same u ∧
        u.inbox = s.inbox ∧ (u.link die port).expect = l.expect ∧ (u.link die port).nakDue = true))) ∧
    (comes → ¬ trailerOk → Completes (.linkCellReceive die port lc) s (fun u => same u ∧ u.inbox = s.inbox ∧
      u.link die port = { l with nak := true, nakDue := true })) ∧
    (up → Completes (.linkReplay die port lack) s (fun u => same u ∧ u.inbox = s.inbox ∧
      (u.link die port).line = (l.sent.filter (fun p => !State.lackCovers lack p.1)).map (·.2) ∧
      (u.link die port).sent = l.sent)) ∧
    Completes (.linkRetrain die port ldly) s (fun u => u.mem = s.mem ∧ u.strands = s.strands ∧
      (u.link die port).trained = true ∧ (u.link die port).down = false ∧ (u.link die port).ldly = ldly % 4096 ∧
      (u.link die port).lseq = 0 ∧ (u.link die port).expect = 1 ∧ (u.link die port).sent = [] ∧
      (u.link die port).line = [] ∧ (u.link die port).txOn = l.txen ∧ (u.link die port).rxOn = l.rxen ∧
      (u.ready.getD 9 0).getLsbD (16 + (die % 4 * 4 + port)) = s.routerReady (die % 4)) ∧
    (up → l.txOn = true → l.oldfree = true → Completes (.keySwitch die port) s (fun u => same u ∧
      (u.link die port).txslot = (!l.txslot) ∧ (u.link die port).oldfree = false ∧
      (u.link die port).marker = some ((l.lseq + 1) % 4096) ∧
      ∃ x, (u.link die port).line = l.line ++ [x] ∧ cellKind x.hdr = 5 ∧ bitsN x.trailer 36 12 = (l.lseq + 1) % 4096)) ∧
    (l.txOn = true → 2 ^ 47 ≤ l.ctrs.getD (b2n l.txslot) 0 ∨ (l.oldfree = false ∧ 2 ^ 47 ≤ l.ctrs.getD (b2n !l.txslot) 0) → Completes (.counterWarn die port) s (fun u => same u ∧
      u.link die port = { l with warn := true })) ∧
    (l.txOn = true → 2 ^ 48 ≤ l.ctrs.getD (b2n l.txslot) 0 → Completes (.counterSpent die port) s (fun u => same u ∧
      u.link die port = { l with spent := true }))

/-- R195, R197, R198, R200, R220, R222, R223: arming and swapping the slot tables, clearing the fabric's counts and aligning its
slots; a queue's due strip and space cells go to port 7 with the fields of their queue, and those that arrive at a claimed circuit from
its peer fill their place and move F; the last cell of a closing queue unbinds it and gives the LQBIND.un that waits its result. That
cells of unclaimed circuits that a unit takes in count in BAD of die 0 is the model's choice (log 20). -/
def Obligations.CircuitsAndStrips : Prop :=
  ∀ (die core lq circ src cell space payload slot : Nat) (value : Word) (s : State),
    let d := s.die die
    let x := s.lqOf core lq
    let n := dieOfCore core
    let cellOut (u : State) (circ space cell payload : Nat) : Prop := u.mem = s.mem ∧
      u.inbox = s.inbox ++ [.circuitCellArrival n 7 ⟨circHdr x.peer (s.devid.toNat % 4096) circ space cell, payload⟩] ∧
      (u.die n).p7 = (s.die n).slot + 1
    (value.getLsbD 3 = true → (value.extractLsb' 48 16).toNat = (d.slot / 256 + 1) % 65536 →
      Completes (.slotTableArm die value) s (fun u => (u.die die).armed = true ∧ (u.die die).swapPeriod = d.slot / 256 + 1 ∧
        (u.die die).act = d.act ∧ u.mem = s.mem)) ∧
    (d.armed = true → d.swapPeriod ≤ d.slot / 256 → Completes (.slotTableSwap die) s (fun u => (u.die die).act = (!d.act) ∧
      (u.die die).armed = false ∧ u.mem = s.mem ∧ u.strands = s.strands)) ∧
    (d.armed = true → d.slot / 256 < d.swapPeriod → Completes (.slotTableSwap die) s (fun u => u = s)) ∧
    Completes (.fabstatClear die value) s (fun u => u = s.updDie die (fun d => { d with
      bad := if value.extractLsb' 48 16 = 0 then d.bad else 0
      drop := if value.extractLsb' 32 16 = 0 then d.drop else 0
      covf := if value.extractLsb' 16 16 = 0 then d.covf else 0 })) ∧
    Completes (.fabricStart slot) s (fun u => (∀ k, (u.die k).slot = slot) ∧ u.mem = s.mem ∧ u.strands = s.strands ∧
      u.cores = s.cores) ∧
    (∀ o, lq < 16 → s.stripDue core lq = true → x.nextStrip (s.slotOf core) = some o →
      let out := if o.cell = 31 then x.out.erase o
        else x.out.map (fun y => if y.num = o.num then { o with cell := o.cell + 1, slot := s.slotOf core + 1 } else y)
      Completes (.stripCellSend core lq) s (fun u => cellOut u x.fcirc o.num o.cell (bitsN o.data (1024 * o.cell) 1024) ∧
        (x.closing = false ∨ out ≠ [] → u.lqOf core lq = { x with out } ∧ u.strands = s.strands) ∧
        (x.closing = true → out = [] → (u.lqOf core lq).role = .unbound ∧ (x.unTags = [] → u.strands = s.strands) ∧
          ∀ k t r, x.unTags = [(k, t)] → k ≠ 0 → r ∈ (s.strand (ownerSid core x.owner)).flight → r.tag = k →
            (∀ g, r.dst ≠ .g g) → ∃ z ∈ (u.strand (ownerSid core x.owner)).flight, z.dst = r.dst ∧ z.val = 0 ∧
              z.due = some (max t (s.cycleOf (ownerSid core x.owner)))))) ∧
    (lq < 16 → s.spaceDueNow core lq = true → Completes (.spaceCellSend core lq) s (fun u => cellOut u x.rcirc x.count 0 0 ∧
      u.strands = s.strands ∧ u.lqOf core lq = { x with spaceDue := false, spaceSlot := s.slotOf core })) ∧
    (s.stripDue core lq = false → Completes (.stripCellSend core lq) s (fun u => u = s)) ∧
    (s.spaceDueNow core lq = false → Completes (.spaceCellSend core lq) s (fun u => u = s)) ∧
    (lq < 16 → s.circuits.find circ = some (core, lq, false, src) → (space + 65536 - x.count) % 65536 < 8 → cell < 32 →
      payload < 2 ^ 1024 → Completes (.stripCellReceive circ src cell space payload) s (fun u =>
        let a := s.lqBuf core lq (space % 65536) + 128 * cell
        u.readMem a 128 = payload ∧ SameMemoryBut s u a 128 ∧
        bitN ((u.lqOf core lq).got.getD (space % 65536) 0) cell = true)) ∧
    (lq < 16 → s.circuits.find circ = some (core, lq, true, src) → (space + 65536 - x.f) % 65536 < 32768 →
      Completes (.spaceCellReceive circ src space) s (fun u => (u.lqOf core lq).f = space % 65536 ∧ u.mem = s.mem)) ∧
    (s.circuits.find circ = none → Completes (.stripCellReceive circ src cell space payload) s (fun u =>
      u = s.updDie 0 (fun d => { d with bad := min 65535 (d.bad + 1) })))

/-! ### Events of the matrix unit and of power (R147 to R163) -/

/-- R147, R148, R150, R161, R162, R163: the head call of a core starts its routine, a B load and a routine end, a token that
arrives is held where a burst wants it and passed on where none does or its hold is over, and an MPWR request expires. -/
def Obligations.MatrixUnitEvents : Prop :=
  ∀ (core cluster : Nat) (s : State),
    let c := s.core core
    let t := (s.die (dieOfCore core)).cycle
    let d := s.die (cluster / 16)
    let k := clusterIn cluster
    let same (u : State) : Prop := u.mem = s.mem ∧ u.strands = s.strands ∧ u.dies = s.dies
    (∀ e, s.startDue core = true → s.headEntry core = some e → e.getLsbD 63 = true → (entryRange e).2 ≤ 4096 →
      bitsN e.toNat 58 3 ≤ 4 → Completes (.routineStart core) s (fun u => same u ∧ (u.core core).calls = c.calls ∧
        (u.core core).gdone = 0 ∧ ∃ r, (u.core core).routine = some r ∧ r.entry = e ∧ r.word = (entryRange e).1 ∧
          r.next = t ∧ r.ended = false ∧ (∀ i, r.params.getD i 0 = 0))) ∧
    (∀ e sid rest, s.startDue core = true → c.calls = sid :: rest → s.headEntry core = some e → e.getLsbD 63 = false →
      Completes (.routineStart core) s (fun u => (u.core core).routine = none ∧ (u.core core).fsub = 0x01)) ∧
    (∀ r, c.routine = some r → r.bld ≠ 0 → r.bld ≤ t → Completes (.bldComplete core) s (fun u => same u ∧
      (u.core core).routine = some { r with bld := 0 } ∧ (u.core core).calls = c.calls)) ∧
    (∀ r, c.routine = some r → r.ended = true → r.fin ≤ t → c.sends = 0 → s.tileStored core = [] →
      s.wordsStored core = none → Completes (.routineComplete core) s (fun u => same u ∧
      (u.core core).routine = none ∧ (u.core core).calls = c.calls.drop 1 ∧ (u.core core).mstart = t + 2 ∧
      (u.core core).acc = c.acc)) ∧
    (s.tokenArrived cluster = true → s.wantsToken cluster = true → Completes (.powerTokenArrival cluster) s (fun u =>
      (u.die (cluster / 16)).holdsToken k = true ∧ u.mem = s.mem ∧ u.strands = s.strands ∧ u.cores = s.cores)) ∧
    (∀ x, s.wantsToken cluster = false → d.ring = [x] → x.1 = k → x.2.2 = false → x.2.1 ≤ d.cycle →
      Completes (.powerTokenArrival cluster) s (fun u => (u.die (cluster / 16)).ring = [((k + 1) % 16, d.cycle + 3, false)])) ∧
    (∀ x, d.ring = [x] → x.1 = k → x.2.2 = true → x.2.1 + max 64 d.hold.toNat ≤ d.cycle →
      Completes (.tokenHoldExpiry cluster) s (fun u => (u.die (cluster / 16)).ring = [((k + 1) % 16, d.cycle + 2, false)] ∧
        u.mem = s.mem)) ∧
    (∀ e, d.mpwr.find k = some e → e ≤ d.cycle → Completes (.mpwrRequestExpiry cluster) s (fun u =>
      (u.die (cluster / 16)).mpwr.find k = none ∧ u.mem = s.mem ∧ u.strands = s.strands ∧ u.cores = s.cores))

/-! ### Routing (R227 to R250) and answers of the Oryx units -/

/-- R173 to R178, R189: the step of a strand is applied as one and answered with the old element; with too few nodes it is answered
with cause 0x14, and of memory nothing but its descriptor and what the walks to the nodes it has read write has changed; a
densifying copy writes its box once, by the ranges that its job has locked. -/
def Obligations.OryxAnswers : Prop :=
  ∀ (sid die job : Nat) (s : State),
    let c := s.spaceOf sid
    let left (q : OryxReq) (l : List OryxReq) : Prop := ∀ p ∈ l, p.tag ≠ q.tag
    let given (u : State) (q : OryxReq) (got : List (Nat × Nat)) (fail : Option Trap) : Prop :=
      ∀ p, (s.strand sid).request = some p → p.sent = true → p.tag = q.tag →
        (u.strand sid).request = some { p with got, fail }
    (∀ q d a x old t, s.oryx.find? (fun q => q.sid == sid) = some q → s.oryxDesc q = .ok (d, a, x) →
      s.oryxStep c d q.op q.key q.val = .ok (old, some t) → Completes (.oryxAnswer sid) s (fun u => left q u.oryx ∧
        u.mem = ((s.commitXlat c .sparseW x).writeTree c a t).mem ∧
        given u q [(0, (extendTy d.ty old).toNat)] none)) ∧
    (∀ q d a x old, s.oryx.find? (fun q => q.sid == sid) = some q → s.oryxDesc q = .ok (d, a, x) →
      s.oryxStep c d q.op q.key q.val = .ok (old, none) → Completes (.oryxAnswer sid) s (fun u => left q u.oryx ∧
        SameMemoryBut ((s.commitXlat c .sparseW x).touchNodes c d (s.stepNodes c d q.op q.key q.val)) u a 64 ∧ given u q [(0, 0)] (some (Trap.of 0x14 q.key)))) ∧
    (∀ j, (s.die die).jobs.find? (fun j => j.id == job) = some j → j.kind = .densify → j.phase = .active → j.at_ = 0 →
      let card := j.card.getD 0 0
      (s.lockedPa j.die j.id (card % 2 ^ 64) = none → Completes (.densifyJob die job) s (fun u => u = s)) ∧
      (∀ pa, s.lockedPa j.die j.id (card % 2 ^ 64) = some pa →
        let d := descOf (s.readMem (pa % 2 ^ 52) 64)
        let n := boxBytes d card
        let s' := s.updJob job (fun j => { j with at_ := (s.die die).cycle + n / 128 + (30 + 12 * (d.height + 1)) })
        (n = 0 → Completes (.densifyJob die job) s (fun u => u = s')) ∧
        (n ≠ 0 → Completes (.densifyJob die job) s (fun u => u =
          ((List.range d.bump).drop 1).foldl (State.denseLeaf j d card) (State.zeroLoop j.die j.id n (bitsN card 64 64) n s')))))

/-- R234, R241, R242: an expert that has no replica, or whose key is a NaN, is not ranked; grants in increasing rank are the least
of count and rest and do not exceed what is left; a routing job whose input is there is scored; each thread of a round starts with its
number, the round and the token count; a request joins those of the round, clipped to its bin; END closes; and a grant that is
read comes with its bin, round and count. -/
def Obligations.RoundsOfChamois : Prop :=
  ∀ (die tid e n : Nat) (value : Word) (sd : BitVec 6) (place keys : List Nat) (rem : Nat) (posts : List PostedReq) (s : State)
    (r : RouteJob),
    let d := s.die die
    let dt := dieOf tid
    (∀ p ∈ ranking place keys, placeNrep (place.getD p.1 0) ≠ 0 ∧ keys.getD p.1 0 = p.2 ∧ nan32 p.2 = false) ∧
    ((State.grantAll rem posts).1.map (·.1) = posts.map (·.rank) ∧
      ((State.grantAll rem posts).1.map (·.2)).sum + (State.grantAll rem posts).2 = rem ∧
      ∀ q ∈ (State.grantAll rem posts).1.zip posts, q.1.2 ≤ q.2.count) ∧
    (∀ j, s.routeStartDue die = true → s.activeRoute die = some j → s.poisonIn j = none →
      (d.route = some r → Completes (.routingJobStart die) s (fun u => u = s.scoreJob die j r)) ∧
      (let r := State.newRoute j
       let away := ((routeRegions r.card r.cfg).filter (fun x => !x.1)).flatMap (fun x => s.remoteLines die j x.2.1 x.2.2)
       d.route = none → Completes (.routingJobStart die) s (fun u => u = if away = [] then s.scoreJob die j r
        else (s.updDie die (fun d => { d with route := some r })).fetchLines die j away))) ∧
    (∀ j, die < 4 → s.roundDue die = true → d.route = some r → s.activeRoute die = some j → n < 128 →
      s.chamoisReady (2048 + die * 128 + n) = true → Completes (.chamoisRoundStart die) s (fun u =>
        let st := u.strand (2048 + die * 128 + n)
        (st.run = .ready ∨ st.run = .run) ∧ st.regs.rs 1 = BitVec.ofNat 64 n ∧ st.regs.rs 2 = BitVec.ofNat 64 r.round ∧
        st.regs.rs 3 = BitVec.ofNat 64 (cardNtok r.card) ∧ st.pc = 0 ∧ st.priv = 0 ∧ u.mem = s.mem ∧
        (u.die die).route.map (·.started) = some true)) ∧
    ((s.die dt).route = some r → r.started = true → bitsN value.toNat 18 2 = r.round → r.closed.contains tid = false →
      bitsN value.toNat 0 10 = e → bitsN value.toNat 16 2 = n → e < cfgNexp r.cfg → n < placeNrep (r.place.getD e 0) →
      r.reqs.any (fun q => q.expert == e && q.rep == n) = false →
      Completes (.chreqRequest tid value) s (fun u => u.mem = s.mem ∧ u.strands = s.strands ∧ (u.die dt).route =
        some { r with reqs := r.reqs ++
          [⟨e, n, min (bitsN value.toNat 32 16) (r.bin e n).length, none, false, tid, false⟩] })) ∧
    (∀ other, (s.die dt).route = some r → r.closed.contains tid = false → other ∈ State.threadsOf dt → other ≠ tid →
      r.closed.contains other = false → Completes (.chreqEnd tid) s (fun u => u.mem = s.mem ∧ u.strands = s.strands ∧
        (u.die dt).route = some { r with closed := r.closed ++ [tid] })) ∧
    (∀ q g, isThread tid = true → (s.die dt).route = some r → q.granted = some g → sd ≠ 0 →
      r.reqs.find? (fun q => q.thread == tid && q.granted.isSome && !q.read) = some q →
      Completes (.chgrantRead tid sd) s (fun u => u.mem = s.mem ∧ (u.strand tid).regs.rs sd =
        BitVec.ofNat 64 (fields [(63, 1), (32, g), (18, r.round % 4), (16, q.rep), (0, q.expert)]) ∧
        (u.die dt).route.map (fun r => r.reqs.length) = some r.reqs.length)) ∧
    (isThread tid = true → (s.die dt).route = none → sd ≠ 0 → Completes (.chgrantRead tid sd) s (fun u => u.mem = s.mem ∧
      (u.strand tid).regs.rs sd = 0))

/-- R241 to R245, R105: a granted bin that a thread emits early, where no store has met the scores, goes to its receiver with its records and payload rows, at this
device or over the outbox (log 9); a request waits at its receiver until every member has posted, and then the replica grants in
increasing rank and tells each member; a grant that leaves others open is recorded; the rows of a sender are placed in the
receiver's bin area after those before them; and when the rounds are over the header of a complete bin gets its row count and the
next sequence number. -/
def Obligations.BinsAndPermits : Prop :=
  ∀ (die tid expert rep mb seq round rank count : Nat) (value : Word) (data : List (Nat × Nat)) (s : State) (r : RouteJob),
    let d := s.die die
    let dt := dieOf tid
    (∀ j q, (s.die dt).route = some r → s.activeRoute dt = some j →
      r.reqs.find? (fun q => q.expert == bitsN value.toNat 0 10 && q.rep == bitsN value.toNat 16 2) = some q →
      bitsN value.toNat 18 2 = r.round → q.granted.isSome = true → q.emitted = false → r.blind = false →
      let s' := s.updRoute dt (fun r => { r with reqs := r.reqs.map (fun y =>
        if y.expert == q.expert && y.rep == q.rep then { y with emitted := true } else y) })
      let dest := r.receiver q.expert q.rep
      let rows := (State.grantedRows r q).map (fun x => (State.rowRecord r x x.wgt, s'.payloadRow dt j r x))
      Completes (.chemit tid value) s (fun u => u = if rows = [] then s' else if dest.1 = s.devId
        then s'.post [.binWrite dest.2 q.expert (.rows q.rep r.round (cfgRank r.cfg) rows)]
        else s'.send (.engine dest.1 dest.2 2 ([q.expert, q.rep, r.round, cfgRank r.cfg] ++ rows.flatMap (fun x => [x.1, x.2]))))) ∧
    (let q : PostedReq := ⟨expert, rep, mb, seq, round, rank, count⟩
     let now (x : PostedReq) : Bool := x.expert == expert && x.rep == rep && x.mb == mb && x.seq == seq && x.round == round
     let posts := (d.posts ++ [q]).filter now
     let n := cfgNrank r.cfg + 1
     (∀ x ∈ d.posts, now x = true → x.rank ≠ rank) →
      (d.route = none ∨ d.route = some r ∧ (r.place = [] ∨ cardMb r.card = mb ∧ r.seq = seq ∧ r.round = round ∧
          ∃ k, k < n ∧ ∀ x ∈ posts, x.rank ≠ k) →
        Completes (.permitRequest die expert rep mb seq round rank count) s (fun u =>
          u = s.updDie die (fun d => { d with posts := d.posts ++ [q] }))) ∧
      (d.route = some r → r.place ≠ [] → cardMb r.card = mb → r.seq = seq → r.round = round → cfgHintth r.cfg = 0 →
        (∀ k, k < n → ∃ x ∈ posts, x.rank = k) →
        let e := r.place.getD expert 0
        let fits := (binArea e rep (cfgXrowb r.cfg)).2.2.2
        let p := (s.permit die expert rep).getD (Permit.init r.gate expert rep)
        let left := (p.batch mb (placeCap e)).rem
        let g := State.grantAll (if fits then left else 0)
          ((List.range n).filterMap (fun k => posts.find? (fun x => x.rank == k)))
        Completes (.permitRequest die expert rep mb seq round rank count) s (fun u => u.mem = s.mem ∧
          (u.die die).posts = d.posts.filter (fun x => !now x) ∧
          (∀ x ∈ g.1, (r.group.getD x.1 0) % 4096 = s.devId →
            .permitGrant (bitsN (r.group.getD x.1 0) 12 2) expert rep r.round x.2 ∈ u.inbox) ∧
          ∃ p', u.permit die expert rep = some p' ∧ p'.grants = p.grants ++ g.1.map (fun x => (r.round, x.1, x.2)) ∧
            (p'.batch mb 0).rem = if fits then g.2 else left))) ∧
    (let r' := { r with reqs := r.reqs.map (fun q =>
        if q.expert == expert && q.rep == rep && q.granted.isNone then { q with granted := some (min count q.count) } else q) }
     d.route = some r → r.round = round → State.allGranted r = false → State.allGranted r' = false →
      (∀ i, i < cardNtok r.card → State.tokenDone r i = false) →
      Completes (.permitGrant die expert rep round count) s (fun u =>
        u = s.updDie die (fun d => { d with route := some r' }))) ∧
    (d.route = some r → r.round ≠ round → Completes (.permitGrant die expert rep round count) s (fun u => u = s)) ∧
    (∀ p, d.route = some r → s.permit die expert rep = some p → p.written = false →
      let e := r.place.getD expert 0
      let area := binArea e rep (cfgXrowb r.cfg)
      let rows := p.grants.foldl (fun a g => a + g.2.2) 0
      let base := State.rowsBefore p round rank
      (data ≠ [] → data.length = (p.grants.filter (fun g => g.1 == round && g.2.1 == rank)).foldl (fun a g => a + g.2.2) 0 →
        p.here.contains (round, rank) = false → Completes (.binWrite die expert (.rows rep round rank data)) s (fun u =>
          u = (s.placeRows area (cfgXrowb r.cfg) base data).updPermit die expert rep (fun p =>
            { p with here := p.here ++ [(round, rank)] }) ∧
          (∀ x, data = [x] → cfgXrowb r.cfg = 64 → area.2.1 + 8 * base + 8 ≤ area.2.2.1 →
            u.readMem (area.2.1 + 8 * base) 8 = x.1 % 2 ^ 64 ∧ u.readMem (area.2.2.1 + 64 * base) 64 = x.2 % 2 ^ 512))) ∧
      (r.roundsOver = true → p.grants ≠ [] → State.rowsHere p = true → State.placePolicy e = 0 → area.2.2.2 = true →
        rows < 2 ^ 32 → r.odd = false → r.blind = false → Completes (.binWrite die expert (.complete rep)) s (fun u =>
          u.readMem area.1 8 = rows + (s.readMem (area.1 + 4) 4 + 1) % 2 ^ 32 * 2 ^ 32 ∧
          (u.permit die expert rep).map (·.written) = some true)) ∧
      (State.rowsHere p = false → Completes (.binWrite die expert (.complete rep)) s (fun u => u = s)))

/-- R246, R249, R250, R150: a chunk for a pending slot joins it, which is full when every chunk is in; one for no slot, or at no
chunk's place, is counted; a drop from the job's own ABANDON and the watchdog turn pending slots into dropped ones; and the sender
of a chunk or a drop learns that it is accepted, on another device by the outbox (log 9). -/
def Obligations.CombineSlots : Prop :=
  ∀ (die slot data mb seq dev core sid tag : Nat) (po : Int) (s : State) (r : RouteJob) (x : CombSlot),
    (s.die die).route = some r →
    let n := (cfgDout r.cfg + 127) / 128
    let c := po.toNat / 128
    let slotIs (u : State) (P : CombSlot → Prop) : Prop :=
      ∃ q y, (u.die die).route = some q ∧ q.slots.find slot = some y ∧ P y
    let told (u : State) (kind home : Nat) (args : List Nat) : Prop := dev ≠ s.devId →
      ∃ l, u.outbox = l ++ [.engine dev home kind args]
    let counted (u : State) : Prop := u.mem = s.mem ∧ ∃ q, (u.die die).route = some q ∧
      q.counts.getD 7 0 = r.counts.getD 7 0 + 1 ∧ q.slots = r.slots
    let send : Instr := .combineSend die slot po (.row dev core data)
    let heard (u : State) : Prop := told u 7 (dieOfCore core) [core] ∧
      (dev = s.devId → (u.core core).sends = (s.core core).sends - 1)
    (r.slots.find slot = some x → x.st = .pending → 0 ≤ po → po % 128 = 0 → c < n → Completes send s (fun u => heard u ∧
      slotIs u (fun y => y.mask = x.mask ||| 2 ^ c ∧ y.chunks.find c = some data ∧
        (y.st = .full ↔ ∀ i, i < n → bitN (x.mask ||| 2 ^ c) i = true)))) ∧
    (r.slots.find slot = none → Completes send s (fun u => heard u ∧ counted u)) ∧
    (r.slots.find slot = some x → po < 0 ∨ po % 128 ≠ 0 ∨ x.st = .empty → Completes send s (fun u => heard u ∧ counted u)) ∧
    (r.slots.find slot = some x → x.st = .dropped → 0 ≤ po → po % 128 = 0 → Completes send s (fun u => heard u ∧ u.mem = s.mem ∧
      (u.die die).route = some r)) ∧
    Completes (.combineSend die slot po (.accepted core)) s (fun u =>
      u = s.updCore core (fun c => { c with sends := c.sends - 1 })) ∧
    (r.slots.find slot = some x → x.st = .pending → cardMb r.card = mb → r.seq = seq →
      Completes (.combineDrop die (.drop slot mb seq dev sid tag)) s (fun u => told u 8 (dieOf sid) [sid, tag] ∧
        slotIs u (fun y => y.st = .dropped))) ∧
    (¬ (cardMb r.card = mb ∧ r.seq = seq) → Completes (.combineDrop die (.drop slot mb seq dev sid tag)) s (fun u =>
      told u 8 (dieOf sid) [sid, tag] ∧ u.mem = s.mem ∧ u.dies = s.dies)) ∧
    (∀ p, (s.strand sid).request = some p → p.sent = true → p.tag = tag →
      Completes (.combineDrop die (.accepted sid tag)) s (fun u => u.mem = s.mem ∧ u.dies = s.dies ∧
        (u.strand sid).request = some { p with got := p.got ++ [(p.got.length, 0)] })) ∧
    (r.slots.find slot = some x → x.st = .pending → s.wdogDue die = true → Completes (.combineWatchdog die) s (fun u =>
      slotIs u (fun y => y.st = .dropped))) ∧
    (s.wdogDue die = false → Completes (.combineWatchdog die) s (fun u => u = s))

/-! ### Collective programs (R251 to R262) -/

/-- R254, R255, R258, R253: a trigger word and a fired line let an entry's next run start at step 0 with its counters 0; a chunk is
staged where it arrives, and word of that goes to a sender on another device (log 9); the sender marks the first of its chunks so
tagged acknowledged, or takes it out of the outstanding ones, when word of that comes; LOOP counts and goes
back, or restarts its counter and goes on; WAIT goes on once this run's chunks are acknowledged and its receives complete, and until
then changes nothing; the end of a run writes its number and frees the entry or waits for the next trigger. -/
def Obligations.CollectiveRuns : Prop :=
  ∀ (die e run rank chunk src dst data : Nat) (s : State),
    let d := s.die die
    let staged := s.updDie die (fun d => { d with staged := d.staged ++ [⟨e, run, rank, chunk, data⟩] })
    let ready := (s.ready.getD 9 0).getLsbD (36 + die % 4) = true
    Completes (.chunkArrival die e run rank chunk (.bytes src dst data)) s (fun u =>
      (src % 4096 = s.devId → u = staged) ∧ (src % 4096 ≠ s.devId → u = { staged with outbox := s.outbox ++
        [.engine (src % 4096) (bitsN src 12 2) 9 [e, run, dst, chunk]] })) ∧
    ∀ w, s.wentry die e = some w →
      let step := (s.stepAt die w).getD 0
      let is (u : State) (x : WorkEntry) : Prop := u.wentry die e = some x
      let quiet (u : State) : Prop := u.mem = s.mem ∧ u.strands = s.strands ∧ u.cores = s.cores ∧ u.outbox = s.outbox
      let this (o : Nat × Nat × Nat × Bool) : Bool := o.1 == run && o.2.1 == rank && o.2.2.1 == chunk
      (∀ l o rest, w.outstanding = l ++ o :: rest → this o = true →
        (o.2.2.2 = false → (∀ x ∈ l, this x = true → x.2.2.2 = true) →
          Completes (.chunkArrival die e run rank chunk .acked) s (fun u => quiet u ∧
            is u { w with outstanding := l ++ (o.1, o.2.1, o.2.2.1, true) :: rest })) ∧
        ((∀ x ∈ l, this x = false) → Completes (.chunkArrival die e run rank chunk .consumed) s (fun u => quiet u ∧
          is u { w with outstanding := l ++ rest }))) ∧
      ((∀ o ∈ w.outstanding, this o = false) → Completes (.chunkArrival die e run rank chunk .acked) s (fun u => quiet u ∧ is u w) ∧
        Completes (.chunkArrival die e run rank chunk .consumed) s (fun u => quiet u ∧ is u w)) ∧
      (s.wordFires die w = true → Completes (.wordTrigger die e) s (fun u => is u { w with fired := w.run + 1 } ∧
        quiet u ∧ (u.die die).staged = d.staged)) ∧
      (s.runDue w = true → Completes (.impalaRunStart die e) s (fun u =>
        is u { w with pc := some 0, ctr := [0, 0, 0, 0], taken := [] } ∧ quiet u)) ∧
      (s.runDue w = false → Completes (.impalaRunStart die e) s (fun u => u = s)) ∧
      (ready → s.stepEvent die e w = some (.impalaLoop die e) →
        (w.ctr.getD (stepCtr step) 0 + 1 < wLcnt w.card (stepCtr step) → Completes (.impalaLoop die e) s (fun u =>
          is u { w with ctr := w.ctr.set (stepCtr step) (w.ctr.getD (stepCtr step) 0 + 1), pc := some (stepTgt step) } ∧
          quiet u)) ∧
        (wLcnt w.card (stepCtr step) ≤ w.ctr.getD (stepCtr step) 0 + 1 → Completes (.impalaLoop die e) s (fun u =>
          is u { w with ctr := w.ctr.set (stepCtr step) 0, pc := w.pc.map (· + 1) } ∧ quiet u))) ∧
      (ready → s.stepEvent die e w = some (.impalaWait die e) →
        let done : Prop := s.jobOut w.job = false ∧ ∀ o ∈ w.outstanding, o.1 = w.run → o.2.2.2 = true
        (done → Completes (.impalaWait die e) s (fun u => is u { w with pc := w.pc.map (· + 1), taken := [] } ∧ quiet u)) ∧
        (¬ done → Completes (.impalaWait die e) s (fun u => u = s))) ∧
      (∀ j, ready → s.stepEvent die e w = some (.impalaEnd die e) → s.jobOut w.job = false → s.job w.job = some j →
        s.jobStored j.id = [] →
        (w.run + 1 ≠ wRuns w.card → w.disarm = false → Completes (.impalaEnd die e) s (fun u =>
          is u { w with run := w.run + 1, pc := none, taken := [] } ∧ u.mem = (s.writeJobCw j (j.cwVal + w.run + 1)).mem)) ∧
        (w.run + 1 = wRuns w.card ∨ w.disarm = true → Completes (.impalaEnd die e) s (fun u => u.wentry die e = none ∧
          u.mem = (s.writeJobCw j (j.cwVal + w.run + 1)).mem)))

/-- R254, R255, R259, R262, R290: SEND hands the chunk of its base to a peer, at this device or by the outbox (log 9), counts it
outstanding, and is done when every peer has had it; RECV stores a waiting chunk, or reduces it, and RRS reduces it into its base,
element by element, and then sends the result; COPY moves a chunk within the rank; with no room or no chunk a step changes
nothing. -/
def Obligations.CollectiveTransfers : Prop :=
  ∀ (die e : Nat) (s : State) (w : WorkEntry) (j : Job), s.wentry die e = some w → s.job w.job = some j →
    (s.ready.getD 9 0).getLsbD (36 + die % 4) = true →
    let step := (s.stepAt die w).getD 0
    let k := State.chunkOf w step
    let n := wCh w.card
    let left := (State.stepPeers w step).filter (fun p => !w.taken.contains p)
    let here (va : Nat) : Prop := s.remoteLines die j va n = [] ∧ ∃ pa, s.lockedPa die j.id va = some pa ∧
      s.isRemote pa = false ∧ s.poisoned (pa % 2 ^ 52) n = false
    let v (va : Nat) : Nat := s.readJob die j (n / 64 + 2) va n
    let regs (u : State) : Prop := ∀ i, (u.strand i).regs = (s.strand i).regs
    let done (u : State) : Prop := u.wentry die e = some { w with pc := w.pc.map (· + 1), taken := [] } ∧ u.mem = s.mem ∧
      u.outbox = s.outbox ∧ u.inbox = s.inbox ∧ u.strands = s.strands
    let src := s.devId + die % 4 * 2 ^ 12
    let sent (u : State) (p va : Nat) : Prop :=
      let g := w.group.getD p 0
      u.mem = s.mem ∧ u.strands = s.strands ∧
      (g % 4096 = s.devId → u.outbox = s.outbox ∧
        u.inbox = s.inbox ++ [.chunkArrival (bitsN g 12 2) e w.run (wRank w.card) k (.bytes src p (v va))]) ∧
      (g % 4096 ≠ s.devId → u.inbox = s.inbox ∧
        u.outbox = s.outbox ++ [.engine (g % 4096) (bitsN g 12 2) 5 [e, w.run, wRank w.card, k, src, p, v va]]) ∧
      (u.wentry die e).map (·.outstanding) = some (w.outstanding ++ [(w.run, p, k, g % 4096 == s.devId)])
    let took (u : State) (c : Chunk) (va val : Nat) : Prop := (u.die die).staged = (s.die die).staged.erase c ∧
      u.mem = (s.storeBytes die w.job n va n val).mem ∧ regs u
    (s.stepEvent die e w = some (.impalaSend die e) →
      (left = [] → Completes (.impalaSend die e) s done) ∧
      (∀ p l va, left = p :: l → State.chunkVa w (stepSb step) k = .ok va →
        (w.outstanding.length < wWin w.card → here va → Completes (.impalaSend die e) s (fun u => sent u p va ∧
          (u.wentry die e).map (·.taken) = some (w.taken ++ [p]))) ∧
        (wWin w.card ≤ w.outstanding.length → Completes (.impalaSend die e) s (fun u => u = s)))) ∧
    (s.stepEvent die e w = some (.impalaRecv die e) →
      (left = [] → Completes (.impalaRecv die e) s done) ∧
      (left ≠ [] → s.waiting die e w left k = none → Completes (.impalaRecv die e) s (fun u => u = s)) ∧
      (∀ c va, left ≠ [] → s.waiting die e w left k = some c → State.chunkVa w (stepDb step) c.chunk = .ok va →
        (stepRop step = 0 → Completes (.impalaRecv die e) s (fun u => took u c va c.data)) ∧
        (stepRop step ≠ 0 → here va → Completes (.impalaRecv die e) s (fun u =>
          took u c va (reduceBytes (wDt w.card) (stepRop step) n (v va) c.data))))) ∧
    (s.stepEvent die e w = some (.impalaRrs die e) →
      (∀ c va, left ≠ [] → s.waiting die e w (State.stepPeers w step) k = some c →
        State.chunkVa w (stepDb step) c.chunk = .ok va → stepRop step ≠ 0 → here va →
        Completes (.impalaRrs die e) s (fun u => took u c va (reduceBytes (wDt w.card) (stepRop step) n (v va) c.data))) ∧
      (left = [] → State.rrsPeer w step = [] → Completes (.impalaRrs die e) s done) ∧
      (∀ p l va, left = [] → State.rrsPeer w step = p :: l → w.outstanding.length < wWin w.card →
        State.chunkVa w (stepDb step) k = .ok va → here va → Completes (.impalaRrs die e) s (fun u => sent u p va ∧
          (u.wentry die e).map (·.pc) = some (w.pc.map (· + 1))))) ∧
    (s.stepEvent die e w = some (.impalaCopy die e) →
      ∀ a b, State.chunkVa w (stepSb step) k = .ok a → State.chunkVa w (stepDb step) k = .ok b → here a →
        Completes (.impalaCopy die e) s (fun u => (u.wentry die e).map (·.pc) = some (w.pc.map (· + 1)) ∧
          u.mem = (s.storeBytes die w.job n b n (v a)).mem ∧ regs u))

/-! ### Launches and tasks (R263 to R274) -/

/-- R263, R264, R266, R268, R40: a packet is appended to an enabled queue with room, discarded by one that is not, and by a full one
with an error; the coordinator accepts a head, rejects one with a fault, with its failure in the completion word, and stops its queue,
or asks for a footprint block that another device holds; a head that may start starts on its cores, or is rejected where one of them
is not ready or an entry of its dictionary fails the check. That an append to a queue with EN = 0 is discarded without an error, and
that a footprint block of another device is read at all, are the model's choices (log 20), no rules of R263 or R265. -/
def Obligations.LaunchQueues : Prop :=
  ∀ (q p : Nat) (s : State),
    let x := s.queue q
    let rest (u : State) : Prop := u.mem = s.mem ∧ u.cores = s.cores ∧ u.tasks = s.tasks
    let stopped (u : State) (q p c v : Nat) : Prop :=
      let w := if pktCwaddr p % 8 = 0
        then s.writeWordAt (pktRoot p) (s.pktPriv q p) 0 (pktCwaddr p) (State.failValue c v) 0 else s
      (u.queue q).packets = (w.queue q).packets.drop 1 ∧ (u.queue q).err = true ∧ (u.queue q).stop = true ∧
      (u.queue q).cause = BitVec.ofNat 8 c ∧ u.mem = w.mem ∧ u.cores = w.cores
    (x.en = true → x.packets.length < 32 → Completes (.launchPacketAppend q) s (fun u => rest u ∧
      u.queue q = { x with packets := x.packets ++ [x.window] } ∧ u.strands = s.strands)) ∧
    (x.en = false → Completes (.launchPacketAppend q) s (fun u => u = s)) ∧
    (x.en = true → 32 ≤ x.packets.length → Completes (.launchPacketAppend q) s (fun u => rest u ∧
      u.queue q = { x with err := true, cause := 0x12 } ∧ u.outbox = s.outbox ++ [.msix (1 + q)])) ∧
    (s.failedHead = none → s.newHead = some (q, p) →
      (s.pktFault q p = none → Completes .dispatch s (fun u => ∃ t, u.tasks = s.tasks ++ [t] ∧ t.queue = q ∧ t.pkt = p ∧
        t.started = false ∧ t.id = s.nextJob ∧ u.nextJob = s.nextJob + 1 ∧ u.queue q = x)) ∧
      (∀ c v, s.pktFault q p = some (.bad c v) ∨ s.pktFault q p = some (.fault c v) →
        Completes .dispatch s (fun u => stopped u q p c v)) ∧
      (∀ pa va, s.pktFault q p = some (.away pa va) → Completes .dispatch s (fun u => u = s.fetchFoot q pa va))) ∧
    (∀ t, s.failedHead = none → s.newHead = none → s.nextHead = some t →
      ((State.pktCores t.pkt).all s.coreReady = true → t.preloaded = true ∨ s.launchLines t = [] → s.dictFault t = none →
        s.preloadBad t.pkt = false → Completes .dispatch s (fun u =>
          (∃ t' ∈ u.tasks, t'.id = t.id ∧ t'.started = true ∧ t'.pending = State.pktCores t.pkt) ∧
          (∀ c ∈ State.pktCores t.pkt, .startMessage t.id c ∈ u.inbox) ∧
          (u.queue t.queue).packets = (s.queue t.queue).packets.drop 1)) ∧
      ((State.pktCores t.pkt).all s.coreReady = false → Completes .dispatch s (fun u => stopped u t.queue t.pkt 0x12 0 ∧
        u.task t.id = none)) ∧
      (∀ e, (State.pktCores t.pkt).all s.coreReady = true → t.preloaded = true ∨ s.launchLines t = [] → s.dictFault t = some e →
        Completes .dispatch s (fun u => stopped u t.queue t.pkt 0x03 e ∧ u.task t.id = none))) ∧
    (s.failedHead = none → s.newHead = none → s.nextHead = none → Completes .dispatch s (fun u => u = s))

/-- R265, R15, R20, R267, R274, R286, R372: a start message starts the strands of the packet on its core with their argument and
their place; a core whose strands have halted reports and is idle; a task that is done retires with its completion word; a
preload writes the image of a head; a task over its budget is to be saved, or fails with cause 0x38; and a saved one resumes. -/
def Obligations.TaskEvents : Prop :=
  ∀ (task core sid : Nat) (s : State) (t : Task), s.task task = some t →
    let c := s.core core
    (t.started = true → t.leaving = false → t.doomed = none → core ∈ t.pending → c.started = 0 → c.task = some task →
      sid ∈ maskStrands core (pktStrands t.pkt) → core < 512 → Completes (.startMessage task core) s (fun u =>
        let st := u.strand sid
        (st.run = .ready ∨ st.run = .run) ∧ st.pc = 0 ∧ st.regs.rs 1 = BitVec.ofNat 64 (pktArg t.pkt) ∧
        st.regs.rs 2 = BitVec.ofNat 64 ((State.pktCores t.pkt).findIdx (· == core)) ∧
        st.ptroot = BitVec.ofNat 64 (pktRoot t.pkt) &&& 0xFFFFFFFFFFFF8001#64 ∧ st.tvec = (s.strand sid).tvec ∧
        (u.core core).started = BitVec.ofNat 4 (pktStrands t.pkt) ∧ u.mem = s.mem)) ∧
    (core < 512 → s.completionDue core = true → s.coreQueues core = [] → c.task = some task → c.cw = none →
      Completes (.coreCompletion core) s (fun u => (u.core core).task = none ∧ (u.core core).started = 0 ∧
        u.tasks = s.tasks.map (fun x => if x.id == task then { x with pending := x.pending.erase core } else x) ∧
        (∀ i ∈ pathStrands core, (s.strand i).run = .halted → (u.strand i).run = .off) ∧ u.mem = s.mem)) ∧
    (∀ j, s.taskDone t = true → s.job task = some j → Completes (.taskRetire task) s (fun u =>
      u.task task = none ∧ u.job task = none ∧ u.mem = (s.writeJobCw j (t.doomed.getD j.cwVal)).mem)) ∧
    (s.preloadable t = true → s.launchLines t = [] →
      (s.dictFault t = none → Completes (.preload task) s (fun u =>
        u.task task = some { t with preloaded := true, redo := false } ∧ u.mem = (s.loadImage t).mem)) ∧
      (∀ e, s.dictFault t = some e → Completes (.preload task) s (fun u => u.task task = some { t with redo := false } ∧
        u.mem = s.mem ∧ u.cores = s.cores ∧ u.strands = s.strands))) ∧
    (s.preloadable t = false → Completes (.preload task) s (fun u => u = s)) ∧
    (s.taskDone t = false → Completes (.taskRetire task) s (fun u => u = s)) ∧
    (s.overBudget t = true → pktSave t.pkt ≠ 0 → Completes (.budgetExpiry task) s (fun u =>
      u.task task = some { t with leaving := true, deadline := none } ∧ u.mem = s.mem ∧ u.cores = s.cores ∧
      (u.queue t.queue).err = true ∧ (u.queue t.queue).cause = 0x38 ∧ (u.queue t.queue).stop = (s.queue t.queue).stop)) ∧
    (s.overBudget t = true → pktSave t.pkt = 0 → Completes (.budgetExpiry task) s (fun u =>
      (u.task task).map (·.doomed) = some (some (State.failValue 0x38 0)) ∧ (u.queue t.queue).stop = true ∧
      u.mem = s.mem)) ∧
    (s.resumable t = true → Completes (.taskResume task) s (fun u => (u.task task).map (·.leaving) = some false ∧
      u.mem = s.mem ∧ (core < 512 → core ∈ State.pktCores t.pkt → core ∈ t.pending → (u.core core).task = some task)))

/-- R107, R136, R269, R270, R272, R273: an engine that works takes the next job into its shadow set; an idle one copies the
bytes of a copy as it starts (log 6); with no store over its regions (log 21) and no lease or switch that a store waits for
(R100, R101) a job that is done writes its completion word and
leaves; a failure goes into the completion word and interrupts the submitter; an entry of a commit buffer acts when its guard
and its turn have come, or goes. -/
def Obligations.JobEvents : Prop :=
  ∀ (die engine job cause tval core idx : Nat) (s : State) (j : Job),
    let d := s.die die
    let found := d.jobs.find? (fun j => j.id == job) = some j
    let failed (u : State) (v : Nat) : Prop := u.job job = none ∧ u.mem = (s.writeJobCw j v).mem ∧
      (u.strand j.sid).ipend.getLsbD 2 = true ∧ .msix (65 + j.die) ∈ u.outbox
    ((s.engineJob die engine .active).isSome = true → (s.engineJob die engine .shadow).isNone = true →
      s.nextJobOf die engine = some j → (engine = 4 → d.jobs.find? s.appendDue = none) →
      Completes (.jobStart die engine) s (fun u => u = s.updJob j.id (fun j => { j with phase := .shadow, engine }))) ∧
    (d.jobs.find? s.appendDue = some j → (s.queue (j.card.getD 20 0 % 64)).en = true →
      Completes (.jobStart die 4) s (fun u => u.mem = s.mem ∧ u.strands = s.strands ∧
        (u.queue (j.card.getD 20 0 % 64)).packets =
          (s.queue (j.card.getD 20 0 % 64)).packets ++ [(State.jobPacket j).getD 0])) ∧
    (s.engineDue die engine = false → Completes (.jobStart die engine) s (fun u => u = s)) ∧
    (∀ a b x y, (s.engineJob die engine .active).isNone = true → (s.engineJob die engine .shadow).isNone = true →
      s.nextJobOf die engine = some j → j.kind = .copy → j.card.getD 21 0 = 64 → s.copyOverlaps j = false →
      s.lockedPa j.die j.id (j.card.getD 19 0) = some a → s.lockedPa j.die j.id (j.card.getD 20 0) = some b →
      a % 64 = 0 → b % 64 = 0 → s.isRemote a = false → s.isRemote b = false →
      s.reachLocal .read 64 (a % 2 ^ 52) = .ok (.mem x) → s.reachLocal .write 64 (b % 2 ^ 52) = .ok (.mem y) →
      s.poisoned x 64 = false → s.jobStored j.id = [] → s.writeWaits y 64 = false → s.heldStores = [] →
      (∀ c o, regionOf y = .tile c o → ∀ q, q < 16 → (s.lqOf c q).role ≠ .rx) → Completes (.jobStart die engine) s (fun u =>
        u.readMem y 64 = s.readMem x 64 ∧ SameMemoryBut s u y 64)) ∧
    (found → s.jobStored j.id = [] → s.retireDue j = true → j.failed = none → j.kind ≠ .route → Completes (.jobRetire die job) s (fun u =>
      u.job job = none ∧ u.mem = (s.writeJobCw j j.cwVal).mem)) ∧
    (∀ v, found → s.jobStored j.id = [] → s.retireDue j = true → j.failed = some v → Completes (.jobRetire die job) s (fun u => failed u v)) ∧
    (found → s.jobStored j.id = [] → j.kind ≠ .task →
      Completes (.jobFailure die job cause tval) s (fun u => failed u (State.failValue cause tval))) ∧
    (∀ e id, (s.core core).commit[idx]? = some e → e.card.head? = some id →
      let s' := s.updCore core (fun c => { c with commit := c.commit.eraseIdx idx })
      (s.commitGuard e = some true → s.commitTurn core idx e = true → e.kind = 0 →
        let w := s'.updJob id (fun j => { j with phase := if j.phase = .spec then .waiting else j.phase })
        Completes (.commitEntryCommit core idx) s (fun u => u = w.takePacket id e.seq ∧
          (∀ k, w.job id = some k → k.kind ≠ .launch → u = w))) ∧
      (s.commitGuard e = some true → s.commitTurn core idx e = true → e.kind = 1 →
        Completes (.commitEntryCommit core idx) s (fun u => u = s'.fireLine (dieOf e.sid) id)) ∧
      (∀ card l k, s.commitGuard e = some true → s.commitTurn core idx e = true → e.kind = 2 → e.card = id :: card :: l →
        (id = 0 → Completes (.commitEntryCommit core idx) s (fun u => u = s'.disarmEntry (dieOf e.sid) (wEntry card))) ∧
        (id ≠ 0 → s.job id = some k → k.failed = none → Completes (.commitEntryCommit core idx) s (fun u =>
          u = (s'.updJob id (fun j => { j with phase := .waiting })).armEntry (dieOf e.sid) card id l))) ∧
      (s.commitGuard e = none ∨ s.commitTurn core idx e = false →
        Completes (.commitEntryCommit core idx) s (fun u => u = s)) ∧
      (s.commitGuard e = some false → e.kind = 1 → Completes (.commitEntryDiscard core idx) s (fun u => u = s')) ∧
      (s.commitGuard e = some false → e.kind = 0 → id ≠ 0 → Completes (.commitEntryDiscard core idx) s (fun u =>
        u.job id = none ∧ u.mem = s.mem ∧ (u.core core).commit = (s.core core).commit.eraseIdx idx)))

/-! ### Contexts, interrupts and elements -/

/-- R20, R57, R58, R285, R286: pre-emption writes the save area of a strand (its place is log 25) and leaves it OFF; a restore
brings its registers back; an interrupt that may be taken is entered with its number; ISEND and the timer set their pending
bits. -/
def Obligations.ContextsAndInterrupts : Prop :=
  ∀ (sid task : Nat) (value : Word) (s : State),
    let st := s.strand sid
    (∀ t, s.preemptDue sid = true → s.leavingTask sid = some t →
      let s' := (s.resolveGuards sid).updStrand sid (fun st => State.captured st (s.nextCycle sid))
      Completes (.preemption sid) s (fun u => (u.strand sid).run = .off ∧
        u.mem = (s'.storeBytes 0 t.id saveBytes (State.areaOf t sid) saveBytes (s'.contextImage sid)).mem ∧
        ∃ x ∈ u.tasks, x.id = t.id ∧
          x.kept = t.kept ++ [(sid, st.depth, ((s.core (coreOf sid)).parked sid).length, st.seq + 1)])) ∧
    (s.preemptDue sid = false → Completes (.preemption sid) s (fun u => u = s)) ∧
    (∀ t, s.task task = some t → s.restoreDue sid t = true → s.restoreFits sid t = true → t.id ≠ 0 → sid < 2048 →
      let img := s.savedImage t sid
      bitN (fieldN img 6 1) 0 = false → Completes (.contextRestore sid task) s (fun u =>
        ((u.strand sid).run = .ready ∨ (u.strand sid).run = .run) ∧ (u.strand sid).regs = (st.ofImage img).regs ∧
        (u.strand sid).v = (st.ofImage img).v ∧ (u.strand sid).pc = BitVec.ofNat 18 (fieldN img 16 8) ∧ u.mem = s.mem)) ∧
    (∀ i, s.interruptDue sid = true → s.interruptOf sid = some i → st.priv ≠ 2 → Completes (.interrupt sid) s (fun u =>
      (u.strand sid).cause.getLsbD 63 = true ∧ (u.strand sid).cause.toNat % 256 = i ∧ (u.strand sid).epc = st.pc ∧
      (u.strand sid).pc = st.tvec.extractLsb' 0 18 ∧ (u.strand sid).priv = 1 ∧ (u.strand sid).ie = false ∧
      (u.strand sid).regs = st.regs ∧ u.mem = s.mem)) ∧
    Completes (.isend value) s (fun u => u = s.updStrand (bitsN value.toNat 2 9 * 4 + value.toNat % 4)
      (fun st => { st with ipend := st.ipend ||| 1 })) ∧
    (st.tcmp.toNat ≤ s.cycleOf sid → st.ipend.getLsbD 1 = false → Completes (.timerInterrupt sid) s (fun u =>
      u = s.updStrand sid (fun st => { st with ipend := st.ipend ||| 2 }))) ∧
    (s.cycleOf sid < st.tcmp.toNat → Completes (.timerInterrupt sid) s (fun u => u = s))

/-- R29, R30, R282, R286, R289, R368: the data of the oldest element fills its slot, a scatter element is done, and one that faults
parks, or with 256 parked goes to the overflow register with cause 0x16; a membership register changes; a die observes a
completion; and DBGCHAN is written. -/
def Obligations.ElementsAndChannels : Prop :=
  ∀ (sid core die ch : Nat) (hi : Bool) (value : Word) (s : State),
    let st := s.strand sid
    let n := coreOf sid
    (∀ e, s.elemDue sid = some e → e.scatter = false → e.cause = 0 → Completes (.gatherDataArrival sid) s (fun u =>
      (u.strand sid).aq = st.aq.drop 1 ∧ (u.strand sid).dq = st.dq.map (fun d =>
        if d.id = e.slot then { d with data := some (BitVec.ofNat 64 e.data) } else d) ∧ u.mem = s.mem)) ∧
    (∀ e, s.elemDue sid = some e → e.scatter = true → e.cause = 0 → Completes (.scatterElementComplete sid) s (fun u =>
      (u.strand sid).aq = st.aq.drop 1 ∧ (u.strand sid).dq = st.dq ∧ u.mem = s.mem)) ∧
    (∀ e, (s.core n).overflow = none → s.elemDue sid = some e → e.cause ≠ 0 → e.sid = sid →
      ((s.core n).fq.length < 256 → Completes (.elementFault sid) s (fun u => (u.core n).fq = (s.core n).fq ++ [e] ∧
        (u.strand sid).aq = st.aq.drop 1 ∧ (u.strand sid).reports.any (fun r => r.fq) = true ∧ u.mem = s.mem)) ∧
      (256 ≤ (s.core n).fq.length → Completes (.elementFault sid) s (fun u => (u.core n).overflow = some e ∧
        (u.strand sid).reports = st.reports ++ [Trap.of 0x16 e.va] ∧ (u.core n).fq = (s.core n).fq ∧ u.mem = s.mem))) ∧
    (core < 512 → Completes (.bmembWrite core hi value) s (fun u =>
      (if hi then (u.core core).bmemb1 = value ∧ (u.core core).bmemb0 = (s.core core).bmemb0
        else (u.core core).bmemb0 = value ∧ (u.core core).bmemb1 = (s.core core).bmemb1) ∧ u.mem = s.mem)) ∧
    (∀ o, (s.chan ch).obs.find? (fun o => o.1 == die) = some o → o.2.2 ≤ (s.die die).cycle →
      Completes (.completionObserved die ch) s (fun u => u.chan ch = { s.chan ch with obs := (s.chan ch).obs.erase o } ∧
        u.mem = s.mem ∧ u.strands = s.strands)) ∧
    Completes (.dbgchanWrite value) s (fun u => u = { s with
      thaw := s.thaw ||| s.frz, frz := value.setWidth 32, haltall := value.extractLsb' 32 32 })

/-! ### Start, health and debug (R288 to R300) -/

/-- R295 to R297: reset leaves STAGE 1 with every register at its reset value, and a warm one keeps FAILS (log 29); GO verifies
the image; a start that works ends at STAGE 4 with FAILS 0, and one that fails is back at STAGE 1 with its reason and one more
failure. -/
def Obligations.StartAndReset : Prop :=
  ∀ s : State,
    let fails (u : State) (reason : Nat) : Prop := u = { s with boot := { s.boot with
      stage := 1, reason := BitVec.ofNat 8 reason, fails := min 3 (s.boot.fails + 1)
      min := s.boot.min || decide (min 3 (s.boot.fails + 1) = 3) } }
    let fresh (u : State) (n : Nat) : Prop := u.boot.stage = 1 ∧ u.boot.fails = n ∧ u.boot.reason = 0 ∧ u.boot.image = [] ∧
      u.strands = [] ∧ u.cores = [] ∧ u.dies = State.reset.dies ∧ u.mem = [] ∧ u.tasks = [] ∧ u.devid = 0 ∧ u.l2mode = true ∧
      u.ready = State.reset.ready
    Completes .powerOnReset s (fun u => fresh u 0) ∧ Completes .warmReset s (fun u => fresh u s.boot.fails) ∧
    (s.boot.stage = 1 → s.imageFault = 0 → Completes .bootGo s (fun u =>
      u = { s with boot := { s.boot with stage := 3, deadline := s.now + 10500000000 } })) ∧
    (s.boot.stage = 1 → s.imageFault ≠ 0 → Completes .bootGo s (fun u => fails u s.imageFault)) ∧
    (s.boot.stage = 3 → s.noHbm = false → Completes .bootOk s (fun u =>
      u = { s with boot := { s.boot with stage := 4, fails := 0, reason := 0, min := false } })) ∧
    (s.boot.stage = 3 → s.noHbm = true → Completes .bootOk s (fun u => fails u 0x05)) ∧
    (s.boot.stage = 3 → Completes .bootFail s (fun u => fails u 0x04)) ∧
    (s.boot.stage = 3 → s.boot.deadline ≤ s.now → Completes .bootTimeout s (fun u => fails u 0x03)) ∧
    (s.boot.stage = 3 ∨ s.boot.stage = 2 → Completes (.machineCheck .start) s (fun u => fails u 0x06))

/-- R14, R20, R225, R288, R290, R298, R299, R300: a strand that is not off is halted by the debugger, its visible results written, and
resumed; a function that passes its test is ready, a link's with its router and a stack's with the L2 slices of its die, unless it
has failed; one that fails is not ready; a trip takes a step of throttling and calm time gives it back; and bad data that a strand
consumes is reported to it. That a failed bank keeps its mode is the model's reading (log 31). -/
def Obligations.HealthAndDebug : Prop :=
  ∀ (sid word bit die pa size clu : Nat) (s : State),
    let st := s.strand sid
    let d := s.die die
    let bitOf (u : State) : Bool := (u.ready.getD word 0).getLsbD bit
    (st.run ≠ .off → Completes (.debugHaltRequest sid) s (fun u => (u.strand sid).run = .debug ∧
      (u.strand sid).regs = ((s.settleNow sid).strand sid).regs ∧ (u.strand sid).pc = st.pc ∧ u.mem = s.mem)) ∧
    (st.run = .debug → Completes (.debugResume sid) s (fun u => ((u.strand sid).run = .ready ∨ (u.strand sid).run = .run) ∧
      (u.strand sid).regs = st.regs ∧ (u.strand sid).pc = st.pc ∧ u.mem = s.mem)) ∧
    (State.ownBit word bit = true → (s.lost.getD word 0).getLsbD bit = false →
      (State.stackBit word bit = true → s.slicesReady 13 ((bit - 4) / 3) = true) →
      (State.linkBit word bit = true → s.routerReady ((bit - 16) / 4) = true) →
      Completes (.selfTestPass word bit) s (fun u => bitOf u = true ∧ u.mem = s.mem ∧ u.strands = s.strands)) ∧
    (State.ownBit word bit = true → (s.lost.getD word 0).getLsbD bit = true →
      Completes (.selfTestPass word bit) s (fun u => bitOf u = false)) ∧
    (word < 15 → State.ownBit word bit = true → Completes (.unitFailure word bit) s (fun u => bitOf u = false ∧
      (u.lost.getD word 0).getLsbD bit = true ∧ (bitOf s = true → .msix 69 ∈ u.outbox) ∧
      (word ≠ 10 → u.mem = s.mem ∧ u.strands = s.strands))) ∧
    (clu < 64 → bit < 64 → Completes (.unitFailure (15 + clu) bit) s (fun u =>
      u.bank clu bit = { s.bank clu bit with nrdy := true } ∧ u.mem = s.mem)) ∧
    Completes (.droopTrip die) s (fun u => u = s.updDie die (fun d => { d with
      droops := min (2 ^ 32 - 1) (d.droops + 1), dstep := min 4 (d.dstep + 1), calm := s.now + 1050 })) ∧
    (0 < d.dstep → d.calm ≤ s.now → Completes (.droopRecovery die) s (fun u => u = s.updDie die (fun d => { d with
      dstep := d.dstep - 1, calm := s.now + 1050 }))) ∧
    (st.run ≠ .off → Completes (.machineCheck (.strand sid pa)) s (fun u => u = s.updStrand sid (fun st =>
      { st with reports := st.reports ++ [Trap.of 0x3F pa] }))) ∧
    Completes (.machineCheck (.poison pa size)) s (fun u => u = { s with
      poison := s.poison ++ (List.range size).map (fun i => pa + i) })

/-! ### The whole machine -/

/-- Every instruction answers a next state in every state, and no step stops: R277 takes every exception, and what the manual
leaves open is a free value (log 5) or a logged reading. -/
def Obligations.NothingStops : Prop :=
  (∀ (i : Instr) (s : State), ∃ t, exec i s = .next t) ∧ ∀ s : State, s.Goes

/-- Memory stays in its canonical form at every step. -/
def Obligations.StepKeepsMemoryForm : Prop := ∀ s t : State, s.Inv → step s = .next t → t.Inv

/-- R24, R275, R276, R66, R71, R285, R104, R29, R99, R101, R161, R205, R208, R217, R295: what reset leaves: memory with nothing listed
and in its form, every strand off and uninhibited at user privilege, and the registers at the values of their field maps. Of the
registers here the manual gives no reset value for the state of a strand (OFF) and for DBGCTL.EN (0): these two are the model's
(log 1). -/
def Obligations.ResetState : Prop :=
  let s := State.reset
  s.Inv ∧ s.mem = [] ∧ s.boot.stage = 0 ∧ s.boot.fails = 0 ∧ s.inbox = [] ∧ s.lease = 256 ∧ s.ackto = 8192 ∧ s.rtxlim = 8 ∧
  s.rnrlim = 4 ∧ s.l2mode = true ∧
  (∀ sid, (s.strand sid).run = .off ∧ (s.strand sid).status = 0 ∧ (s.strand sid).cause = 0 ∧ (s.strand sid).epc = 0 ∧
    (s.strand sid).fpctl = 0 ∧ (s.strand sid).rng = 1 ∧ (s.strand sid).tcmp = BitVec.allOnes 64 ∧
    (s.strand sid).dbgEn = false) ∧
  (∀ n, (s.core n).yhen = true ∧ (s.core n).mrng = 1 ∧ (s.core n).rxbase = 3 ∧ (s.core n).lent = none ∧
    ∀ q, (h : q < 16) → (s.core n).lq[q].role = .unbound) ∧
  (∀ clu b, (s.bank clu b).mode = .cache ∧ (s.bank clu b).busy = false) ∧ (∀ ch, (s.chan ch).gen = 0) ∧
  (∀ q, (s.queue q).en = false) ∧ ∀ d, (s.die d).hold = 4096 ∧ (s.die d).tokens = 4 ∧ (s.die d).jobs = [] ∧ (s.die d).cycle = 0

/-- R303, R322, R152, R305, R297 (the order of the units is log 8): a step takes the first event that waits, which in minimal mode is
gone where its unit does not run, or else what a unit has
ready, each by `exec`; else the oldest queued load of a strand that may perform does; else a matrix unit issues the micro-op that its next word decodes to; else a strand in RUN issues, whose
fetch gives the bundle that the halfwords at its pc decode to, a literal or a dictionary entry, and whose operations act by
`exec` in their order, each with its squash flag and guard, the bundle's end around them. -/
def Obligations.StepRunsInstruction : Prop :=
  (∀ (s : State) (i : Instr) (rest : List Instr), s.inbox = i :: rest →
    (s.boot.min = false ∨ State.minimalTakes i = true → step s = exec i { s with inbox := rest }) ∧
    (s.boot.min = true → State.minimalTakes i = false → step s = .next { s with inbox := rest })) ∧
  (∀ (s t : State) (i : Instr), s.inbox = [] → s.due = some i → exec i s = .next t → step s = .next (t.passTurn i)) ∧
  (∀ (s : State) (sid : Nat), s.inbox = [] → s.due = none → s.nextLoad = some sid → step s = .next (s.performHead sid)) ∧
  (∀ (s : State) (core : Nat) (i : Instr) (r : Routine), s.inbox = [] → s.due = none → s.nextLoad = none → s.nextUnit = some core →
    (s.core core).routine = some r → r.ended = false → r.next ≤ (s.die (dieOfCore core)).cycle →
    r.word < (entryRange r.entry).2 → decodeMicro (s.mword core r.word) = some i → step s = exec i { s with mcore := core }) ∧
  (∀ (s : State) (sid : Nat), s.inbox = [] → s.due = none → s.nextLoad = none → s.nextUnit = none → s.nextStrand = some sid →
    step s = s.issueOn sid) ∧
  (∀ s : State, s.inbox = [] → s.due = none → s.nextLoad = none → s.nextUnit = none → s.nextStrand = none →
    step s = .next s.elapse) ∧
  (∀ (s : State) (sid w h : Nat) (b : Bundle), isThread sid = false →
    (s.streamHalf sid (s.strand sid).pc.toNat = some 0xFFFF → s.literalAt sid (s.strand sid).pc.toNat = some w →
      decodeBundle w = some b → s.fetch sid = .ok (b, 25)) ∧
    (s.streamHalf sid (s.strand sid).pc.toNat = some h → h ≠ 0xFFFF → h < s.dictLen sid →
      decodeBundle (s.dictEntry sid h) = some b → s.fetch sid = .ok (b, 1))) ∧
  (∀ (s s' t : State) (sid : Nat) (b : Bundle) (ops : List (Guard × SlotOp)), s.attempt sid = (s', .ok (b, true, ops)) →
    (s.strand sid).halting = false → s.boundary sid false = none → s.stops sid = false →
    State.act ops (s'.startBundle b.stall.toNat) = .next t → s'.walkWaits t = false →
    (s'.me.sbcheck.getLsbD 0 = true → lateWrite t.me t.issue.seq = none) → s.issueOn sid = .next (t.endBundle b)) ∧
  (∀ s : State, State.act [] s = .next s) ∧
  ∀ (s t : State) (g : Guard) (o : SlotOp) (rest : List (Guard × SlotOp)),
    exec o.op { s with issue := { s.issue with
      checked := true, sq := o.sq && squashable o.op && !s.popsFifo o.op
      spec := specGuard s.me s.issue.cycle g o } } = .next t →
    State.act ((g, o) :: rest) s = State.act rest t

/-- R42, R306, R43: at the cycle in which it becomes visible, the one result in flight is written under its mask to its register
and to no other; a write to s0 or g0 is ignored; before that cycle nothing is written. -/
def Obligations.ResultLands : Prop :=
  ∀ (st : Strand) (r : Result) (t d : Nat), st.flight = [r] → r.due = some d → r.flags = 0 → r.fpctl = false →
    (t < d → st.settle t = st) ∧
    (d ≤ t → (st.settle t).flight = [] ∧ (st.settle t).pc = st.pc ∧ (st.settle t).status = st.status ∧
      (st.settle t).fpctl = st.fpctl ∧
      (∀ i : BitVec 6, (st.settle t).regs.rs i = if r.dst = .s i ∧ i ≠ 0
        then mergeBits (st.regs.rs i) (r.val.setWidth 64) (r.mask.setWidth 64) else st.regs.rs i) ∧
      (∀ i : BitVec 4, (st.settle t).regs.ra i = if r.dst = .a i
        then mergeBits (st.regs.ra i) (r.val.setWidth 64) (r.mask.setWidth 64) else st.regs.ra i) ∧
      (∀ i : BitVec 4, (st.settle t).regs.rg i = if r.dst = .g i ∧ i ≠ 0 then r.val.getLsbD 0 else st.regs.rg i) ∧
      (∀ i : BitVec 3, (st.settle t).regs.rvm i = if r.dst = .vm i
        then mergeBits (st.regs.rvm i) (r.val.setWidth 256) (r.mask.setWidth 256) else st.regs.rvm i) ∧
      (∀ i : BitVec 6, (st.settle t).rv i = if r.dst = .v i then mergeBits (st.rv i) r.val r.mask else st.rv i) ∧
      (∀ i : BitVec 3, (st.settle t).regs.rm i = if r.dst = .m i
        then mergeBits (st.regs.rm i) (r.val.setWidth 64) (r.mask.setWidth 64) else st.regs.rm i) ∧
      ∀ i : BitVec 4, (st.settle t).regs.rx i = if r.dst = .x i
        then mergeBits (st.regs.rx i) (r.val.setWidth 1024) (r.mask.setWidth 1024) else st.regs.rx i)

/-! ### Encodings (R302 to R322, R386, R387) -/

/-- Every well-formed micro-op and operation is what its own word decodes to, every operand at every value that the encoding
admits. -/
def Obligations.DecodeOfEncode : Prop :=
  ∀ i : Instr, i.wf = true →
    (i.slot = .micro → decodeTableWord 64 (encode i) = some i) ∧
    (i.slot ≠ .micro → i.slot ≠ .event → decodeTableWord 384 (encode i) = some i)

/-- R306, R4: a word decodes to a bundle only if every operation in it is assigned to its slot and the word is the one encoding of
that bundle: what the decoder accepts holds no unassigned field; the same for micro-ops. -/
def Obligations.DecodeOnlyAssigned : Prop :=
  (∀ (w : Nat) (b : Bundle), w < 2 ^ 384 → decodeBundle w = some b → b.wf = true ∧ encodeBundle b = w) ∧
  ∀ (w : Nat) (i : Instr), w < 2 ^ 64 → decodeMicro w = some i → i.wf = true ∧ i.slot = .micro ∧ encodeMicro i = w

/-- A word given by fields: the lowest bit and the value of each. -/
def Sys2Proof.Machine.fieldsWord (base : Nat) (l : List (Nat × Nat)) : Nat :=
  l.foldl (fun a p => a + p.2 * 2 ^ (base + p.1)) 0

/-- R309, R311, R313, R315, R316, R318, R320, R322: one word of each slot, its fields at the bits that the manual gives, decodes
to its operation. -/
def Obligations.DecodedWords : Prop :=
  decodeTableWord 384 (fieldsWord 319 [(39, 0x01), (32, 2), (26, 3), (20, 4), (13, 5), (0, 1)]) =
    some (.add .i32 true 3 4 (.reg 5)) ∧
  decodeTableWord 384 (fieldsWord 272 [(42, 0x02), (35, 8), (29, 1), (23, 2), (17, 3), (8, 2), (7, 1), (4, 5)]) =
    some (.vadd .f32 false .rtz 1 2 (.vec 3) ⟨true, 5⟩) ∧
  decodeTableWord 384 (fieldsWord 208 [(54, 0x01), (47, 3), (45, 1), (42, 3), (36, 7), (32, 2), (0, 0xFFFF8)]) =
    some (.ld .i64 ⟨.acq, .dev⟩ 7 ⟨2, 0xFFFF8⟩) ∧
  decodeTableWord 384 (fieldsWord 160 [(40, 0x2), (0, 1023)]) = some (.mcall 1023) ∧
  decodeTableWord 384 (fieldsWord 128 [(25, 0x2), (18, 3), (14, 4), (0, 128)]) = some (.scst 4 128 3) ∧
  decodeTableWord 384 (fieldsWord 80 [(38, 0x10), (32, 3), (29, 3), (26, 3), (20, 4), (14, 5), (8, 3), (0, 7)]) =
    some (.vote (.takes .dev) (.takes .dev) 4 5 3 7) ∧
  decodeTableWord 384 (fieldsWord 40 [(31, 0x1), (0, 0x3FFFFF)]) = some (.br 0x3FFFFF) ∧
  decodeTableWord 64 (fieldsWord 0 [(58, 0x0B), (53, 17), (49, 8), (0, 5)]) = some (.mPset 17 8 5) ∧
  decodeTableWord 384 (fieldsWord 319 [(39, 0x01), (32, 8)]) = none ∧
  decodeTableWord 64 (fieldsWord 0 [(58, 0x0E)]) = none

/-- R338, R339, R353, R413, whole: where AND, ANDN, CLZ and POPC stand in a bundle, register and immediate forms, and what each
writes in 1 cycle: the bits of both operands, of the first and not the second, the zero bits above the highest one, the ones. -/
def Obligations.BitPatterns : Prop :=
  ∀ (t : Ty) (sd sa sb : BitVec 6) (imm : BitVec 15) (s : State), t.isInt = true →
    let word (op : Nat) (l : List (Nat × Nat)) : Nat := fieldsWord 319 ([(39, op), (32, t.code), (26, sd.toNat), (20, sa.toNat)] ++ l)
    let a := s.me.regs.rs sa
    let and_ (b : SrcB) (v : Word) : Prop := Completes (.and t sd sa b) s (fun u => ∃ x, LandsS s u sd x 1 false ∧
      HoldsBits t x (fun k => a.getLsbD k && v.getLsbD k))
    let andn (b : SrcB) (v : Word) : Prop := Completes (.andn t sd sa b) s (fun u => ∃ x, LandsS s u sd x 1 false ∧
      HoldsBits t x (fun k => a.getLsbD k && !v.getLsbD k))
    (decodeTableWord 384 (word 0x02 [(13, sb.toNat)]) = some (.and t sd sa (.reg sb)) ∧
      decodeTableWord 384 (word 0x02 [(19, 1), (4, imm.toNat)]) = some (.and t sd sa (.imm imm)) ∧
      and_ (.reg sb) (s.me.regs.rs sb) ∧ and_ (.imm imm) (imm.signExtend 64)) ∧
    (decodeTableWord 384 (word 0x03 [(13, sb.toNat)]) = some (.andn t sd sa (.reg sb)) ∧
      decodeTableWord 384 (word 0x03 [(19, 1), (4, imm.toNat)]) = some (.andn t sd sa (.imm imm)) ∧
      andn (.reg sb) (s.me.regs.rs sb) ∧ andn (.imm imm) (imm.signExtend 64)) ∧
    (decodeTableWord 384 (word 0x06 []) = some (.clz t sd sa) ∧
      Completes (.clz t sd sa) s (fun u => ∃ x, LandsS s u sd x 1 false ∧ x.toNat ≤ t.width ∧
        (∀ k, t.width - x.toNat ≤ k → k < t.width → a.getLsbD k = false) ∧
        (x.toNat < t.width → a.getLsbD (t.width - 1 - x.toNat) = true))) ∧
    (decodeTableWord 384 (word 0x19 []) = some (.popc t sd sa) ∧
      Completes (.popc t sd sa) s (fun u => ∃ x, LandsS s u sd x 1 false ∧
        x.toNat = ((List.range t.width).filter (fun k => a.getLsbD k)).length))

/-- R361, whole: where EJOB stands in a bundle, and that at any privilege it writes the register to the word it names of the
strand's staging card, at once, where the next EGO finds it, and changes nothing else: no trap, no other word, no card submitted. -/
def Obligations.StagingCard : Prop :=
  ∀ (w : BitVec 5) (ss : BitVec 6) (s : State),
    decodeTableWord 384 (fieldsWord 80 [(38, 0x06), (14, ss.toNat), (0, w.toNat)]) = some (.ejob w ss) ∧
    Completes (.ejob w ss) s (fun u => u = s.updMe (fun st => { st with card := st.card.set w.toNat (st.regs.rs ss) w.isLt }) ∧
      u.me.card[w.toNat] = s.me.regs.rs ss ∧ (∀ k, (h : k < 32) → k ≠ w.toNat → u.me.card[k] = s.me.card[k]) ∧
      u.me.status = s.me.status ∧ u.dies = s.dies ∧ u.cores = s.cores ∧ u.issue = s.issue ∧ u.mem = s.mem)

end
end

