-- ==== Sys2Proof/Laws/Clash.lean ====
section
/-! SUPPORT. Stores over bytes that a unit works on: what happens where none is, and that memory keeps its form. -/

namespace Sys2Proof.Machine

/-- Nothing is put over bytes that no range meets. -/
@[simp] theorem overlaid_nil (a n v : Nat) : overlaid [] a n v = v := rfl

namespace State

/-- Bytes written over a list of ranges keep memory's form. -/
theorem inv_fillRanges {s : State} (l : List (Nat × Nat × Nat)) (h : s.Inv) : (s.fillRanges l).Inv :=
  inv_foldl _ (fun _ _ h => inv_writeMem _ _ _ h) l s h

/-- A note of a clash leaves memory alone. -/
@[simp] theorem mem_addClash (s : State) (f : Nat → Clash) : (s.addClash f).mem = s.mem := rfl

/-- A store over words leaves memory alone. -/
theorem mem_clashWords (s : State) (c off n : Nat) : (s.clashWords c off n).mem = s.mem := by
  unfold clashWords
  split
  · rfl
  · dsimp only
    generalize Bool.or _ _ = b
    cases b <;> rfl

/-- A store over a slice leaves memory alone. -/
theorem mem_clashSlice (s : State) (c off n : Nat) : (s.clashSlice c off n).mem = s.mem := by
  unfold clashSlice
  split
  · rfl
  · split
    · rfl
    · split <;> rfl

/-- A store over tile memory keeps memory's form. -/
theorem inv_clashTile {s : State} (p : Bool) (c a n : Nat) (h : s.Inv) : (s.clashTile p c a n).Inv := by
  unfold clashTile
  dsimp only
  refine inv_foldl _ (fun s q h => ?_) _ _ ?_
  · split
    · refine inv_foldl _ (fun s g h => ?_) _ _ h
      split
      · exact inv_writeMem _ _ _ (inv_of_mem rfl h)
      · exact h
    · exact h
  · split
    · exact inv_of_mem rfl h
    · exact h

/-- A store over a region in use keeps memory's form. -/
theorem inv_clashRegion {s : State} (r : RegionUse) (a n : Nat) (h : s.Inv) : (s.clashRegion r a n).Inv := by
  unfold clashRegion
  dsimp only
  split
  · split
    · exact h
    · exact inv_of_mem rfl h
  · refine inv_of_mem rfl (inv_writeMem _ _ _ (inv_foldl _ (fun _ _ h => inv_writeMem _ _ _ h) _ _ ?_))
    exact inv_of_mem rfl h

/-- A store, whatever it clashes with, keeps memory's form. -/
theorem inv_clash {s : State} (w : Writer) (a n : Nat) (h : s.Inv) : (s.clash w a n).Inv := by
  have h1 : (s.clashPlace w.prog a n).Inv := by
    unfold clashPlace
    split
    · exact inv_clashTile _ _ _ _ h
    · exact inv_of_mem (mem_clashWords _ _ _ _) h
    · exact inv_of_mem (mem_clashSlice _ _ _ _) h
    · exact h
  unfold clash
  dsimp only
  refine inv_foldl _ (fun s j h => ?_) _ _ ?_
  · split
    · exact inv_of_mem rfl h
    · exact h
  · split
    · exact inv_foldl _ (fun _ r h => inv_clashRegion r _ _ h) _ _ h1
    · exact h1

/-- The end of a routine keeps memory's form. -/
theorem inv_settleRoutine {s : State} (c : Nat) (h : s.Inv) : (s.settleRoutine c).Inv := by
  unfold settleRoutine
  dsimp only
  refine inv_of_mem rfl (?_ : State.Inv (match s.wordsStored c with | none => _ | some _ => _))
  split
  · exact inv_fillRanges _ h
  · exact inv_of_mem rfl (inv_fillRanges _ h)

/-- The end of a job keeps memory's form. -/
theorem inv_settleJob {s : State} (j : Job) (h : s.Inv) : (s.settleJob j).Inv := by
  unfold settleJob
  dsimp only
  split
  · exact h
  · exact inv_of_mem rfl (inv_fillRanges _ h)

/-- The end of a routine that no store has met leaves memory alone. -/
theorem mem_settleRoutine {s : State} {c : Nat} (h : s.tileStored c = []) (hw : s.wordsStored c = none) :
    (s.settleRoutine c).mem = s.mem := by
  have e : ∀ l : List (Nat × Nat), l.flatMap (fun (w : Nat × Nat) => cutRanges [] w.1 w.2) = [] := by
    intro l
    induction l with
    | nil => rfl
    | cons x l ih => simp [cutRanges]
  simp [settleRoutine, h, hw, e, fillRanges]

/-- The end of a job that no store has met changes nothing. -/
theorem settleJob_of_none {s : State} {j : Job} (h : s.jobStored j.id = []) : s.settleJob j = s := by
  simp [settleJob, h]

/-- A fold that leaves the state alone at every element of the list leaves it alone. -/
theorem foldl_self {α : Type} {f : State → α → State} {s : State} (l : List α) (h : ∀ x ∈ l, f s x = s) : l.foldl f s = s := by
  induction l with
  | nil => rfl
  | cons x l ih =>
    rw [List.foldl_cons, h x List.mem_cons_self]
    exact ih (fun y hy => h y (List.mem_cons_of_mem _ hy))

/-- A job that no program's store meets, no store meets. -/
theorem jobMeets_prog {s : State} {j : Job} {a n : Nat} (w : Writer) (h : s.jobMeets .program j a n = false) :
    s.jobMeets w j a n = false := by
  simp only [jobMeets, governed, Writer.prog, writesBefore, Bool.not_false, Bool.and_true, Bool.true_and, Bool.or_eq_false_iff,
    Bool.and_eq_false_iff] at h ⊢
  exact ⟨h.1.imp .inr id, h.2.imp .inl id⟩

/-- A store over bytes that no unit works on clashes with nothing. -/
theorem clash_of_unclashed {s : State} (w : Writer) {a n : Nat} (h : s.unclashed a n = true) : s.clash w a n = s := by
  simp only [unclashed, Bool.and_eq_true, List.all_eq_true] at h
  obtain ⟨⟨h1, h3⟩, h2⟩ := h
  have e : s.clashPlace w.prog a n = s := by
    unfold clashPlace
    split at h1
    · rename_i c _ _
      simp only [Bool.and_eq_true, List.all_eq_true, Option.isNone_iff_eq_none] at h1
      simp only [clashTile, h1.1, Option.isSome_none, Bool.and_false, Bool.false_eq_true, if_false]
      refine foldl_self _ (fun q hq => ?_)
      split
      · rename_i hr
        have := h1.2 q hq
        simp only [bne, hr, Bool.not_true, Bool.false_or, List.all_eq_true] at this
        refine foldl_self _ (fun g hg => ?_)
        have := this g hg
        simp only [Bool.not_eq_true'] at this
        simp [this]
      · rfl
    · simp only [Option.isNone_iff_eq_none] at h1
      simp only [clashWords, h1]
    · simp only [Option.isNone_iff_eq_none] at h1
      simp only [clashSlice, h1]
    · rfl
  have e3 : s.regions.filter (fun r => regionMeets r a n) = [] :=
    List.filter_eq_nil_iff.2 (fun r hr => by have := h3 r hr; simpa using this)
  unfold clash
  dsimp only
  rw [e, e3, List.foldl_nil, ite_self]
  refine foldl_self _ (fun j hj => ?_)
  obtain ⟨d, hd, hj⟩ := List.mem_flatMap.1 hj
  have := h2 d hd j hj
  simp only [Bool.not_eq_true'] at this
  simp [jobMeets_prog w this]

end State

end Sys2Proof.Machine
end

