-- ==== Sys2Proof/Tests/Slice0.lean ====
section
/-! SUPPORT. Tests. First words written out from the manual's tables of fields, and what they decode to: one for every operation and every
micro-op, a field given by its lowest bit and its value. The expected operation is read from the assembly forms of R309, R311,
R313, R315, R316, R318, R320 and R387; and words that R306 calls unassigned. -/

set_option exponentiation.threshold 1024

namespace Sys2Proof.Tests

open Sys2Proof.Machine

/-- The operations that some words of a slot decode to. -/
def ops (base : Nat) (l : List (List (Nat × Nat))) : List (Option Instr) :=
  l.map (fun f => decodeTableWord 384 (fieldsWord base f))

/-- The micro-ops that some words decode to. -/
def micros (l : List (List (Nat × Nat))) : List (Option Instr) := l.map (fun f => decodeTableWord 64 (fieldsWord 0 f))

/-- R309: OP 39, TYPE 32, SD 26, SA 20, I 19, SB 13, SC 7, RND 4, FN 0; the immediate in bits 18:4. -/
theorem test_decode_scalar_integer : ops 319 [
    [(39, 0x01), (32, 2), (26, 3), (20, 4), (13, 5), (0, 1)], [(39, 0x1E), (32, 3), (26, 63), (20, 1), (19, 1), (4, 0x7FFF)],
    [(39, 0x16), (32, 7), (26, 1), (20, 2), (13, 3)], [(39, 0x17), (32, 0), (26, 1), (20, 2), (13, 3)],
    [(39, 0x09), (32, 3), (26, 1), (20, 2), (13, 3)], [(39, 0x13), (32, 3), (26, 1), (20, 2), (13, 3)],
    [(39, 0x02), (32, 4), (26, 1), (20, 2), (13, 3)], [(39, 0x03), (32, 4), (26, 1), (20, 2), (13, 3)],
    [(39, 0x18), (32, 4), (26, 1), (20, 2), (13, 3)], [(39, 0x1F), (32, 4), (26, 1), (20, 2), (13, 3)],
    [(39, 0x1B), (32, 6), (26, 1), (20, 2), (19, 1), (4, 31)], [(39, 0x1C), (32, 6), (26, 1), (20, 2), (13, 3)],
    [(39, 0x1D), (32, 2), (26, 1), (20, 2), (13, 3)], [(39, 0x11), (32, 1), (26, 1), (20, 2), (13, 3)],
    [(39, 0x12), (32, 8), (26, 1), (20, 2), (13, 3)]] =
  [some (.add .i32 true 3 4 (.reg 5)), some (.sub .i64 false 63 1 (.imm 0x7FFF)),
   some (.mul .n64 false 1 2 (.reg 3)), some (.mulh .i8 1 2 3), some (.div .i64 1 2 (.reg 3)),
   some (.mod .i64 1 2 (.reg 3)), some (.and .n8 1 2 (.reg 3)), some (.andn .n8 1 2 (.reg 3)), some (.or .n8 1 2 (.reg 3)),
   some (.xor .n8 1 2 (.reg 3)), some (.shl .n32 1 2 (.imm 31)), some (.shr .n32 1 2 (.reg 3)), some (.sra .i32 1 2 (.reg 3)),
   some (.max .i16 1 2 (.reg 3)), some (.min .f32 1 2 (.reg 3))] := by decide

/-- R309: BEXT and BINS hold len − 1; CMP and FCMP their condition in FN; GOP inverts by bit 4; LEA and MOV name classes in FN;
MOVHI holds its halfword in bits 18:3. -/
theorem test_decode_scalar_other : ops 319 [
    [(39, 0x04), (32, 7), (26, 1), (20, 2), (13, 56), (7, 7)], [(39, 0x05), (32, 6), (26, 1), (20, 2), (13, 0), (7, 31)],
    [(39, 0x06), (32, 6), (26, 1), (20, 2)], [(39, 0x19), (32, 7), (26, 1), (20, 2)],
    [(39, 0x07), (32, 3), (26, 15), (20, 2), (13, 3), (0, 5)], [(39, 0x1A), (32, 3), (26, 1), (20, 2), (13, 3), (7, 0x13)],
    [(39, 0x0F), (26, 1), (20, 0x12), (13, 3), (0, 2)], [(39, 0x10), (32, 3), (26, 1), (20, 2), (13, 3), (0, 0xF)],
    [(39, 0x14), (32, 3), (26, 7), (20, 5), (0, 0xE)], [(39, 0x14), (32, 3), (26, 7), (19, 1), (4, 9), (0, 1)],
    [(39, 0x15), (32, 3), (26, 9), (19, 1), (3, 0xBEEF), (0, 2)], [(39, 0x08), (32, 2), (26, 1), (20, 2), (4, 2), (0, 8)],
    [(39, 0x0A), (32, 8), (26, 1), (20, 2), (13, 3), (4, 3)], [(39, 0x0E), (32, 9), (26, 1), (20, 2), (13, 3), (4, 5)],
    [(39, 0x0D), (32, 10), (26, 1), (20, 2), (13, 3), (7, 4), (4, 1)], [(39, 0x0B), (32, 8), (26, 3), (20, 2), (13, 1), (0, 7)],
    [(39, 0x0C), (32, 11), (26, 1), (20, 2), (4, 1), (0, 8)]] =
  [some (.bext .n64 1 2 56 7), some (.bins .n32 1 2 0 31), some (.clz .n32 1 2), some (.popc .n64 1 2),
   some (.cmp .i64 .ge 15 2 (.reg 3)), some (.sel .i64 1 3 true 2 3), some (.gop .xor 1 2 true 3 false),
   some (.lea (.a 1) (.a 2) (.reg 3 3)), some (.mov (.m 7) (.k 5)), some (.mov (.a 7) (.imm 9)), some (.movhi 9 0xBEEF 2),
   some (.cvti .i32 .f32 false .rtz 1 2), some (.fadd .f32 .rup 1 2 3), some (.fmul .f16 .rs 1 2 3),
   some (.ffma .bf16 .rne 1 2 3 4), some (.fcmp .f32 .ord 3 2 1), some (.fcvt .e4m3 .f32 .rne 1 2)] := by decide

/-- R311: OP 42, TYPE 35, VD 29, VA 23, VB 17, VC 11, RND 8, MEN 7, VM 4, FN 0. -/
theorem test_decode_vector_two : ops 272 [
    [(42, 0x02), (35, 8), (29, 1), (23, 2), (17, 3), (8, 2), (7, 1), (4, 5)], [(42, 0x1D), (35, 2), (29, 1), (23, 2), (17, 3), (0, 9)],
    [(42, 0x11), (35, 1), (29, 1), (23, 2), (17, 3)], [(42, 0x0A), (35, 9), (29, 1), (23, 2), (17, 3), (11, 4)],
    [(42, 0x03), (35, 6), (29, 1), (23, 2), (17, 3)], [(42, 0x13), (35, 6), (29, 1), (23, 2), (17, 3)],
    [(42, 0x1E), (35, 6), (29, 1), (23, 2), (17, 3)], [(42, 0x1A), (35, 6), (29, 1), (23, 2), (17, 3), (0, 8)],
    [(42, 0x1B), (35, 6), (29, 1), (23, 2), (17, 3)], [(42, 0x1C), (35, 2), (29, 1), (23, 2), (17, 3)],
    [(42, 0x0E), (35, 8), (29, 1), (23, 2), (17, 3)], [(42, 0x0F), (35, 3), (29, 1), (23, 2), (17, 3)],
    [(42, 0x05), (35, 8), (29, 7), (23, 2), (17, 3), (0, 6)], [(42, 0x14), (35, 4), (29, 1), (23, 2), (17, 3)],
    [(42, 0x19), (35, 2), (29, 1), (23, 2), (17, 3), (7, 1), (4, 6)]] =
  [some (.vadd .f32 false .rtz 1 2 (.vec 3) ⟨true, 5⟩), some (.vsub .i32 true .dyn 1 2 (.sca 3) ⟨false, 0⟩),
   some (.vmul .i16 false .dyn 1 2 (.vec 3) ⟨false, 0⟩), some (.vfma .f16 .dyn 1 2 (.vec 3) 4 ⟨false, 0⟩),
   some (.vand .n32 1 2 (.vec 3) ⟨false, 0⟩), some (.vor .n32 1 2 (.vec 3) ⟨false, 0⟩), some (.vxor .n32 1 2 (.vec 3) ⟨false, 0⟩),
   some (.vshl .n32 1 2 (.sca 3) ⟨false, 0⟩), some (.vshr .n32 1 2 (.vec 3) ⟨false, 0⟩), some (.vsra .i32 1 2 (.vec 3) ⟨false, 0⟩),
   some (.vmax .f32 1 2 (.vec 3) ⟨false, 0⟩), some (.vmin .i64 1 2 (.vec 3) ⟨false, 0⟩),
   some (.vcmp .f32 .un 7 2 (.vec 3) ⟨false, 0⟩), some (.vperm .n8 1 2 (.vec 3) ⟨false, 0⟩),
   some (.vsel .i32 1 2 (.vec 3) 6)] := by decide

/-- R311: the forms with one source or another layout. -/
theorem test_decode_vector_one : ops 272 [
    [(42, 0x01), (35, 2), (29, 1), (23, 2)], [(42, 0x12), (35, 8), (29, 1), (23, 2)], [(42, 0x10), (35, 10), (29, 1), (23, 2)],
    [(42, 0x04), (35, 6), (29, 1), (23, 2), (7, 1), (4, 1)], [(42, 0x06), (29, 1), (23, 7)],
    [(42, 0x07), (35, 8), (29, 1), (23, 2), (0, 12)], [(42, 0x08), (35, 8), (29, 1), (23, 2)],
    [(42, 0x0C), (35, 8), (29, 1), (23, 2)], [(42, 0x15), (35, 8), (29, 1), (23, 2), (8, 4)], [(42, 0x17), (35, 8), (29, 1), (23, 2)],
    [(42, 0x09), (35, 6), (29, 1), (23, 2), (17, 3)], [(42, 0x0B), (35, 6), (29, 1), (23, 2), (17, 3)],
    [(42, 0x0D), (29, 1), (23, 2), (17, 3), (0, 3)], [(42, 0x16), (35, 8), (29, 1), (23, 2), (8, 1)],
    [(42, 0x18), (35, 2), (29, 1), (23, 2)]] =
  [some (.vabs .i32 1 2 ⟨false, 0⟩), some (.vneg .f32 1 2 ⟨false, 0⟩), some (.vmov .bf16 1 2 ⟨false, 0⟩),
   some (.vbcast .n32 1 2 ⟨true, 1⟩), some (.vcount 1 7), some (.vcvt .f32 .e5m2 .dyn 1 2 ⟨false, 0⟩),
   some (.vexp2 .f32 .dyn 1 2 ⟨false, 0⟩), some (.vlog2 .f32 .dyn 1 2 ⟨false, 0⟩), some (.vrcp .f32 .rdn 1 2 ⟨false, 0⟩),
   some (.vrsq .f32 .dyn 1 2 ⟨false, 0⟩), some (.vextr .n32 1 2 3), some (.vins .n32 1 2 3), some (.vmask .andn 1 2 3),
   some (.vred .f32 .sum .rne 1 2 ⟨false, 0⟩), some (.vscan .i32 .dyn 1 2 ⟨false, 0⟩)] := by decide

/-- R313: OP 54, TYPE 47, ORD 45, SCOPE 42, SD 36, AB 32, SB 26, SC 20, IMM 0. -/
theorem test_decode_l : ops 208 [
    [(54, 0x01), (47, 3), (45, 1), (42, 3), (36, 7), (32, 2), (0, 0xFFFF8)], [(54, 0x02), (47, 0), (45, 2), (42, 4), (32, 2), (26, 5), (0, 1)],
    [(54, 0x03), (36, 7), (32, 2), (20, 0xC)], [(54, 0x04), (32, 2), (26, 9), (20, 0x9), (0, 256)], [(54, 0x05)],
    [(54, 0x06), (45, 3), (42, 3)], [(54, 0x07), (47, 6), (36, 1), (32, 2), (26, 3)], [(54, 0x08), (32, 3), (0, 64)],
    [(54, 0x09), (32, 3)], [(54, 0x0A), (47, 8), (32, 3), (26, 4)], [(54, 0x0B), (47, 2), (32, 3), (26, 4), (20, 5)],
    [(54, 0x0C), (36, 4)], [(54, 0x0C), (36, 4), (20, 1)], [(54, 0x0D), (36, 4)]] =
  [some (.ld .i64 ⟨.acq, .dev⟩ 7 ⟨2, 0xFFFF8⟩), some (.st .i8 ⟨.rel, .fab⟩ ⟨2, 1⟩ 5),
   some (.vld ⟨.relaxed, .core⟩ 7 ⟨2, 0⟩ ⟨true, 4⟩), some (.vst ⟨.relaxed, .core⟩ ⟨2, 256⟩ 9 ⟨true, 1⟩), some .mark,
   some (.fence ⟨.acqrel, .dev⟩), some (.waitaddr .n32 ⟨.relaxed, .core⟩ 1 ⟨2, 0⟩ 3), some (.cflush ⟨3, 64⟩), some (.cinv ⟨3, 0⟩),
   some (.gidx .f32 ⟨3, 0⟩ 4), some (.sidx .i32 ⟨3, 0⟩ 4 5), some (.gpop 4), some (.gpopRp 4), some (.qstat 4)] := by decide

/-- R313, R314: atomics and sparse operations. -/
theorem test_decode_l_atomic : ops 208 [
    [(54, 0x0E), (47, 2), (45, 3), (42, 1), (36, 1), (32, 2), (26, 3), (20, 5), (0, 8)],
    [(54, 0x0F), (47, 7), (36, 1), (32, 2), (26, 3), (20, 4)], [(54, 0x10), (47, 6), (36, 1), (32, 2), (26, 3), (20, 15)],
    [(54, 0x11), (47, 6), (36, 1), (32, 2), (26, 3), (20, 4)], [(54, 0x12), (47, 7), (36, 1), (32, 2), (20, 4)],
    [(54, 0x13), (47, 7), (36, 1), (32, 2), (26, 3), (20, 4)], [(54, 0x14), (45, 1), (42, 0), (36, 1), (32, 2), (26, 3)],
    [(54, 0x15), (32, 2), (26, 3), (20, 4)], [(54, 0x16), (45, 2), (42, 2), (36, 1), (32, 2), (26, 3), (20, 4)],
    [(54, 0x17), (32, 2), (26, 3), (20, 4)], [(54, 0x18), (36, 1), (32, 2), (26, 3), (20, 4)]] =
  [some (.amo .i32 .min ⟨.acqrel, .clu⟩ 1 ⟨2, 8⟩ 3), some (.amocas .n64 ⟨.relaxed, .core⟩ 1 ⟨2, 0⟩ 3 4),
   some (.qinc .n32 ⟨.relaxed, .core⟩ 1 15 ⟨2, 0⟩ 3), some (.qwrap .n32 ⟨.relaxed, .core⟩ 1 4 ⟨2, 0⟩ 3),
   some (.qdec .n64 ⟨.relaxed, .core⟩ 1 4 ⟨2, 0⟩), some (.qaddl .n64 ⟨.relaxed, .core⟩ 1 4 ⟨2, 0⟩ 3),
   some (.spld ⟨.acq, .core⟩ 1 2 3), some (.spst ⟨.relaxed, .core⟩ 2 3 4), some (.spadd ⟨.rel, .die⟩ 1 2 3 4), some (.spcur 2 4 3),
   some (.spnext ⟨.relaxed, .core⟩ 1 3 4 2)] := by decide

/-- R315 (OP 40, SD 31, IMM 0) and R316 (OP 25, XR 18, AB 14, IMM 0). -/
theorem test_decode_m_x : ops 160 [[(40, 1), (0, 3)], [(40, 2), (0, 1023)], [(40, 3), (31, 5), (0, 1)], [(40, 4), (31, 5)],
      [(40, 5), (0, 2)], [(40, 6)]] ++ ops 128 [[(25, 1), (18, 3), (14, 4), (0, 0x3F80)], [(25, 2), (18, 3), (14, 4), (0, 128)]] =
  [some (.lend 3), some (.mcall 1023), some (.mpwr 5 true), some (.mstat 5), some (.mwait 2), some .reclaim,
   some (.scld 3 4 0x3F80), some (.scst 4 128 3)] := by decide

/-- R318: OP 38, SPEC 34, ORD 32, SCOPE 29, SCOPE2 26, SD 20, SA 14, SB 8, IMM 0. -/
theorem test_decode_q : ops 80 [
    [(38, 0x01), (20, 1), (14, 2), (8, 3), (0, 0x0F)], [(38, 0x01), (20, 1), (14, 2), (8, 3), (0, 0x1F)], [(38, 0x01), (20, 1), (0, 0x2F)],
    [(38, 0x02), (0, 0x25)], [(38, 0x02), (14, 9), (0, 0x65)], [(38, 0x03), (0, 0x35)], [(38, 0x04), (20, 6), (0, 5)],
    [(38, 0x05), (34, 1), (20, 0x13), (14, 4), (8, 5), (0, 0x12)], [(38, 0x06), (14, 7), (0, 31)], [(38, 0x07), (34, 1), (0, 1)],
    [(38, 0x08), (0, 3)], [(38, 0x09), (0, 3)], [(38, 0x0A), (14, 2), (0, 3)], [(38, 0x0B), (34, 1), (0, 3)], [(38, 0x0C), (0, 15)],
    [(38, 0x0D), (0, 3)]] =
  [some (.lqbindTx 15 1 2 3), some (.lqbindRx 15 1 2 3), some (.lqbindUn 15 1), some (.lqpush 5 2), some (.lqpushT 5 2 9),
   some (.lqpop 5 3), some (.lqstat 6 5), some (.xfer true true 1 2 4 3 5), some (.ejob 31 7), some (.ego true 1),
   some (.route false 3), some (.abandon 3), some (.cload 3 2), some (.carm true 3), some (.ctrig false 15),
   some (.spdense false 3)] := by decide

/-- R318, R319: barriers, control registers (CR in bits 11:0), and the operations of the kernel. -/
theorem test_decode_q_kernel : ops 80 [
    [(38, 0x0E), (32, 2), (29, 3), (0, 31)], [(38, 0x0E), (0, 1)], [(38, 0x0F), (32, 1), (26, 2), (0, 7)],
    [(38, 0x10), (32, 3), (29, 3), (26, 3), (20, 4), (14, 5), (8, 3), (0, 7)], [(38, 0x11), (20, 6), (0, 2)],
    [(38, 0x12), (20, 6), (0, 0x0A4)], [(38, 0x13), (14, 6), (0, 0x00D)], [(38, 0x14), (14, 2), (8, 3), (0, 3)],
    [(38, 0x15), (20, 1), (14, 2), (8, 3)], [(38, 0x16), (14, 2), (8, 3)], [(38, 0x0F), (26, 2), (0, 7)]] =
  [some (.arrive (some .dev) 31), some (.arrive none 1), some (.bwait (.acq .die) 7), some (.vote (.takes .dev) (.takes .dev) 4 5 3 7),
   some (.bdom 6 2), some (.ctlrd 6 0x0A4), some (.ctlwr 0x00D 6), some (.tlbinv .range 2 3), some (.kstart 1 2 3),
   some (.bankcfg 2 3), some (.bwait (.relaxed .die) 7)] := by decide

/-- R320: OP 31, SR 22 (a level in bits 27:25, the form of LPSET in bit 24, ar in 23:20, sr in 19:14), OFF 0. -/
theorem test_decode_b : ops 40 [
    [(31, 0x1), (0, 0x3FFFFF)], [(31, 0x2), (22, 5)], [(31, 0x3), (22, 5), (0, 8)], [(31, 0x4), (22, 5)], [(31, 0x5), (25, 5), (0, 0x1FFFFF)],
    [(31, 0x6), (25, 4)], [(31, 0x7), (25, 3), (14, 9)], [(31, 0x7), (25, 3), (24, 1), (20, 13), (14, 9)], [(31, 0x8)], [(31, 0x9)],
    [(31, 0xA)], [(31, 0xB), (0, 0xFFFF)], [(31, 0xC), (0, 7)], [(31, 0xD)]] =
  [some (.br 0x3FFFFF), some (.jmp 5), some (.call 5 8), some (.ret 5), some (.loop 5 0x1FFFFF), some (.lbreak 4), some (.lpsetCnt 3 9),
   some (.lpsetStr 3 13 9), some .yield, some .halt, some .bkpt, some (.trap 0xFFFF), some (.svc 7), some .eret] := by decide

/-- R387: the micro-ops. -/
theorem test_decode_micro : micros [
    [(58, 0x01), (55, 7), (47, 128), (46, 1), (45, 1), (41, 9)], [(58, 0x02), (0, 0xFFFFFFC0)], [(58, 0x03), (55, 2), (47, 5)],
    [(58, 0x04), (55, 2), (47, 5), (45, 2)], [(58, 0x04), (55, 2), (47, 5), (45, 1), (41, 3)], [(58, 0x05)],
    [(58, 0x06), (57, 1), (55, 1), (51, 4), (47, 3), (39, 2)], [(58, 0x07), (54, 8), (51, 6), (0, 64)],
    [(58, 0x08), (57, 1), (53, 7), (41, 4095), (0, 9)], [(58, 0x09), (55, 6)], [(58, 0x0A)], [(58, 0x0B), (53, 17), (49, 8), (0, 5)],
    [(58, 0x0C), (12, 4095), (0, 100)], [(58, 0x0D)]] =
  [some (.mAin 7 128 true (.lq 9)), some (.mBld 0xFFFFFFC0), some (.mCin 2 5 .tile), some (.mCout 2 5 .comb),
   some (.mCout 2 5 (.lq 3)), some .mEnd, some (.mEpi true false true false 4 3 0 2), some (.mGrp 8 6 64),
   some (.mLoop 1 7 4095 9), some (.mMac 6), some .mNextg, some (.mPset 17 8 5), some (.mSel 4095 100), some .mSync] := by decide

/-- R304: a guard, its inversion, and the flags of an operation are read with it. -/
theorem test_decode_flags :
    ((decodeBundle (fieldsWord 208 [(60, 5), (59, 1), (54, 0x0C), (53, 1), (51, 1), (36, 4)])).map Bundle.ops) =
      some [(⟨5, true⟩, ⟨true, false, true, .gpop 4⟩)] := by decide

/-- R306: an opcode, a type, an order, an unused field, an upper bit of a guard register and a reserved bit that are
unassigned. -/
theorem test_unassigned :
    ops 319 [[(39, 0x01), (32, 8)], [(39, 0x06), (32, 6), (26, 1), (20, 2), (13, 1)], [(39, 0x07), (32, 3), (26, 16)]] ++
      ops 272 [[(42, 0x1F)]] ++ ops 208 [[(54, 0x19)], [(54, 0x01), (47, 3), (45, 2)], [(54, 0x05), (42, 1)]] ++
      ops 160 [[(40, 7)], [(40, 4), (10, 1)]] ++ ops 128 [[(25, 3)]] ++ ops 80 [[(38, 0x17)], [(38, 0x08), (34, 1), (0, 16)]] ++
      ops 40 [[(31, 0xE)], [(31, 0x6), (25, 6)]] ++ ops 368 [[(0, 1)]] ++
      micros [[(58, 0x0E)], [(58, 0x05), (0, 1)], [(58, 0x04), (45, 3)], [(58, 0x03), (46, 1)]] =
    List.replicate 19 none := by decide

/-- R321: two system operations, or two operations on one loop level, in one bundle; LPSET with LOOP on a level is assigned. -/
theorem test_branch_pairs :
    ((decodeBundle (fieldsWord 40 [(31, 0x8)] + fieldsWord 0 [(31, 0x9)])).isSome,
     (decodeBundle (fieldsWord 40 [(31, 0x5), (25, 1), (0, 4)] + fieldsWord 0 [(31, 0x6), (25, 1)])).isSome,
     (decodeBundle (fieldsWord 40 [(31, 0x7), (25, 1)] + fieldsWord 0 [(31, 0x5), (25, 1), (0, 4)])).isSome) =
    (false, false, true) := by decide

/-! ### Well-formed terms and ill-formed ones, one for each check (R306) -/

/-- Terms that the checks pass. -/
theorem test_wf : [Instr.add .i8 true 1 2 (.imm 3), .max .f32 1 2 (.reg 3), .bext .i8 1 2 7 0, .cvti .i8 .i64 true .dyn 1 2,
    .vred .bf16 .sum .rs 1 2 ⟨false, 0⟩, .fence ⟨.acq, .core⟩, .loop 5 1, .mEpi false false false true 0 0 0 0,
    .mLoop 0 8 1 0].all Instr.wf = true := by decide

/-- A term that each check refuses: types, immediates with floating types, field ranges, conditions, rounding fields, orders,
register numbers, control registers, loop levels and offsets, rows, epilogue fields and targets. -/
theorem test_ill_formed : [Instr.add .f32 false 1 2 (.reg 3), .mulh .bf16 1 2 3, .div .e4m3 1 2 (.reg 3), .max .f32 1 2 (.imm 3),
    .bext .i8 1 2 7 1, .bins .n16 1 2 16 0, .clz .f16 1 2, .cmp .i32 .un 1 2 (.reg 3), .cmp .f32 .eq 1 2 (.reg 3),
    .sel .f32 1 2 false 3 4, .gop .mov 1 2 false 3 false, .gop .mov 1 2 false 0 true, .mov (.s 1) (.k 6),
    .cvti .f32 .f16 false .dyn 1 2, .cvti .i32 .f32 true .dyn 1 2, .cvti .i32 .i64 false .rtz 1 2, .fadd .e4m3 .dyn 1 2 3,
    .ffma .i32 .dyn 1 2 3 4, .fcmp .e5m2 .eq 1 2 3, .fcvt .f32 .f32 .dyn 1 2, .fcvt .i32 .f32 .dyn 1 2, .vabs .e4m3 1 2 ⟨false, 0⟩,
    .vadd .i32 false .rtz 1 2 (.vec 3) ⟨false, 0⟩, .vadd .f32 true .dyn 1 2 (.vec 3) ⟨false, 0⟩, .vfma .i32 .dyn 1 2 (.vec 3) 4 ⟨false, 0⟩,
    .vand .f32 1 2 (.vec 3) ⟨false, 0⟩, .vmax .e5m2 1 2 (.vec 3) ⟨false, 0⟩, .vmov .e4m3 1 2 ⟨false, 0⟩, .vsel .e4m3 1 2 (.vec 3) 0,
    .vcmp .i32 .ord 1 2 (.vec 3) ⟨false, 0⟩, .vcvt .i32 .i32 .dyn 1 2 ⟨false, 0⟩, .vcvt .i32 .i64 .rtz 1 2 ⟨false, 0⟩,
    .vexp2 .i32 .dyn 1 2 ⟨false, 0⟩, .vextr .e4m3 1 2 3, .vmask .not 1 2 3, .vmask .ones 1 2 0, .vperm .e4m3 1 2 (.vec 3) ⟨false, 0⟩,
    .vred .f32 .max .rtz 1 2 ⟨false, 0⟩, .vscan .i32 .rtz 1 2 ⟨false, 0⟩, .ld .i32 ⟨.rel, .core⟩ 1 ⟨2, 0⟩, .ld .e4m3 ⟨.relaxed, .core⟩ 1 ⟨2, 0⟩,
    .st .i32 ⟨.acq, .core⟩ ⟨2, 0⟩ 1, .vld ⟨.acqrel, .core⟩ 1 ⟨2, 0⟩ ⟨false, 0⟩, .vst ⟨.acq, .core⟩ ⟨2, 0⟩ 1 ⟨false, 0⟩,
    .fence ⟨.relaxed, .core⟩, .waitaddr .i32 ⟨.relaxed, .core⟩ 1 ⟨2, 0⟩ 3, .amo .n16 .add ⟨.relaxed, .core⟩ 1 ⟨2, 0⟩ 3,
    .amocas .f32 ⟨.relaxed, .core⟩ 1 ⟨2, 0⟩ 3 4, .qinc .i32 ⟨.relaxed, .core⟩ 1 2 ⟨2, 0⟩ 3, .qdec .i64 ⟨.relaxed, .core⟩ 1 2 ⟨2, 0⟩,
    .spld ⟨.rel, .core⟩ 1 2 3, .spst ⟨.acq, .core⟩ 2 3 4, .spnext ⟨.acqrel, .core⟩ 1 3 4 2, .ctlrd 1 0x012, .ctlwr 0xFFF 1,
    .tlbinv .asid 1 0, .tlbinv .all 0 1, .loop 6 1, .loop 0 0, .loop 0 0x200000, .lbreak 7, .lpsetCnt 6 1, .mAin 0 129 false .tile,
    .mCin 0 255 .tile, .mCout 0 200 .comb, .mEpi false false false false 5 0 0 0, .mEpi false false false false 0 1 0 0,
    .mEpi true false false false 0 1 2 0, .mEpi true true false false 0 1 2 3, .mGrp 9 0 0, .mLoop 0 9 1 0, .mLoop 0 0 0 0,
    .mPset 18 0 0, .mPset 0 9 0, .vote (.takes .dev) (.unused .die) 4 5 3 7, .vote (.unused .dev) (.takes .dev) 4 5 3 7].all (fun i => !i.wf) = true := by
  decide

/-! ### Witnesses: for each statement with hypotheses, states and operands that meet those of its clauses, at boundary values -/

/-- Every unit of the device ready, in a machine otherwise as at reset. -/
def allUp : State := { State.reset with ready := Vector.replicate 15 0xFFFFFFFFFFFFFFFF }

/-- Strand 0 in issue, alone. -/
def on (x : Strand) : State := { allUp with strands := [(0, x)] }

/-- A strand of firmware, which reads and writes physical memory (R85). -/
def fw : Strand := { Strand.init with status := 2, run := .run }

/-- A strand of the kernel, and one of a user. -/
def kern : Strand := { Strand.init with status := 1, run := .run }
def user : Strand := { Strand.init with status := 0, run := .run }

theorem freeOf {s : State} {o : State → Option Obstacle} (h : o s = none) (p : s.issue.probe = false) : s.Free o := ⟨h, .inr p⟩
theorem okIs {ε α : Type} {x : Except ε α} {r : α} (h : x.toOption = some r) : x = .ok r := by
  cases x with | ok y => exact congrArg _ (Option.some.inj h) | error e => cases h
theorem actsOf {s : State} (p : s.issue.probe = false) : s.Acts := .inr p

/-- ScalarArithmetic, ScalarBits, BitPatterns, CompareSelectMove, ScalarFloatsRound: types, a field that fills its type, a condition. -/
theorem witness_scalar : Ty.i8.isInt = true ∧ Ty.n64.isInt = true ∧ (0#6).toNat + ((63#6).toNat + 1) ≤ Ty.n64.width ∧
    (7#6).toNat + ((0#6).toNat + 1) ≤ Ty.i8.width ∧ Cc.ge.intOk = true ∧ Ty.bf16.isF = true ∧ Ty.e4m3.isInt = false ∧
    Ty.f32.isInt = false := by decide

/-- VectorIntegers, VectorFloatsRound, VectorMasksAndReductions: no operand lies in a lent bank. -/
theorem witness_vector : Ty.i8.isInt = true ∧ Ty.f32.isF = true ∧ Ty.i8.width ≤ Ty.n64.width ∧
    (on user).Free (lentUse ([0, 63] ++ srcRegs (.vec 15))) ∧ (on user).Free (lentUse ([0, 63, 1] ++ srcRegs (.sca 15))) :=
  ⟨by decide, by decide, by decide, freeOf (by decide) rfl, freeOf (by decide) rfl⟩

/-- Strand 0 has lent bank 3. -/
def lent3 : State := { on user with cores := [(0, { Core.init with lent := some (0, 3) })] }

/-- A strand with a mark, inside no handler. -/
def marked : Strand := { fw with mark := { Mark.init with valid := true }, regs := { Regs.init with a := Vector.replicate 16 1 } }

/-- OperationTraps: a lent bank, a misaligned address, user privilege. -/
theorem witness_traps : (lent3.Alone ∧ lent3.me.inh = false ∧ lent3.myCore.lent = some (strandIn lent3.cur, 3) ∧ bankOf 63 = 3) ∧
    ((on marked).Alone ∧ (on marked).me.mark.valid = true ∧ (on marked).me.inh = false ∧
      (on marked).me.regs.addr ⟨1, 0⟩ % Ty.i16.bytes ≠ 0) ∧
    ((on user).Alone ∧ isThread (on user).cur = false ∧ (on user).me.inh = false ∧ (on user).me.priv = 0) ∧
    (0x00E < 0x070 ∧ 0 < ctlReadPriv 0x00E ∧ 0x072 < 0x0A0 ∧ 0 < ctlWritePriv 0x0A0) := by
  refine ⟨⟨⟨rfl, rfl⟩, ?_⟩, ⟨⟨rfl, rfl⟩, ?_⟩, ⟨⟨rfl, rfl⟩, ?_⟩, ?_⟩ <;> decide

/-- The address of tile memory of core 0 in a0. -/
def tile0 : State := on { fw with regs := { Regs.init with a := Vector.replicate 16 (BitVec.ofNat 64 tileBase) } }

/-- A translation of the first 64 KB to themselves, for every access. -/
def page0 : TlbEntry := { asid := 0, glob := false, va := 0, size := 65536, pa := 0, user := true, type := 0, r := true, w := true,
                          dirty := true, pteAddr := 0 }

/-- A strand of the kernel with paging on, with one page. -/
def mapped (e : TlbEntry) (x : Strand) : State :=
  { on { x with ptroot := 1 } with
    ctlb := [(0, [e])], dies := Vector.replicate 4 { Die.init with tlb := [e] } }

/-- The same with its first page coherent memory. -/
def paged (x : Strand) : State := mapped page0 x

/-- FIFO bank 0 of cluster 0 with one entry, under an uncached page; and a word of the import window, whose answer has come. -/
def fifoPage : TlbEntry := { page0 with type := 1, pa := sramBase }
def fifo1 : State := (mapped fifoPage kern).setBank 0 0 { Bank.init with mode := .fifo, target := .fifo, fifo := [7] }
def answer (r : Req) (got : List (Nat × Nat)) : Option Pend := some ⟨0, r, true, 1, 1, got, none, [], [], false⟩
def away0 : State := on { fw with request := answer (.load [(0, importBase, importBase, 3)]) [(0, 7)] }

theorem answeredOf {s : State} {r : Req} (p : Pend) (h : s.me.request = some p) (o : p.off = s.issue.off)
    (a : (p.answerTo r).isSome = true) : s.Answered r := by
  obtain ⟨x, hx⟩ := Option.isSome_iff_exists.mp a
  exact ⟨p, x, h, o, hx⟩

/-- LoadReadsMemory: a load of the lowest byte, which joins the queue; one of tile memory, one of a FIFO and one of another device,
which read at once; a load at the head of a queue. -/
theorem witness_load : ((on fw).access ((on fw).spaceOf 0) .read 1 0 = .ok (0, 1, .mem 0, .ok 0 1 none false) ∧
      LoadGoes (on fw) 1 0 0 (.mem 0) ∧ loadsAtOnce (on fw) 0 1 none (.mem 0) = false) ∧
    (tile0.access (tile0.spaceOf 0) .read 8 tileBase = .ok (tileBase, 2, .mem tileBase, .ok tileBase 2 none false) ∧
      LoadGoes tile0 8 tileBase tileBase (.mem tileBase) ∧ loadsAtOnce tile0 tileBase 2 none (.mem tileBase) = true) ∧
    (fifo1.access (fifo1.spaceOf 0) .read 8 8 = .ok (sramBase + 8, 1, .pop 0 0, .ok (sramBase + 8) 1 (some fifoPage) false) ∧
      LoadGoes fifo1 8 8 (sramBase + 8) (.pop 0 0)) ∧
    (away0.access (away0.spaceOf 0) .read 8 importBase = .ok (importBase, 1, .remote, .ok importBase 1 none false) ∧
      LoadGoes away0 8 importBase importBase .remote) :=
  ⟨⟨rfl, ⟨actsOf rfl, by decide, trivial⟩, by decide⟩, ⟨rfl, ⟨actsOf rfl, by decide, trivial⟩, by decide⟩,
   ⟨rfl, ⟨actsOf rfl, by decide, by decide, by decide⟩⟩, ⟨rfl, ⟨actsOf rfl, by decide, by decide, answeredOf _ rfl rfl (by decide)⟩⟩⟩

/-- A load at the head of a queue. -/
def load1 : PLoad := ⟨.reg 3 none, .i64, 0, 0, 8, none, false, 0, 0, 0, 1, 0, false⟩
theorem witness_load_queued : (((on { fw with loadQ := [load1] }).strand 0).loadQ = [load1] ∧ load1.dst = .reg 3 none ∧ (3 : Nat) ≠ 0) ∧
    ∀ off, regionOf (load1.pa % 2 ^ 52) ≠ .mmio off :=
  ⟨by decide, fun off h => Region.noConfusion (show Region.hbm = .mmio off from h)⟩

/-- A word that differs from 1. -/
theorem witness_waitaddr : WaitIsOver (on { fw with regs := { Regs.init with s := Vector.replicate 64 1 } }) .n32 0 0 1 (.mem 0) :=
  ⟨actsOf rfl, by decide, by decide, by decide, by decide⟩

/-- StoreIsGated: a store to the last doubleword of HBM. -/
theorem witness_store : (on { fw with regs := { Regs.init with a := Vector.replicate 16 0xBFFFFFFFF8 } }).access
      ((on fw).spaceOf 0) .write 8 0xBFFFFFFFF8 = .ok (0xBFFFFFFFF8, 1, .mem 0xBFFFFFFFF8, .ok 0xBFFFFFFFF8 1 none false) ∧
    (on { fw with regs := { Regs.init with a := Vector.replicate 16 0xBFFFFFFFF8 } }).Acts ∧ 0xBFFFFFFFF8 % Ty.i64.bytes = 0 :=
  ⟨rfl, actsOf rfl, by decide⟩

/-- VectorAccessUnderMask: accesses of 256 bytes at 0, and a mask of zeros. -/
theorem witness_vector_access : ((on fw).Acts ∧ (on fw).Keeps (bankOf 63) ∧
      (∀ acc ∈ [Acc.read, .write], LinesAt (on fw) acc 0 (2 ^ 256 - 1) (fun _ _ _ d => ∃ a, d = .mem a))) ∧
    (on fw).Free (vldObs 0 ⟨0, 0⟩ ⟨false, 0⟩) ∧ (on fw).Free (vecObs ⟨0, 0⟩ ⟨false, 0⟩ 0 (fun i => storeObsMasked (lineMask (2 ^ 256 - 1) i))) ∧
    ((on user).me.regs.rvm 7 = 0 ∧ (on user).me.regs.addr ⟨0, 0⟩ % 64 = 0 ∧ (on user).Keeps (bankOf 63)) := by
  have keep : ∀ s : State, s.myCore.lent = none → s.Keeps (bankOf 63) := fun s h => by simp [State.Keeps, h]
  refine ⟨⟨actsOf rfl, keep _ rfl, ?_⟩, freeOf (by decide) rfl, freeOf (by decide) rfl, by decide, by decide, keep _ rfl⟩
  intro acc ha i hi
  have hi : i ∈ [0, 1, 2, 3] := hi
  simp only [List.mem_cons, List.not_mem_nil, or_false] at ha hi
  rcases ha with rfl | rfl <;> rcases hi with rfl | rfl | rfl | rfl <;> exact ⟨_, _, _, _, rfl, trivial, _, rfl⟩

/-- OrderAndLines. -/
theorem witness_lines : ((on fw).Acts ∧ (∀ k, (on fw).releaseHeld (on fw).cur k = false) ∧ (on fw).me.atomicWaits = false ∧
      (on fw).me.aq = [] ∧ (on fw).me.loadQ = []) ∧
    ((on fw).isRemote 64 = false ∧ inHbm (64 % 2 ^ 52) = true ∧ (on fw).hostBiased (64 % 2 ^ 52) = false) ∧
    (on fw).xlat ((on fw).spaceOf 0) .read 64 = .ok 64 1 none false ∧
    (on fw).xlat ((on fw).spaceOf 0) .write 64 = .ok 64 1 none false ∧ (on fw).me.priv ≠ 0 :=
  ⟨⟨actsOf rfl, by intro k; cases k <;> decide, by decide, by decide, by decide⟩, by decide, by decide, by decide, by decide⟩

/-- Atomics: an atomic on the first word, with nothing before it, and one behind a store. -/
theorem witness_atomics : (Ty.n32.isAmo = true ∧ Ty.n32.isN32or64 = true ∧ (on fw).Acts ∧ 0 % (2 * Ty.n32.bytes) = 0 ∧
      (on fw).access ((on fw).spaceOf 0) .atomic 4 0 = .ok (0, 1, .mem 0, .ok 0 1 none false)) ∧
    ((on fw).me.unseen = [] ∧ (on fw).me.aq = [] ∧ (on fw).me.loadQ = [] ∧ (on fw).homeBusy 0 = false ∧ (on fw).leaseOver 0 = true ∧
      (on fw).poison = [] ∧ (on fw).unclashed 0 4 = true) ∧ (∀ k, (on fw).releaseHeld 0 k = false) ∧
    (on { fw with storeQ := [⟨.write, 8, 8, 8, 7, 255, none, 0, 0, 0, none, false, false⟩] }).me.unseen ≠ [] :=
  ⟨⟨by decide, by decide, actsOf rfl, by decide, rfl⟩, by decide, by intro k; cases k <;> decide, by decide⟩

/-- A parked gather element of strand 0, at address 0, and its slot. -/
def parkedElem : Elem := ⟨0, 0, 0, .i64, false, 0, 3, 1, 0x10, 0, true⟩
def parked1 : State := { on { fw with dq := [⟨3, none, true, 1⟩], nextSlot := 4 } with cores := [(0, { Core.init with fq := [parkedElem] })] }
def filled : State := on { fw with dq := [⟨0, some 7, false, 1⟩] }

/-- GatherQueues: a push at 0 in room for one element, one whose address is past the end; a pop; a replay, and one with nothing
parked. -/
theorem witness_gather : ((on fw).Acts ∧ (on fw).me.aq.length < 64 ∧ (on fw).me.dq.length < 64 ∧ (on fw).myCore.overflow = none ∧
      (on fw).myCore.fq.length ≤ 256) ∧
    (∀ acc ∈ [Acc.read, .write], (on fw).elemCause 0 acc 8 0 = 0 ∧ (on fw).elemCause 0 acc 8 (2 ^ 64) = 0x15) ∧
    ((on fw).access ((on fw).spaceOf 0) .read 8 0 = .ok (0, 1, .mem 0, .ok 0 1 none false) ∧
      (on fw).access ((on fw).spaceOf 0) .write 8 0 = .ok (0, 1, .mem 0, .ok 0 1 none false)) ∧
    (filled.me.dq = [⟨0, some 7, false, 1⟩] ∧ filled.Acts) ∧
    (parked1.myCore.oldestParked parked1.cur = some parkedElem ∧ parked1.replayCause parkedElem = 0 ∧
      parked1.access (parked1.spaceOf 0) .read 8 0 = .ok (0, 1, .mem 0, .ok 0 1 none false) ∧ parked1.Acts) ∧
    (on fw).myCore.oldestParked (on fw).cur = none :=
  ⟨⟨actsOf rfl, by decide⟩, by decide, ⟨rfl, rfl⟩, ⟨by decide, actsOf rfl⟩, ⟨by decide, by decide, rfl, actsOf rfl⟩, by decide⟩

/-- MatrixCalls: a bank that may be lent, a bank lent with no call, fewer than four calls, a wait for no call. -/
theorem witness_calls : ((on user).Acts ∧ (on user).myCore.lent = none ∧ (on user).me.flight = []) ∧
    (lent3.myCore.lent = some (strandIn lent3.cur, 3) ∧ lent3.myCore.calls = [] ∧ lent3.Acts) ∧
    (on user).myCore.calls.length < 4 ∧ (on user).myCore.own (on user).cur ≤ (0#2).toNat :=
  ⟨⟨actsOf rfl, by decide⟩, ⟨by decide, by decide, actsOf rfl⟩, by decide, by decide⟩

/-- A scale load and store of the first 128 bytes of tile memory. -/
theorem witness_scales : (tile0.Acts ∧ tileBase % 128 = 0 ∧ tile0.isRemote tileBase = false ∧ ownTile 0 (tileBase % 2 ^ 52) = true) ∧
    (tile0.xlat (tile0.spaceOf 0) .read tileBase = .ok tileBase 2 none false ∧ tile0.poison = [] ∧ tile0.loadHeld tileBase = false) ∧
    (tile0.xlat (tile0.spaceOf 0) .write tileBase = .ok tileBase 2 none false ∧
      tile0.access (tile0.spaceOf 0) .write 64 tileBase = .ok (tileBase, 2, .mem tileBase, .ok tileBase 2 none false) ∧
      (tile0.storeVal 64 tileBase 0 (2 ^ 64 - 1) none).access (tile0.spaceOf 0) .write 64 (tileBase + 64) =
        .ok (tileBase + 64, 2, .mem (tileBase + 64), .ok (tileBase + 64) 2 none false)) :=
  ⟨⟨actsOf rfl, by decide⟩, by decide, by decide, rfl, rfl⟩

/-- A strand with scalar registers, and with address registers, that hold the values listed. -/
def withS (l : List (Nat × Nat)) (x : Strand) : Strand :=
  { x with regs := { x.regs with s := l.foldl (fun v p => v.setIfInBounds p.1 (BitVec.ofNat 64 p.2)) x.regs.s } }
def withA (l : List (Nat × Nat)) (x : Strand) : Strand :=
  { x with regs := { x.regs with a := l.foldl (fun v p => v.setIfInBounds p.1 (BitVec.ofNat 64 p.2)) x.regs.a } }

/-- A tx queue and an rx queue with its first strip complete, both of strand 0, and circuit fields at their greatest. -/
def queues : State := ((on (withS [(1, 2 ^ 16 * 8 + 2 ^ 24 * 255), (2, 24)] fw)).setLq 0 15 { Lq.init with role := .tx, count := 7 }).setLq 0 0
  { Lq.init with role := .rx, got := [(0, 2 ^ 32 - 1)] }

/-- The same with a strip of queue 15 that has not left. -/
def leaving1 : State := queues.setLq 0 15 { Lq.init with role := .tx, out := [⟨0, 0, 0, 7, false⟩] }

/-- The same with circuit 255 claimed, and with a phase of 9 bits asked for in s3. -/
def bound1 : State := { queues.updMe (withS [(1, 255 * 256), (3, 2 ^ 16 * 9)]) with circuits := [(255, (0, 15, true, 9))] }

/-- LinkQueues. -/
theorem witness_link_queues : (queues.Acts ∧ (queues.me.priv ≠ 0 ∨ queues.myCore.ubind = true)) ∧
    ((queues.lqOf 0 1).role = .unbound ∧
      bitsN (queues.me.regs.rs 1).toNat 16 4 ≤ 8 ∧ bitsN (queues.me.regs.rs 1).toNat 24 8 < 2 ^ bitsN (queues.me.regs.rs 1).toNat 16 4 ∧
      queues.circuits.find (bitsN (queues.me.regs.rs 1).toNat 8 8) = none ∧ queues.circuits.find ((queues.me.regs.rs 1).toNat % 2 ^ 8) = none) ∧
    (bound1.circuits.find (bitsN (bound1.me.regs.rs 1).toNat 8 8) ≠ none ∧ ¬ bitsN (bound1.me.regs.rs 3).toNat 16 4 ≤ 8) ∧
    ((queues.lqOf 0 15).role ≠ .unbound ∧ (queues.lqOf 0 15).owner = strandIn queues.cur ∧ (queues.lqOf 0 15).out = []) ∧
    ((queues.lqOf 0 15).role = .tx ∧ (queues.lqOf 0 15).closing = false ∧ (queues.lqOf 0 15).down = false ∧ queues.Keeps 3 ∧
      (queues.lqOf 0 15).avail ≠ 0 ∧ queues.lqPaused 0 (queues.lqOf 0 15) = false ∧
      queues.slotGap (queues.me.regs.rs 2) ≤ 1023 ∧
      (queues.me.regs.rs 2).toNat % 2 ^ 24 % 2 ^ (queues.lqOf 0 15).stepl = (queues.lqOf 0 15).phase) ∧
    ((queues.lqOf 0 0).role = .rx ∧ (queues.lqOf 0 0).owner = strandIn queues.cur ∧ (queues.lqOf 0 0).closing = false ∧
      (queues.lqOf 0 0).down = false ∧ (queues.lqOf 0 0).complete (queues.lqOf 0 0).count = true) ∧
    (leaving1.Acts ∧ (leaving1.me.priv ≠ 0 ∨ leaving1.myCore.ubind = true) ∧ (leaving1.lqOf 0 15).role = .tx ∧
      (leaving1.lqOf 0 15).owner = strandIn leaving1.cur ∧ (leaving1.lqOf 0 15).out ≠ []) :=
  ⟨⟨actsOf rfl, by decide⟩, by decide, by decide, by decide,
   ⟨by decide, by decide, by decide, by simp [State.Keeps, show queues.myCore.lent = none from rfl], by decide⟩, by decide, actsOf rfl,
   by decide⟩

/-- The copy engines of die 0 are ready, and launch queue 0 is enabled and takes submissions of the device. -/
def engines : State := { on fw with lnq := [(0, { LaunchQueue.init with en := true, dev := true })] }

/-- A card of 0s and a launch of it are in order, and a transfer of 0 bytes. -/
theorem witness_submissions : engines.Acts ∧ (∀ spec, CardGoes engines spec 0 engines.myCard) ∧
    (∀ fab spec, CardGoes engines spec 0 (engines.xferCard fab 1 2 3 4 5)) ∧ (∀ spec, CardGoes engines spec 1 engines.myCard) := by
  refine ⟨actsOf rfl, fun spec => ?_, fun fab spec => ?_, fun spec => ?_⟩
  · exact ⟨by decide, ⟨by decide, by decide, by decide, by cases spec <;> decide⟩, fun _ => by decide, fun h => absurd h (by decide)⟩
  · cases fab <;> exact ⟨by decide, ⟨by decide, by decide, by decide, by cases spec <;> decide⟩, fun _ => by decide, fun h => absurd h (by decide)⟩
  · exact ⟨by decide, ⟨by decide, by decide, by decide, by cases spec <;> decide⟩, by decide, fun _ => ⟨by decide, by decide, by decide, by decide, _, rfl⟩⟩

/-- A valid descriptor at 64, of rank 1 with keys of one bit and two nodes, and a card at 0 for no element of it. -/
def dense : State := { paged kern with mem := [(0, 64), (64 + 4, 1), (64 + 7, 128), (64 + 16, 2)] }
def dense64 : Nat := 2 ^ 32 + 2 ^ 63 + 2 ^ 129
set_option maxRecDepth 8000 in
theorem witness_dense : dense.Acts ∧ dense.denseCard 0 = .ok 64 ∧ dense.denseDesc 64 = .ok (descOf dense64) ∧
    ∀ spec, RegionsGo dense spec (denseRegions (descOf dense64) 64) (denseRegions (descOf dense64) 64) :=
  ⟨actsOf rfl, rfl, rfl, fun spec => ⟨by decide, by decide, by decide, by cases spec <;> decide⟩⟩

/-- A program of one step in slot 0, a staging bank, and at 0 a card for one rank, one chunk and one block. -/
def arming : State := ({ on fw with mem := [(70, 1), (85, 6), (86, 4), (88, 1)], dies := State.reset.dies.set 0 { Die.init with islots := [(0, [0])] } }).setBank
  0 0 { Bank.init with mode := .scratchpad, target := .scratchpad }
def armCard : Nat := 2 ^ 560 + 6 * 2 ^ 680 + 4 * 2 ^ 688 + 2 ^ 704

/-- A card with DIS at 0. -/
def disarming : State := { on fw with mem := [(83, 16)] }

/-- A card of a job of no token at 0, and at 64 a layer record of one expert and one choice. -/
def routing : State := (({ on fw with
  mem := [(16, 64), (64 + 2, 33), (64 + 6, 4), (64 + 9, 64), (64 + 11, 64), (64 + 48, 64), (64 + 50, 1), (64 + 76, 1)] }).setBank
  0 0 { Bank.init with mode := .scratchpad, target := .scratchpad }).setBank 0 1 { Bank.init with mode := .fifo, target := .fifo }

def cfg0 : Nat := 33 * 2 ^ 16 + 4 * 2 ^ 48 + 64 * 2 ^ 72 + 64 * 2 ^ 88 + 64 * 2 ^ 384 + 2 ^ 400 + 2 ^ 608

/-- A bin area with its header at 64, of one row that rank 0, on device 1, was granted. -/
def area : Permit := { Permit.init 0 0 0 with hdr := 64, recs := 128, grants := [(0, 0, 1)], group := [1] }
def granted : State := { on (withA [(1, 64)] fw) with mem := [(64, 1)], dies := State.reset.dies.set 0 { Die.init with permits := [area] } }

set_option maxRecDepth 8000 in
/-- CollectivesAndRouting: a line fired, a card that arms and one that disarms, an image of one step at 0. -/
theorem witness_collectives : ((on fw).Acts ∧ (on fw).commitFull = false ∧ (on fw).releaseHeld (on fw).cur .dev = false) ∧
    (disarming.carmCard 0 = .ok (2 ^ 668) ∧ wDis (2 ^ 668) = true ∧ ∀ spec, RegionsGo disarming spec [] []) ∧
    ({ on fw with mem := [(0, 1)] } : State).cloadImage 0 15 = .ok [0] :=
  ⟨⟨actsOf rfl, by decide, by decide⟩, ⟨okIs (by decide +kernel), by decide, fun spec => ⟨by decide, by decide, by decide, by cases spec <;> decide⟩⟩,
   okIs (by decide +kernel)⟩
set_option maxRecDepth 8000 in
theorem witness_carm : arming.Acts ∧ arming.carmCard 0 = .ok armCard ∧ wDis armCard = false ∧ arming.carmInput armCard = .ok ([0], [0]) ∧
    ∀ spec, RegionsGo arming spec (impalaRegions armCard [0]) (impalaRegions armCard [0]) :=
  ⟨actsOf rfl, rfl, by decide, rfl, fun spec => ⟨by decide, by decide, by decide, by cases spec <;> decide⟩⟩
set_option maxRecDepth 8000 in
theorem witness_routing : routing.Acts ∧ routing.routeCard 0 = .ok (64 * 2 ^ 128) ∧
    routing.routeInput (64 * 2 ^ 128) = .ok (cfg0, 0, 0) ∧ ∀ spec, RegionsGo routing spec (routeRegions (64 * 2 ^ 128) cfg0) (routeRegions (64 * 2 ^ 128) cfg0) :=
  ⟨actsOf rfl, okIs (by decide +kernel), okIs (by decide +kernel), fun spec => ⟨by decide, by decide, by decide, by cases spec <;> decide⟩⟩
set_option maxRecDepth 8000 in
theorem witness_abandon : ((on fw).Acts ∧ (on fw).me.priv ≠ 0 ∧ (on fw).abandonArea 0 = .ok ([.ok 0 1 none false], (0, 0), []) ∧
      (on fw).asked (.drops (0, 0) []) = false ∧ ∀ x ∈ [Xlat.ok 0 1 none false], x.Settled .read) ∧
    (granted.abandonArea 64 = .ok ([.ok 128 1 none false, .ok 64 1 none false], (0, 0), [(1, 0, 0)]) ∧
      { granted.updMe (fun st => { st with request := answer (.drops (0, 0) [(1, 0, 0)]) [(0, 0)] }) with free := 0 }.Answered (.drops (0, 0) []) ∧
      ∀ x ∈ [Xlat.ok 128 1 none false, .ok 64 1 none false], x.Settled .read) :=
  ⟨⟨actsOf rfl, by decide, rfl, by decide, by simp [Xlat.Settled]⟩, rfl, answeredOf _ rfl rfl (by decide), by simp [Xlat.Settled]⟩

/-- A member of channel 31 with no arrival pending, and one whose arrival there is over. -/
def member31 : State := { on { user with pend := 0 } with cores := [(0, { Core.init with bmemb1 := BitVec.ofNat 64 (2 ^ 60) })] }
def over31 : State := { on { user with pend := 0x80000000 } with
  cores := [(0, { Core.init with bmemb1 := BitVec.ofNat 64 (2 ^ 60) })], chans := [(31, { Chan.init with gen := 1 })] }

/-- Barriers. -/
theorem witness_barriers : (member31.Acts ∧ member31.member member31.cur 31 = true ∧ member31.pendingOn 31 = false ∧
      member31.me.pend.getLsbD 31 = false ∧ ∀ k, member31.releaseHeld member31.cur k = false) ∧
    (over31.Acts ∧ over31.member over31.cur 31 = true ∧ over31.me.pend.getLsbD 31 = true ∧ over31.pendingOn 31 = false) :=
  ⟨⟨actsOf rfl, by decide, by decide, by decide, by intro k; cases k <;> decide⟩, actsOf rfl, by decide⟩

/-- ControlRegisters: a strand of the kernel in cycle 0, registers at both ends of what it may access, and one of a thread. -/
theorem witness_control : (on kern).issue.probe = false ∧ (on kern).me.priv = 1 ∧ (on kern).cycleOf (on kern).cur < (1#64).toNat ∧
    CtlAllowed (on kern) ctlReadPriv 0x001 ∧ CtlAllowed (on kern) ctlReadPriv 0xFFF ∧ CtlAllowed (on kern) ctlWritePriv 0x0AA ∧
    (let s : State := { on user with cur := 2048 }; s.Acts ∧ CtlAllowed s ctlReadPriv 0x071 ∧ CtlAllowed s ctlWritePriv 0x072) :=
  ⟨by decide, by decide, by decide, ⟨by decide, by decide⟩, ⟨by decide, by decide⟩, ⟨by decide, by decide⟩, actsOf rfl,
   ⟨by decide, by decide⟩, ⟨by decide, by decide⟩⟩

/-- A start record at 0 in range: strand 0, one entry of the dictionary, one bundle. -/
def startable : State := { on (withS [(2, 1)] fw) with mem := [(4, 1), (8, 2), (16, 1)] }
def startRec : Nat := 2 ^ 32 + 2 ^ 65 + 2 ^ 128

/-- The same record with 8,193 entries of the dictionary before it. -/
def pastEnd : State := { startable with mem := [(0, 0xFF), (1, 0x7F), (4, 1), (8, 2), (16, 1)] }
def pastRec : Nat := startRec + 0x7FFF

/-- PrivilegedUnits: a bank in cache mode, an empty FIFO and one with an entry and the force bit; a mode that is none, a busy bank and a
FIFO with an entry; a record of 0s; a core that is not ready, one with a strand that runs, a dictionary that does not fit, and a record
that may start core 1. -/
theorem witness_privileged : ((on fw).Acts ∧ (on fw).me.priv ≠ 0) ∧
    (((on fw).me.regs.rs 2).toNat % 4 ≠ 3 ∧ ((on fw).bank 0 0).nrdy = false ∧ ((on fw).bank 0 0).busy = false ∧
      ((on fw).bank 0 0).eng = false ∧ ((on fw).bank 0 0).mode ≠ .fifo) ∧
    (let k : Bank := { Bank.init with mode := .fifo }; k.nrdy = false ∧ k.busy = false ∧ k.eng = false ∧ k.fifo = [] ∧
      (4 : Nat).testBit 2 = true ∧ 4 % 4 ≠ 3) ∧
    ((7 % 4 = 3) ∧ (((on fw).setBank 0 0 { Bank.init with busy := true }).bank 0 0).busy = true ∧ (fifo1.bank 0 0).mode = .fifo ∧
      (fifo1.bank 0 0).fifo ≠ [] ∧ (0 : Nat).testBit 2 = false) ∧
    ((on fw).kRecord 0 = .ok 0 ∧ kBadRecord 0 ∧ (on fw).poison = []) :=
  ⟨⟨actsOf rfl, by decide⟩, by decide, by decide, by decide, rfl, by simp [kBadRecord]; decide, rfl⟩
set_option maxRecDepth 8000 in
theorem witness_kstart : startable.kRecord 0 = .ok startRec ∧ ¬ kBadRecord startRec ∧ startable.poison = [] ∧
    (let s' := startable.touchSub (startable.spaceOf startable.cur) 0 64
     (startable.coreReady 1 = true ∧ s'.coreReady 1 = true) ∧ (∀ i ∈ pathStrands 1, (startable.strand i).run = .off) ∧
       (∀ i ∈ pathStrands 1, (s'.strand i).run = .off) ∧ s'.poison = [] ∧ s'.ownStores = false ∧
       s'.coreDict 1 (fieldN startRec 0 4) (fieldN startRec 4 2) = none) ∧
    startable.releaseHeld startable.cur .dev = false ∧ startable.me.run = .run ∧ startable.cur < 2048 ∧
    (¬ ∀ i ∈ pathStrands 0, (startable.strand i).run = .off) :=
  ⟨rfl, by simp only [kBadRecord]; decide, rfl, by decide, by decide⟩
set_option maxRecDepth 8000 in
theorem witness_kstart_fails : pastEnd.kRecord 0 = .ok pastRec ∧ ¬ kBadRecord pastRec ∧
    (let s' := pastEnd.touchSub (pastEnd.spaceOf pastEnd.cur) 0 64
     s'.coreReady 1 = true ∧ s'.poison = [] ∧ s'.ownStores = false ∧ s'.coreDict 1 (fieldN pastRec 0 4) (fieldN pastRec 4 2) = some 0) ∧
    (let s := { startable with ready := State.reset.ready };
     s.coreReady 1 = false ∧ (s.touchSub (s.spaceOf s.cur) 0 64).coreReady 1 = false) :=
  ⟨rfl, by simp only [kBadRecord]; decide, by decide, by decide⟩
/-- A TLBINV whose request has left and holds nothing. -/
theorem witness_tlbinv : (on { fw with request := some ⟨0, .tlbinv .all 0 0, true, 0, 0, [], none, [], [], false⟩ }).Free
    (State.tlbinvObs .all 0 0) := freeOf (by decide) rfl

/-- Branches (and loop levels below): no branch taken in the bundle so far, and one taken to another target. -/
def inBundle (i : Issue) : State := { on user with issue := i }
theorem witness_branches : (on user).issue.target = none ∧
    (let i : Issue := { Issue.init with target := some 0x3FFFF }
     (inBundle i).issue.target = some 0x3FFFF ∧ BranchesTo (inBundle i) (.call 1 0) 0 ∧ (0 : BitVec 18) ≠ 0x3FFFF ∧
       (inBundle i).issue.bctrap = false ∧ BranchesTo (inBundle i) (.br 0x3FFFFF) 0x3FFFF ∧ BranchesTo (inBundle i) (.ret 0) 0) ∧
    (let i : Issue := { Issue.init with target := some 0x3FFFF, bctrap := true, checked := true }
     (inBundle i).issue.bctrap = true ∧ (inBundle i).issue.checked = true ∧ (inBundle i).issue.after = none) :=
  ⟨rfl, ⟨rfl, .inl ⟨0, .inr ⟨1, rfl⟩, rfl⟩, by decide, rfl, .inl ⟨0x3FFFFF, .inl rfl, rfl⟩, .inr ⟨0, .inr rfl, rfl⟩⟩, rfl, rfl, rfl⟩

/-- A strand with level 5 active, and one whose level 5 has a count. -/
def level5 (x : Loop) : State := on { user with regs := { Regs.init with loops := Regs.init.loops.set 5 x } }

/-- Branches, of loop levels: the innermost level. -/
theorem witness_loops : (5#3).toNat < 6 ∧ (on user).issue.probe = false ∧ ((on user).me.regs.loop 5).active = false ∧
    (loopObs 5 4 (level5 { Loop.init with cnt := 1 }) = none ∧ ((level5 { Loop.init with cnt := 1 }).me.regs.loop 5).cnt ≠ 0) ∧
    (loopObs 5 4 (on user) = none ∧ ((on user).me.regs.loop 5).cnt = 0 ∧ (on user).issue.target = none) ∧
    (loopObs 5 4 (inBundle { Issue.init with target := some 0 }) = none ∧ (inBundle { Issue.init with target := some 0 }).issue.target ≠ none) ∧
    (((level5 { Loop.init with active := true }).me.regs.loop 5).active = true ∧
      (level5 { Loop.init with active := true }).issue.target = none) := by decide

/-- SystemOperations. -/
theorem witness_system : ((inBundle { Issue.init with checked := true }).issue.checked = true ∧
      (inBundle { Issue.init with checked := true }).issue.after = none ∧ (inBundle { Issue.init with checked := true }).issue.dbgEn = false) ∧
    ((inBundle { Issue.init with checked := true, dbgEn := true }).issue.checked = true ∧
      (inBundle { Issue.init with checked := true, dbgEn := true }).issue.after = none ∧
      (inBundle { Issue.init with checked := true, dbgEn := true }).issue.dbgEn = true ∧
      isThread (inBundle { Issue.init with checked := true, dbgEn := true }).cur = false) ∧
    ((on user).issue.checked = false ∧ isThread (on user).cur = false ∧ (on user).me.inh = false ∧ (on user).me.priv ≠ 2) := by decide

/-- A strand inside a handler. -/
def handling : State := on { kern with status := 1 + 2 ^ 10 }

/-- Traps: a strand of firmware, one above user privilege, and one inside a handler. -/
theorem witness_trap_entry : fw.priv < 3 ∧ ((on kern).issue.target = none ∧ (on kern).me.priv ≠ 0 ∧ (on kern).issue.probe = false) ∧
    (isThread 0 = false ∧ (handling.strand 0).inh = true ∧ (Trap.of 0x31 0).code ≠ 0x3F ∧ (handling.strand 0).dbgEn = false ∧
      ∀ k ∈ handling.tasks, some k.id = (handling.core (coreOf 0)).task → bitN k.pkt (coreOf 0) = true) ∧
    (handling.tasks.find? (fun x => some x.id == (handling.core 0).task) = none) := by decide

/-- A routine of dense passes of 8-bit operands and one K position, and core 0 running it. -/
def routine0 : Routine :=
  { word := 0, entry := 0x8000000000010000, params := (Vector.replicate 18 0).set 0 (10 * 65536) |>.set 1 1 |>.set 5 64 |>.set 17 9
    epi := ⟨false, false, false, false, 0, 0, 0, 0⟩, sweeps := [], back := none, front := none, map := none, maps := [], loop0 := none
    loop1 := none, group := none, ended := false, next := 0, bld := 0, array := 0, done := [], outs := [], fin := 0, part := 0 }
def running (r : Routine) : State :=
  { on user with cores := [(0, { Core.init with routine := some r, calls := [⟨0, 0, Vector.replicate 8 1, 0⟩] })] }

/-- A group of two entries at its first, and at its last. -/
def group2 (n : Nat) : MGroup := ⟨1, 2, 2 ^ 21 - 64, 2, n, 0, 0, 0, 0, 0⟩

/-- A routine of geometry 1 (N = 8) inside a loop of level 0, and core 0 running it over words that select rows 0 to 7. -/
def mapped8 : Routine := { routine0 with params := routine0.params.set 0 (10 * 65536 + 2 ^ 20), loop0 := some ⟨1, 9, 0, 2⟩ }
def mapping : State := { running mapped8 with mem := [(mstoreBase + 8, 0xFF)] }

/-- MicroSettings: the first and the last parameter, the geometry at its greatest, a map of one word, an inner loop, the last table that
fits, groups with and without an entry left. -/
theorem witness_micro : Runs (running routine0) routine0 ∧ 1 ≤ (17#5).toNat ∧ (17#5).toNat ≤ 17 ∧ (8#4).toNat ≤ 8 ∧ (4#3).toNat ≤ 4 ∧
    0 < (1#12).toNat ∧ routine0.loop0 = none ∧ routine0.loop1 = none ∧ routine0.group = none ∧
    ((running routine0).callM (7#4).toNat + (0#32).toNat) % 2 ^ 32 ≠ 0 ∧ routine0.nOf = 48 ∧ routine0.fin ≤ (running routine0).mcycle ∧
    ((running routine0).core (running routine0).mcore).sends = 0 ∧
    (Runs (running { routine0 with fin := 1 }) { routine0 with fin := 1 } ∧ (running { routine0 with fin := 1 }).mcycle < 1) ∧
    ((running routine0).callM (8#4).toNat + ((5242880#32).signExtend 64).toNat) % 2 ^ 32 < 2 ^ 23 ∧
    bitsN (((running routine0).callM (8#4).toNat + ((5242880#32).signExtend 64).toNat) % 2 ^ 32) 20 3 ≤ 5 :=
  ⟨⟨rfl, rfl⟩, by decide, by decide, by decide, by decide, by decide, rfl, rfl, rfl, by decide, by decide, by decide, rfl, ⟨⟨rfl, rfl⟩,
    by decide⟩, by decide, by decide⟩
theorem witness_micro_map : Runs mapping mapped8 ∧ (mapped8.loop0 = some ⟨1, 9, 0, 2⟩ ∧ mapped8.loop1 = none ∧ mapped8.group = none ∧
      mapped8.word + (9#12).toNat ≤ 9) ∧ 0 < (1#12).toNat ∧ mapped8.nOf ≠ 48 ∧ (1#12).toNat + (1#12).toNat ≤ 4096 ∧
    (∀ i, i < (1#12).toNat → let x := mapping.mword mapping.mcore ((1#12).toNat + i)
      x < 2 ^ 48 ∧ ((List.range 48).filter (fun b => x.testBit b)).length = mapped8.nOf) :=
  ⟨⟨rfl, rfl⟩, by decide, by decide, by decide, by decide, by decide⟩
theorem witness_micro_groups : ((running routine0).callM (8#4).toNat + ((2097120#32).signExtend 64).toNat) % 2 ^ 32 = 2 ^ 21 - 32 ∧
    (running routine0).callM (0#3).toNat % 65536 = 1 ∧ (2 ^ 21 - 32) % 32 = 0 ∧
    (running routine0).tileAt (2 ^ 21 - 32) 32 = some (tileBase + (2 ^ 21 - 32)) ∧
    bitsN ((running routine0).readMem (tileBase + (2 ^ 21 - 32)) 32) 0 32 ≤ 128 ∧
    Runs (running { routine0 with group := some (group2 1) }) { routine0 with group := some (group2 1) } ∧ (group2 1).count ≤ (group2 1).n + 1 ∧
    Runs (running { routine0 with group := some (group2 0) }) { routine0 with group := some (group2 0) } ∧ (group2 0).n + 1 < (group2 0).count ∧
    (running { routine0 with group := some (group2 0) }).tileAt (((group2 0).table : Int) + 32 * (((group2 0).n + 1 : Nat) : Int)) 32 =
      some (tileBase + (2 ^ 21 - 32)) :=
  ⟨by decide, by decide, by decide, by decide, by decide, ⟨rfl, rfl⟩, by decide, ⟨rfl, rfl⟩, by decide, by decide⟩

/-- A routine with an open sweep of one row and a tile in the B buffer, on a core whose rank 0 is device 1. -/
def sweeping : Routine := { routine0 with sweeps := [(0, ⟨1, .tile, 0, []⟩)], back := some ⟨0, 0, 0⟩ }
def ranked : State := { running routine0 with dies := Vector.replicate 4 { Die.init with group := [1] } }

set_option maxRecDepth 8000 in
/-- MicroData: rows 1 and 128, a tile and rows that fit, a slot of another device, a sweep of one row, no sweep. -/
theorem witness_micro_data : ((128#8).toNat ≤ 128 ∧ 0 < (1#8).toNat ∧ routine0.outs.getD 0 0 ≤ (running routine0).mcycle) ∧
    (pairOf routine0.wa routine0.wb = some (128, 1, 4) ∧ (routine0.addr 5 1 + (0#32).toInt) % 64 = 0 ∧ routine0.bld = 0 ∧
      (running routine0).sliceAt (routine0.addr 5 1 + (0#32).toInt) (16 * 128 * routine0.wb) = some (weightBase + 64)) ∧
    (∀ i : Nat, i < 128 → (routine0.addr 7 2 + i * routine0.par 8) % 4 = 0 ∧
      ((running routine0).tileAt (routine0.addr 7 2 + i * routine0.par 8) 512).isSome = true) ∧
    (routine0.done.find 0 = none ∧ routine0.addr 7 2 % 4 = 0 ∧ (running routine0).tileAt (routine0.addr 7 2) 512 = some tileBase) ∧
    (Runs ranked routine0 ∧ ranked.tileAt (routine0.addr 9 3) 8 = some tileBase ∧
      ranked.rankDie (dieOfCore ranked.mcore) (bitsN (ranked.readMem tileBase 8) 20 12) = some (1, 0) ∧
      1 ≠ ranked.devid.toNat % 4096) ∧
    (Runs (running sweeping) sweeping ∧ sweeping.sweeps.find 0 = some ⟨1, .tile, 0, []⟩ ∧ sweeping.bld = 0 ∧
      sweeping.array ≤ (running sweeping).mcycle ∧ sweeping.back.or sweeping.front = some ⟨0, 0, 0⟩ ∧
      pairOf sweeping.wa sweeping.wb = some (128, 1, 4)) ∧
    ((running routine0).tileStored 0 = [] ∧ (running routine0).wordsStored 0 = none ∧ (running sweeping).tileStored 0 = [] ∧
      ranked.wordsStored 0 = none ∧ (running routine0).poison = [] ∧ (running sweeping).poison = [] ∧ ranked.poison = []) ∧
    (routine0.sweeps.find 0 = none ∧ ((running routine0).core 0).calls = [⟨0, 0, Vector.replicate 8 1, 0⟩]) := by
  refine ⟨by decide, by decide, ?_, by decide, ⟨⟨rfl, rfl⟩, by decide, by decide, by decide⟩, ⟨⟨rfl, rfl⟩, by decide, by decide, by decide,
    by decide, by decide⟩, by decide, by decide⟩
  decide
theorem witness_pass : ∃ p, (running sweeping).planPass sweeping ⟨1, .tile, 0, []⟩ 0 128 = .ok p ∧ passFits (running sweeping) sweeping p 1 ∧
    (running sweeping).scaleFault sweeping p 1 true = false := by
  refine ⟨_, rfl, .inr ?_, by decide⟩
  decide

/-- Strand 0 as given, and strand 1 ready. -/
def two (x : Strand) : State := { allUp with strands := [(0, x), (1, { Strand.init with run := .ready })] }

/-- SelectorEvents: a quantum that has run out, alone and beside a READY strand; a hold of 64 cycles; a wait that is over; a HALT
with no element left and with one. -/
theorem witness_selector : ((on { user with qcount := 256 }).running 0 = some 0 ∧ (on { user with qcount := 256 }).otherReady 0 = false) ∧
    ((two { user with qcount := 256 }).running 0 = some 0 ∧ (two { user with qcount := 256 }).otherReady 0 = true) ∧
    (({ two { user with holdFrom := some 0 } with dies := Vector.replicate 4 { Die.init with cycle := 64 } } : State).running 0 = some 0 ∧
      0 + 64 ≤ ({ two { user with holdFrom := some 0 } with dies := Vector.replicate 4 { Die.init with cycle := 64 } } : State).cycleOf 0 ∧
      (two { user with holdFrom := some 0 }).otherReady 0 = true) ∧
    (((on { user with run := .waiting, wait := .hold }).strand 0).run = .waiting ∧
      ((on { user with run := .waiting, wait := .hold }).strand 0).wait = .hold) ∧
    ((on { user with run := .waiting, wait := .dqData, dq := [⟨0, some 0, false, 0⟩] }).wakeDue 0 = true ∧
      0 = (on user).cur ∧ (on user).issue.checked = false ∧ ((on user).strand 0).aq = [] ∧
      ((on user).core 0).oldestParked 0 = none ∧ (∀ p ∈ ((on user).strand 0).gated ++ ((on user).strand 0).storeQ, p.rel = none) ∧
      ((on { user with aq := [parkedElem] }).strand 0).aq ≠ []) := by decide

/-- A store of the last 8 bytes of HBM, in the queue of strand 0; one that passes a lease until cycle 1, and has passed. -/
def lastStore : PStore := ⟨.write, 0xBFFFFFFFF8, 0xBFFFFFFFF8, 8, 7, 255, none, 0, 0, 0, none, false, false⟩
def storing (x : Strand) (cycle : Nat) : State :=
  { on { fw with storeQ := x.storeQ, passed := x.passed } with pass := true, leases := [(0xBFFFFFFFF8 / 64, 1)], dies := Vector.replicate 4 { Die.init with cycle } }

/-- StoreBecomesVisible. -/
theorem witness_store_visible : (let s := on { fw with storeQ := [lastStore] };
      lastStore.kind = .write ∧ s.isRemote lastStore.pa = false ∧ s.drainFails lastStore = false ∧ regionOf (lastStore.pa % 2 ^ 52) = .hbm ∧
      s.unclashed (lastStore.pa % 2 ^ 52) lastStore.size = true ∧ (s.strand 0).storeQ = [lastStore] ∧ s.drainReady 0 lastStore = true ∧
      s.passes lastStore = false ∧ s.l2mode = true ∧ s.passedDue 0 = none) ∧
    (let s := storing { fw with storeQ := [lastStore] } 1;
      s.drainFails lastStore = false ∧ s.unclashed (lastStore.pa % 2 ^ 52) lastStore.size = true ∧ s.drainReady 0 lastStore = true ∧
      s.passes lastStore = true ∧ s.homeCycle (lastStore.pa % 2 ^ 52) < s.passTime 0 lastStore) ∧
    (let s := storing { fw with storeQ := [lastStore] } 2;
      s.drainReady 0 lastStore = true ∧ s.passTime 0 lastStore ≤ s.homeCycle (lastStore.pa % 2 ^ 52)) ∧
    (let s := storing { fw with passed := [(2, lastStore)] } 2;
      s.drainFails lastStore = false ∧ s.unclashed (lastStore.pa % 2 ^ 52) lastStore.size = true ∧ s.passedDue 0 = some lastStore) := by decide
/-- Line 3 with a directory entry, in normal service. -/
def dirAt (d : Dir) : State := { allUp with l2mode := false, dir := [(3, d)] }
/-- MemoryModes, of the directory: each state, with cluster 0 the owner or one of two sharers. -/
theorem witness_directory : (dirAt (0, 0, 0)).dirOf 4 = (0, 0, 0) ∧ (∀ d ∈ [(1, 0, 3), (2, 0, 0), (3, 0, 0), (4, 0, 0), (4, 0, 2)],
      (dirAt d).dirOf 3 = d ∧ (dirAt d).l2mode = false) ∧
    (∀ k, (2 : Nat).testBit k = ((3 : Nat).testBit k && decide (k ≠ 0))) ∧ 2 ≠ 0 := by
  refine ⟨by decide, by decide, fun k => ?_, by decide⟩
  rcases k with _ | _ | k <;> simp [Nat.testBit_add_one]
def normal : State := { State.reset with l2mode := false, leases := [(3, 0)], dies := Vector.replicate 4 { Die.init with cycle := 1 } }
/-- MemoryModes: a lease that has run out; no switch and one; a bank at the end of its switch; a region without a lock; flips both
ways. -/
theorem witness_modes : (normal.l2mode = false ∧ normal.leases.find 3 = some 0 ∧ 0 < normal.homeCycle (3 * 64)) ∧
    (State.reset.l2busy = false ∧ ({ State.reset with l2busy := true } : State).l2busy = true ∧ normal.hostHeld = [] ∧
      normal.heldWords = [] ∧ normal.heldStores = []) ∧
    (let k : Bank := ⟨.cache, .fifo, true, 0, false, false, false, false, []⟩;
      (State.reset.setBank 0 63 k).bank 0 63 = k ∧ k.busy = true ∧ k.target ≠ k.mode ∧ k.busyEnd ≤ ((State.reset.setBank 0 63 k).die 0).cycle) ∧
    (State.reset.biasBusy = false ∧ 393215 < 393216) ∧
    (let s : State := { State.reset with biasBusy := true, biasTgt := true };
      s.biasBusy = true ∧ s.biasTgt = true ∧ s.regionLocked s.biasRegion.toNat = false) := by decide

/-- HostAndErrorEvents: the last byte of HBM, a flip that holds it, a full lock table, and a lock that is there. -/
theorem witness_host : (allUp.hostHeld = [] ∧ allUp.homeBusy 0xBFFFFFFFFF = false ∧ 0xBFFFFFFFFF + 1 ≤ 0xC000000000 ∧
      allUp.stackOff 0xBFFFFFFFFF = false ∧ 255 < 256 ^ 1 ∧ allUp.unclashed 0xBFFFFFFFFF 1 = true ∧
      allUp.writeWaits 0xBFFFFFFFFF 1 = false) ∧ (storing fw 0).writeWaits 0xBFFFFFFFF8 8 = true ∧ (storing fw 0).hostHeld = [] ∧
    ({ State.reset with l2busy := true } : State).homeBusy 0xBFFFFFFFFF = true ∧ (687 < 688 ∧ State.reset.secnt.getD 687 0 < 2 ^ 32 - 1) ∧
    (({ State.reset with dies := Vector.replicate 4 { Die.init with locks := [(4095, ⟨0, 0, 1, [], 0⟩)] } } : State).die
        (bitsN (4095#64).toNat 60 2)).locks.any (fun l => l.1 == (4095#64).toNat % 2 ^ 12) = true := by decide
/-- A page lock of the first 64 bytes of die 0 by way of the host's table of ASID 0, one of an address that no table maps, and one in a
mode switch. -/
def locking : State := { allUp with plklen := 64, dies := Vector.replicate 4 { Die.init with tlb := [page0] } }
def lockSpace : Space := { asid := 0, base := 0, en := true, priv := 1, die := 0, clu := none }
theorem witness_lock : (locking.l2busy = false ∧ State.freeLock (locking.die 0) = some 0 ∧
      ∃ l, locking.region lockSpace (false, locking.plkva.toNat, locking.plklen.toNat) = .ok l) ∧
    (∃ e, ({ allUp with plklen := 64 } : State).region lockSpace (false, 0, 64) = .error e) ∧
    ({ allUp with l2busy := true } : State).l2busy = true := ⟨⟨rfl, by decide, _, rfl⟩, ⟨_, rfl⟩, rfl⟩
/-- 4,096 entries. -/
def fullLocks : List (Nat × Lock) := (List.range 4096).map (fun i => (i, ⟨0, 0, 1, [], 0⟩))
theorem witness_full_locks : State.freeLock { Die.init with locks := fullLocks } = none := by
  simp only [State.freeLock, List.find?_eq_none, fullLocks, List.all_map, List.length_map, List.length_range, Bool.and_eq_true,
    decide_eq_true_eq, List.all_eq_true, List.mem_range, Function.comp, bne_iff_ne]
  rintro i - ⟨hi, h⟩
  exact h i hi rfl

/-- Request 5 of flow 3 of device 9, of 64 bytes at 0, for which it waits at the flow's position, and one that it is past. -/
def req5 : Packet := ⟨9, 3, 5, 1, 0, 0, 1, 2, 0x0E + 2 ^ 9 * 6, 4, 7, 0, 1⟩
def flow5 (base : Nat) : RxFlow := ⟨9, 3, base, 0, 0, []⟩
def target (base : Nat) : State := { allUp with devid := 0x1000, rxflows := [flow5 base] }

/-- RemoteRequests: every kind of request to be done, one done before, and one of a flow that is new; a store of no byte. -/
theorem witness_requests : (∀ op ∈ [1, 2, 3, 4], State.requestOk { req5 with op } = true) ∧
    (target 6).rxflow req5.src req5.flow = some (flow5 6) ∧ (flow5 6).executed req5.psn = true ∧
    ((target 5).rxflow req5.src req5.flow = some (flow5 5) ∧ (flow5 5).executed req5.psn = false ∧ (flow5 5).dist req5.psn < 64 ∧
      req5.size ≤ 6 ∧ (flow5 5).depMet req5 = true) ∧
    (let s : State := { allUp with devid := 0x1000 };
      s.rxflow req5.src req5.flow = none ∧ s.rxflows.length < 8192 ∧ s.targetReach 0 .read 4 0 = some (.mem 0, .fault 0) ∧ (flow5 0).executed 0 = false ∧
      (flow5 0).dist 0 < 64 ∧ (flow5 0).depMet { req5 with psn := 0, dep := 0 } = true) ∧
    (∀ acc ∈ [Acc.read, .write, .atomic], (target 5).targetReach req5.die acc (2 ^ req5.size) req5.addr = some (.mem 0, .fault 0)) ∧
    (target 5).homeBusy 0 = false ∧ (target 5).poisoned 0 (2 ^ req5.size) = false ∧
    (req5.bmask % 2 ^ (2 ^ req5.size) ≠ 0 ∧ 0 % 2 ^ (2 ^ req5.size) = 0) ∧ (target 5).unclashed 0 (2 ^ req5.size) = true ∧
    (target 5).unclashed 0 (aopBytes req5.aop) = true ∧
    (target 5).requestWaits { req5 with op := 2 } (.mem 0) = false ∧ aopOk req5.aop = true ∧ inHbm 0 = true ∧
    (target 5).requestWaits { req5 with op := 3 } (.mem 0) = false := by decide

/-- A load that strand 0 has sent to device 9 under number 5 of flow 3, its flow, and the strand that waits for it. -/
def load5 : TxPkt := ⟨5, { req5 with src := 0, op := 1, aop := 0 }, 0, 0, .n64, 1, 0, 0, none, false, false, true⟩
def pend5 : Pend := ⟨0, .load [(0, 0, 0, 2)], true, 1, 1, [], none, [], [], false⟩
def sender (p : TxPkt) : State :=
  { on { fw with request := some pend5 } with
    txflows := [⟨9, 3, 6, 5, [p]⟩], rxflows := [flow5 5], now := 7, dies := Vector.replicate 4 { Die.init with cycle := 8193 } }

/-- AnswersOfRequests: the last acknowledgement position, no packet, a response before its time and in it, a packet that times out
in this cycle, and one whose wait ends in this tick. -/
theorem witness_answers : (((sender { load5 with waits := false }).txflow 9 3).pkts = [{ load5 with waits := false }] ∧ load5.sent ≠ 0 ∧
      ackCovers ⟨9, 3, 6, 0, 0⟩ load5.psn = true ∧ psnDist 6 ((sender load5).txflow 9 3).base < 32768) ∧
    (State.reset.txflow 9 3).pkts = [] ∧ (flow5 6).executed 5 = true ∧
    ((sender load5).rxflow 9 3 = some (flow5 5) ∧ (flow5 5).executed 5 = false ∧ (flow5 5).dist 5 < 64 ∧
      (sender load5).txflows = [⟨9, 3, 6, 5, [load5]⟩] ∧ load5.waits = true ∧ load5.pkt.tag % 2 ^ 32 = 4 ∧ load5.pkt.op = 1 ∧
      load5.owner < 4095 ∧ ((sender load5).strand load5.owner).request = some pend5 ∧ pend5.sent = true ∧ pend5.tag = load5.pkt.tag / 4) ∧
    ((sender load5).txPkt 9 3 5 = some load5 ∧ (sender load5).timedOut load5 = true ∧ load5.pkt.op ≠ 0 ∧ load5.cancelled = false ∧
      load5.timeouts < max 1 (sender load5).rtxlim.toNat) ∧
    ((sender { load5 with rnrUntil := some 7 }).txPkt 9 3 5 = some { load5 with rnrUntil := some 7 } ∧
      (sender { load5 with rnrUntil := some 7 }).retryDue { load5 with rnrUntil := some 7 } = true) := by decide

/-- A region at 64 of one leaf with key 1 and value 7, and at 1,024 a cursor of it: at its start, past its key, and at its end. -/
def sparseMem (last flags : Nat) : List Host.Cell :=
  [(68, 1), (71, 128), (73, 1), (80, 2), (92, 1), (100, 2), (104, 1), (512, 1), (528, 1), (640, 7), (1024, 64)] ++
    (if last = 0 then [] else [(1032, 1)]) ++ (if flags = 0 then [] else [(1048, BitVec.ofNat 8 flags)])
def sparse (last flags : Nat) (r : Option Pend) : State :=
  { paged (withS [(1, 1)] (withA [(1, 64), (2, 1024)] { kern with request := r })) with mem := sparseMem last flags }
def region : Desc := descOf ((sparse 0 0 none).readMem 64 64)
def leaf : Node := ⟨0, 0, [1], [7], [], 0⟩
def oryxAnswer (op : OryxOp) : Option Pend := some ⟨0, .oryx op 64 1 7, true, 1, 1, [(0, 5)], none, [], [], false⟩

set_option maxRecDepth 8000 in
/-- SparseOperations. -/
theorem witness_sparse : ((sparse 0 0 none).Acts ∧
      (sparse 0 0 none).checkDesc ((sparse 0 0 none).spaceOf 0) .sparseR 64 = .ok (region, 64, .ok 64 0 (some page0) false) ∧
      keyBad region 1 = false ∧
      (sparse 0 0 none).findLeaf ((sparse 0 0 none).spaceOf 0) .sparseR ⟨region, [], [], 0⟩ 1 = .ok ([], 1, leaf, ⟨region, [], [1], 0⟩) ∧
      (sparse 0 0 none).loadHeld 64 = false ∧ (sparse 0 0 none).biasBusy = false) ∧
    (sparse 0 0 (oryxAnswer .st)).Answered (.oryx .st 64 1 7) ∧ (sparse 0 0 (oryxAnswer .add)).Answered (.oryx .add 64 1 7) :=
  ⟨⟨actsOf rfl, rfl, by decide, rfl, by decide, by decide⟩, answeredOf _ rfl rfl (by decide), answeredOf _ rfl rfl (by decide)⟩
/-- Strand 4 has a cursor store of that record under way. -/
def raced : State :=
  { sparse 0 0 none with strands := (sparse 0 0 none).strands ++ [(4, { Strand.init with gated := [⟨.write, 1024, 1024, 32, 64, 2 ^ 32 - 1, none, 1, 0, 0, none, false, true⟩] })] }
theorem witness_cursor_raced : raced.Acts ∧ bitN (raced.cursorAt 1024) 193 = false ∧
    (let w := (raced.useRegion (raced.spaceOf 0) region 64).flushLoads 0; w.cursorRaced 1024 = true) := ⟨actsOf rfl, by decide, by decide⟩

set_option maxRecDepth 8000 in
/-- Cursors of it: ended, at its start, and past its key; and one that another strand's step still writes. -/
theorem witness_cursor : (∀ last flags, (sparse last flags none).Acts) ∧ 1024 % 32 = 0 ∧
    ((sparse 0 0 none).xlat ((sparse 0 0 none).spaceOf 0) .write 1024 = .ok 1024 0 (some page0) false ∧
      (sparse 0 0 none).placeOk 1024 0 = true ∧ (sparse 0 0 none).loadHeld 1024 = false ∧
      (sparse 0 0 none).access ((sparse 0 0 none).spaceOf 0) .write 32 1024 = .ok (1024, 0, .mem 1024, .ok 1024 0 (some page0) false)) ∧
    bitN ((sparse 0 2 none).cursorAt 1024) 193 = true ∧
    (bitN ((sparse 0 0 none).cursorAt 1024) 193 = false ∧ (sparse 0 0 none).cursorAt 1024 % 2 ^ 64 = 64 ∧
      (sparse 0 0 none).cursorRaced 1024 = false ∧ (sparse 0 0 none).l2busy = false) ∧
    (∃ t, (sparse 0 0 none).nextKey ((sparse 0 0 none).spaceOf 0) region ((sparse 0 0 none).cursorAt 1024) = .ok (some (1, 7, 1, 0), t)) ∧
    (bitN ((sparse 1 1 none).cursorAt 1024) 193 = false ∧ (sparse 1 1 none).cursorRaced 1024 = false) ∧
    (∃ t, (sparse 1 1 none).nextKey ((sparse 1 1 none).spaceOf 0) region ((sparse 1 1 none).cursorAt 1024) = .ok (none, t)) :=
  ⟨fun _ _ => actsOf rfl, by decide, ⟨by decide, by decide, by decide, rfl⟩, by decide, by decide, ⟨_, rfl⟩, by decide, ⟨_, rfl⟩⟩

set_option maxRecDepth 8000 in
/-- The same after the loads that SPNEXT lets perform, and in the region in use. -/
theorem witness_cursor_next : (let s := sparse 0 0 none
    let c := s.spaceOf 0
    let w0 := (s.commitXlat c .read (s.xlat c .read 1024)).flushLoads 0
    w0.checkDesc c .sparseR 64 = .ok (region, 64, .ok 64 0 (some page0) false) ∧ (w0.useRegion c region 64).cursorRaced 1024 = false ∧
      ∃ t, (w0.useRegion c region 64).nextKey c region (s.cursorAt 1024) = .ok (some (1, 7, 1, 0), t)) ∧
    (let s := sparse 1 1 none
     let c := s.spaceOf 0
     let w0 := (s.commitXlat c .read (s.xlat c .read 1024)).flushLoads 0
     w0.checkDesc c .sparseR 64 = .ok (region, 64, .ok 64 0 (some page0) false) ∧ (w0.useRegion c region 64).cursorRaced 1024 = false ∧
       ∃ t, (w0.useRegion c region 64).nextKey c region (s.cursorAt 1024) = .ok (none, t)) :=
  ⟨⟨rfl, by decide, _, rfl⟩, rfl, by decide, _, rfl⟩

theorem okOf {ε α : Type} {x : Except ε α} (h : x.isOk = true) : ∃ r, x = .ok r := by cases x with | ok r => exact ⟨r, rfl⟩ | error e => cases h

/-- Four dies as given. -/
def dies (d : Die) : State := { allUp with dies := Vector.replicate 4 d }

/-- A circuit cell, a packet with hops left to device 1, a response for device 0, and a packet with no hop left. -/
def circCell : Cell := ⟨2 ^ 61, 5⟩
def farCell : Cell := ⟨2 ^ 62 + 2 ^ 48 + 15 * 2 ^ 32 + 1, 5⟩
def respCell : Cell := ⟨3 * 2 ^ 61, 5⟩
def deadCell : Cell := ⟨2 ^ 62 + 2 ^ 48, 5⟩

/-- A die in slot 2 with its links as given, a table entry that connects input 7 to port 3, and what waits. -/
def routerDie (l : Link) (circ spray : List QCell) : Die :=
  { Die.init with slot := 2, tabA := [(2, 0xF000)], links := Vector.replicate 4 l, circ := circ, spray := spray, frt := [(1, 0x301)] }
def up : Link := { Link.init with trained := true }
def circ7 : QCell := ⟨7, 0, 0, circCell, false, none⟩
def spray3 : QCell := ⟨6, 3, 0, farCell, false, none⟩
def home7 : QCell := ⟨8, 7, 0, respCell, false, none⟩

/-- RouterCells: a seventh cell with room and a ninth without; a ready circuit cell with its port open and closed; a sprayed one; one
for this device, and an output with nothing ready. -/
theorem witness_router : (hdrOk circCell.hdr = true ∧ cellKind circCell.hdr = 1 ∧
      ((((dies (routerDie up (List.replicate 7 circ7) [])).die 3).circ.filter (fun q => q.input == 7)).length < 8) ∧
      8 ≤ ((((dies (routerDie up (List.replicate 8 circ7) [])).die 3).circ.filter (fun q => q.input == 7)).length)) ∧
    ((dies (routerDie up [circ7] [])).sendReady 0 3 = true ∧ (dies (routerDie up [circ7] [])).circuitReady 0 3 = some circ7 ∧
      (dies (routerDie up [circ7] [])).portOpen 0 3 = true) ∧
    ((dies (routerDie Link.init [circ7] [])).sendReady 0 3 = true ∧
      (dies (routerDie Link.init [circ7] [])).circuitReady 0 3 = some circ7 ∧
      (dies (routerDie Link.init [circ7] [])).portOpen 0 3 = false) ∧
    ((dies (routerDie up [] [spray3])).sendReady 0 3 = true ∧ (dies (routerDie up [] [spray3])).circuitReady 0 3 = none ∧
      (dies (routerDie up [] [spray3])).sprayReady 0 3 = some spray3 ∧ spray3.esc = false ∧
      cellKind (farCell.hdr - 2 ^ 32) = 2) ∧
    ((dies (routerDie up [] [home7])).sendReady 0 7 = true ∧ (dies (routerDie up [] [home7])).circuitReady 0 7 = none ∧
      (dies (routerDie up [] [home7])).sprayReady 0 7 = some home7 ∧ cellKind home7.cell.hdr = 3) ∧
    (dies (routerDie up [] [])).sendReady 0 7 = false ∧
    (hdrOk respCell.hdr = true ∧ cellKind respCell.hdr = 3 ∧ bitsN respCell.hdr 48 12 = State.reset.devId) ∧
    (hdrOk farCell.hdr = true ∧ 2 ≤ cellKind farCell.hdr ∧ cellKind farCell.hdr ≤ 4 ∧ bitsN farCell.hdr 48 12 ≠ State.reset.devId ∧
      bitsN farCell.hdr 32 4 ≠ 0 ∧ (routerDie up [] []).routeEnt (bitsN farCell.hdr 48 12) % 256 ≠ 0) ∧
    (hdrOk deadCell.hdr = true ∧ bitsN deadCell.hdr 32 4 = 0) := by decide

/-- A circuit cell under sequence number 1 with its CRCs, and one whose trailer is wrong. -/
def linkCell : LinkCell := ⟨2 ^ 61, 5, crc64 (2 ^ 61) 5, trailerOf 1 0 false⟩
def secure (n : Nat) : Link := { up with txOn := true, ctrs := Vector.replicate 4 n }

set_option maxRecDepth 8000 in
/-- LinkEvents: cell 1 on port 3, and one whose tag is wrong; counters at the two limits. -/
theorem witness_link_events : 3 < 4 ∧ (((dies (routerDie up [] [])).link 0 3).trained = true ∧ ((dies (routerDie up [] [])).link 0 3).down = false) ∧
    (bitsN linkCell.trailer 0 16 = crc16 linkCell.trailer ∧ bitsN linkCell.trailer 48 16 = 0 ∧ bitN linkCell.trailer 23 = false ∧
      bitsN linkCell.trailer 36 12 = up.expect ∧ up.expect < 4096 ∧ up.rxOn = false ∧ hdrOk linkCell.hdr = true ∧
      cellKind linkCell.hdr = 1) ∧
    ¬ (bitsN 0 0 16 = crc16 0 ∧ bitsN 0 48 16 = 0) ∧
    ((secure 0).trained = true ∧ (secure 0).down = false ∧ (secure 0).txOn = true ∧ (secure 0).oldfree = true) ∧
    2 ^ 47 ≤ (secure (2 ^ 47)).ctrs.getD (b2n (secure (2 ^ 47)).txslot) 0 ∧
    (let l := { secure 0 with oldfree := false, ctrs := (secure 0).ctrs.set 1 (2 ^ 47) };
      l.oldfree = false ∧ 2 ^ 47 ≤ l.ctrs.getD (b2n !l.txslot) 0) ∧
    ((dies (routerDie up [] [])).routerReady 0 = true ∧ (dies (routerDie up [] [])).boot.min = false) ∧
    2 ^ 48 ≤ (secure (2 ^ 48)).ctrs.getD (b2n (secure (2 ^ 48)).txslot) 0 := by decide
set_option maxRecDepth 8000 in
theorem witness_link_tag : linkCell.tag = crc64 linkCell.hdr linkCell.payload ∧
    { linkCell with tag := 0 }.tag ≠ crc64 linkCell.hdr linkCell.payload := by
  refine ⟨by simp only [linkCell], by decide +kernel⟩

/-- A queue with its last cell to send, and one with a space cell due; circuits of both. -/
def strips : State := { (((on user).setLq 0 15 { Lq.init with role := .tx, out := [⟨65535, 31, 0, 7, false⟩] }).setLq 0 1
  { Lq.init with role := .rx, spaceDue := true }) with circuits := [(254, (0, 1, false, 9)), (255, (0, 15, true, 9))] }

/-- The same with its queue closing, and an LQBIND.un of strand 0 that waits for that. -/
def closing1 : State := (strips.setLq 0 15 { Lq.init with role := .tx, out := [⟨65535, 31, 0, 7, false⟩], closing := true, unTags := [(5, 3)] }).updStrand 0
  (fun st => { st with flight := [⟨.s 3, 0, 1, none, true, false, false, 0, false, 0, 5, false⟩] })
theorem witness_closing : closing1.stripDue 0 15 = true ∧ (closing1.lqOf 0 15).nextStrip (closing1.slotOf 0) = some ⟨65535, 31, 0, 7, false⟩ ∧
    (closing1.lqOf 0 15).closing = true ∧ (closing1.lqOf 0 15).unTags = [(5, 3)] ∧ 5 ≠ 0 ∧ ownerSid 0 (closing1.lqOf 0 15).owner = 0 ∧
    (∃ r ∈ (closing1.strand 0).flight, r.tag = 5 ∧ ∀ g, r.dst ≠ .g g) ∧
    (closing1.setLq 0 15 { (closing1.lqOf 0 15) with unTags := [] }).lqOf 0 15 = { (closing1.lqOf 0 15) with unTags := [] } :=
  ⟨by decide, by decide, by decide, by decide, by decide, by decide, ⟨_, List.mem_singleton.mpr rfl, rfl, fun _ h => RegName.noConfusion h⟩, by decide⟩

/-- CircuitsAndStrips: period 1 named in period 0, its start, a slot before it; the last strip and the last place of a window. -/
theorem witness_strips : ((0x10008#64).getLsbD 3 = true ∧ ((0x10008#64).extractLsb' 48 16).toNat = 0 ∧
      ((2 ^ 48 + 8 : Nat) < 2 ^ 64 ∧ ((BitVec.ofNat 64 (2 ^ 48 + 8)).extractLsb' 48 16).toNat = (Die.init.slot / 256 + 1) % 65536)) ∧
    (({ Die.init with armed := true, swapPeriod := 1, slot := 256 } : Die).armed = true ∧ 1 ≤ 256 / 256 ∧ 255 / 256 < 1) ∧
    (strips.stripDue 0 15 = true ∧ (strips.lqOf 0 15).nextStrip (strips.slotOf 0) = some ⟨65535, 31, 0, 7, false⟩ ∧
      (strips.lqOf 0 15).closing = false) ∧
    strips.spaceDueNow 0 1 = true ∧ strips.stripDue 0 1 = false ∧ strips.spaceDueNow 0 15 = false ∧
    (strips.circuits.find 254 = some (0, 1, false, 9) ∧ (7 + 65536 - (strips.lqOf 0 1).count) % 65536 < 8 ∧ 31 < 32 ∧
      2 ^ 1024 - 1 < 2 ^ 1024) ∧
    (strips.circuits.find 255 = some (0, 15, true, 9) ∧ (32767 + 65536 - (strips.lqOf 0 15).f) % 65536 < 32768) ∧
    strips.circuits.find 0 = none := by decide

/-- A core whose head call names entry 0, and what the table holds there. -/
def called (e : Word) (d : Die) : State :=
  { State.reset with cores := [(0, { Core.init with calls := [⟨0, 0, Vector.replicate 8 0, 0⟩], rtent := [(0, e)] })],
                     dies := Vector.replicate 4 d }
def burst : Word := 0xC000000010000FFF

/-- MatrixUnitEvents: a routine of the last word of the store, an invalid entry, the ends of a load and of a routine; a token that
arrives where a burst wants it and where none does, a hold at its end, a request at its end. -/
theorem witness_matrix_events : ((called 0x8000000000010FFF Die.init).startDue 0 = true ∧
      (called 0x8000000000010FFF Die.init).headEntry 0 = some 0x8000000000010FFF ∧
      (0x8000000000010FFF#64).getLsbD 63 = true ∧ (entryRange 0x8000000000010FFF).2 ≤ 4096 ∧
      bitsN (0x8000000000010FFF#64).toNat 58 3 ≤ 4) ∧
    ((called 0 Die.init).startDue 0 = true ∧ (called 0 Die.init).headEntry 0 = some 0 ∧ (0#64).getLsbD 63 = false) ∧
    (((running { routine0 with bld := 1 }).core 0).routine = some { routine0 with bld := 1 } ∧ (1 : Nat) ≠ 0) ∧
    (((running { routine0 with ended := true }).core 0).routine = some { routine0 with ended := true } ∧
      routine0.fin ≤ ((running { routine0 with ended := true }).die 0).cycle ∧
      ((running { routine0 with ended := true }).core 0).sends = 0 ∧
      (running { routine0 with ended := true }).tileStored 0 = [] ∧ (running { routine0 with ended := true }).wordsStored 0 = none) ∧
    ((called burst { Die.init with cycle := 1 }).tokenArrived 0 = true ∧ (called burst { Die.init with cycle := 1 }).wantsToken 0 = true) ∧
    ((dies { Die.init with ring := [(0, 1, false)], cycle := 1 }).wantsToken 0 = false ∧
      ((dies { Die.init with ring := [(0, 1, false)], cycle := 1 }).die 0).ring = [(0, 1, false)]) ∧
    (((dies { Die.init with ring := [(0, 1, true)], cycle := 4097 }).die 0).ring = [(0, 1, true)] ∧
      1 + max 64 (Die.init.hold.toNat) ≤ 4097) ∧
    (((dies { Die.init with mpwr := [(0, 5)], cycle := 5 }).die 0).mpwr.find 0 = some 5) := by decide

/-- A step that strand 0 waits for at its Oryx unit, in the region of one leaf, and in one with a full leaf and no node left. -/
def oryxReq (op : OryxOp) (key : Nat) : OryxReq := ⟨0, op, 64, key, 7, 0, 1⟩
def asked (key : Nat) (s : State) : State := { s with oryx := [oryxReq .add key] }
def fullLeaf : State := asked 14 { paged { kern with request := oryxAnswer .add } with
  mem := [(68, 4), (71, 128), (73, 1), (80, 2), (92, 1), (100, 2), (104, 14), (512, 14)] ++
    (List.range 13).map (fun i => (536 + 8 * i, BitVec.ofNat 8 (i + 1))) ++ (List.range 14).map (fun i => (640 + 8 * i, 1)) }
def stepped : State := asked 1 (sparse 0 0 (oryxAnswer .add))

set_option maxRecDepth 8000 in
/-- OryxAnswers: the sum of two elements, and a leaf that cannot be split. -/
theorem witness_oryx : (stepped.oryx.find? (fun q => q.sid == 0) = some (oryxReq .add 1) ∧
      stepped.oryxDesc (oryxReq .add 1) = .ok (region, 64, .ok 64 0 (some page0) false) ∧
      ∃ t, stepped.oryxStep (stepped.spaceOf 0) region .add 1 7 = .ok (7, some t)) ∧
    (fullLeaf.oryx.find? (fun q => q.sid == 0) = some (oryxReq .add 14) ∧
      ∃ d a x, fullLeaf.oryxDesc (oryxReq .add 14) = .ok (d, a, x) ∧
        fullLeaf.oryxStep (fullLeaf.spaceOf 0) d .add 14 7 = .ok (0, none)) :=
  ⟨⟨by decide, rfl, _, rfl⟩, by decide, _, _, _, rfl, rfl⟩

/-- A densifying copy of an empty box and of one element of that region, active on die 0, and one whose descriptor is not locked. -/
def denseJob (card : Nat) : Job := ⟨1, 0, .densify, .active, 0, 0, 0, 1, 1, [], [], [], [], [card], 0, 0, none, [], 0⟩
def densifying (card : Nat) : State :=
  { sparse 0 0 none with dies := Vector.replicate 4 { Die.init with jobs := [denseJob card], locks := [(0, ⟨0, 64, 64, [⟨64, 64⟩], 1⟩)] } }
def box1 : Nat := 64 + 2048 * 2 ^ 64 + 2 ^ 256
set_option maxRecDepth 8000 in
theorem witness_densify : ((densifying 0).die 0).jobs.find? (fun j => j.id == 1) = some (denseJob 0) ∧
    (denseJob 0).kind = .densify ∧ (denseJob 0).phase = .active ∧ (denseJob 0).at_ = 0 ∧
    (densifying 0).lockedPa 0 1 (0 % 2 ^ 64) = none ∧ (densifying 64).lockedPa 0 1 (64 % 2 ^ 64) = some 64 ∧
    (densifying box1).lockedPa 0 1 (box1 % 2 ^ 64) = some 64 ∧
    boxBytes (descOf ((densifying 64).readMem (64 % 2 ^ 52) 64)) 64 = 0 ∧
    boxBytes (descOf ((densifying box1).readMem (64 % 2 ^ 52) 64)) box1 ≠ 0 := by decide

/-- A job of an engine that is active on die 0, with physical addresses. -/
def active (kind : JobKind) : Job := ⟨1, 0, kind, .active, 0, 0, 0, 2, 0, [], [], [], [], [0], 0, 0, none, [], 0⟩

/-- A routing job of one expert, one choice and one token, with its place on device 1, and dies that run it. -/
def cfg1 : Nat := 33 * 2 ^ 16 + 4 * 2 ^ 48 + 64 * 2 ^ 72 + 64 * 2 ^ 88 + 64 * 2 ^ 384 + 2 ^ 400 + 2 ^ 608
def place1 : Nat := 1 + 2 ^ 16 + 2 ^ 64
def rjob : RouteJob :=
  { job := 1, cfg := cfg1, card := 2 ^ 192, seq := 0, round := 0, started := true, records := [⟨0, 0, 0, 0, 0⟩], refused := []
    backups := [], reqs := [], closed := [], slots := [(0, ⟨.pending, 0, []⟩)], written := [], lastCw := 0, cwAt := 0, wdogFrom := none
    roundsOver := false, cnt := [], counts := [], place := [place1], group := [], gate := 0, odd := false, blind := false }
def routeOn (r : RouteJob) (p : List Permit) : State :=
  dies { Die.init with route := some r, jobs := [active .route], permits := p, cycle := 1 }
def lastThread : Nat := 2048 + 3 * 128 + 127
def bin1 (granted : Option Nat) : BinReq := ⟨0, 0, 1, granted, false, lastThread, false⟩

/-- RoundsOfChamois: a job to be scored, from its start and with its input there; the last thread of die 3; a request for bin 0, a grant of one row, no routing job. -/
theorem witness_rounds : (let s : State := { routeOn rjob [] with dies := Vector.replicate 4 { Die.init with jobs := [active .route], cycle := 1 } };
      s.routeStartDue 3 = true ∧ s.activeRoute 3 = some (active .route) ∧ s.poisonIn (active .route) = none ∧ (s.die 3).route = none) ∧
    ((routeOn { rjob with place := [] } []).routeStartDue 3 = true ∧
      (routeOn { rjob with place := [] } []).activeRoute 3 = some (active .route) ∧
      (routeOn { rjob with place := [] } []).poisonIn (active .route) = none) ∧
    (3 < 4 ∧ (routeOn { rjob with started := false } []).roundDue 3 = true ∧
      (routeOn { rjob with started := false } []).activeRoute 3 = some (active .route) ∧ 127 < 128 ∧
      (routeOn { rjob with started := false } []).chamoisReady lastThread = true) ∧
    (((routeOn rjob []).die (dieOf lastThread)).route = some rjob ∧ rjob.started = true ∧ bitsN (0x100000000#64).toNat 18 2 = rjob.round ∧
      rjob.closed.contains lastThread = false ∧ bitsN (0x100000000#64).toNat 0 10 = 0 ∧ bitsN (0x100000000#64).toNat 16 2 = 0 ∧
      0 < cfgNexp rjob.cfg ∧ 0 < placeNrep (rjob.place.getD 0 0) ∧ rjob.reqs.any (fun q => q.expert == 0 && q.rep == 0) = false) ∧
    (lastThread - 1 ∈ State.threadsOf (dieOf lastThread) ∧ rjob.closed.contains (lastThread - 1) = false) ∧
    (isThread lastThread = true ∧ [bin1 (some 1)].find? (fun q => q.thread == lastThread && q.granted.isSome && !q.read) = some (bin1 (some 1))) ∧
    (State.reset.die (dieOf lastThread)).route = none := by decide

/-- BinsAndPermits: a granted bin of device 1; no job; two bins of which one is granted; a complete bin at the start of tile memory. -/
def twoBins : RouteJob := { rjob with place := [place1, place1], reqs := [bin1 none], cfg := cfg1 + 2 ^ 21 }
def permit1 : Permit := { Permit.init 0 0 0 with grants := [(0, 0, 1)] }
theorem witness_bins : (let r := { rjob with reqs := [bin1 (some 1)] };
      (routeOn r []).activeRoute 0 = some (active .route) ∧ ((routeOn r []).die 0).route = some r ∧
      r.reqs.find? (fun q => q.expert == bitsN (0#64).toNat 0 10 && q.rep == bitsN (0#64).toNat 16 2) = some (bin1 (some 1)) ∧
      bitsN (0#64).toNat 18 2 = r.round ∧ (bin1 (some 1)).granted.isSome = true ∧ (bin1 (some 1)).emitted = false ∧ r.blind = false) ∧
    (let s := routeOn { rjob with cfg := cfg1 + 2 ^ 116 } [];
      (State.reset.die 3).route = none ∧ (State.reset.die 3).posts = [] ∧ (s.die 3).posts = [] ∧ cfgNrank (cfg1 + 2 ^ 116) + 1 = 2 ∧
      rjob.place ≠ [] ∧ cardMb rjob.card = 0 ∧ rjob.seq = 0 ∧ rjob.round = 0 ∧ ∃ k, k < 2 ∧ ∀ x ∈ [PostedReq.mk 0 0 0 0 0 0 1], x.rank ≠ k) ∧
    ((routeOn rjob []).die 3).route = some rjob ∧ cfgHintth rjob.cfg = 0 ∧
    (∀ k, k < cfgNrank rjob.cfg + 1 → ∃ x ∈ [PostedReq.mk 0 0 0 0 0 0 1], x.rank = k) ∧
    (twoBins.round = 0 ∧ State.allGranted twoBins = false ∧ State.allGranted { twoBins with reqs := [bin1 (some 1)] } = false ∧
      ∀ i, i < cardNtok twoBins.card → State.tokenDone twoBins i = false) := by
  refine ⟨by decide, by decide, by decide, by decide, by decide, ?_⟩
  decide +kernel
theorem witness_bin_rows : (let s := routeOn rjob [permit1];
      s.permit 0 0 0 = some permit1 ∧ permit1.written = false ∧ [(7, 9)] ≠ [] ∧
      [(7, 9)].length = (permit1.grants.filter (fun g => g.1 == 0 && g.2.1 == 0)).foldl (fun a g => a + g.2.2) 0 ∧
      permit1.here.contains (0, 0) = false ∧ cfgXrowb cfg1 = 64 ∧
      (binArea place1 0 64).2.1 + 8 * State.rowsBefore permit1 0 0 + 8 ≤ (binArea place1 0 64).2.2.1 ∧ State.rowsHere permit1 = false) ∧
    (let p := { permit1 with here := [(0, 0)] };
      (routeOn { rjob with roundsOver := true } [p]).permit 0 0 0 = some p ∧ p.written = false ∧ p.grants ≠ [] ∧ State.rowsHere p = true ∧
      State.placePolicy place1 = 0 ∧ (binArea place1 0 (cfgXrowb cfg1)).2.2.2 = true ∧
      p.grants.foldl (fun a g => a + g.2.2) 0 < 2 ^ 32 ∧ rjob.odd = false ∧ rjob.blind = false) := by decide

/-- CombineSlots: the last chunk of a slot, a chunk before the first, a slot that is not there, one dropped; a drop that its sender
waits for; a watchdog at its end, and none. -/
theorem witness_combine : (((routeOn rjob []).die 0).route = some rjob ∧ rjob.slots.find 0 = some ⟨.pending, 0, []⟩ ∧ (0 : Int) % 128 = 0 ∧
      (0 : Int).toNat / 128 < (cfgDout rjob.cfg + 127) / 128) ∧ (-1 : Int) < 0 ∧ (1 : Int) % 128 ≠ 0 ∧ rjob.slots.find 1 = none ∧
    ({ rjob with slots := [(0, ⟨.dropped, 0, []⟩)] }.slots.find 0 = some ⟨.dropped, 0, []⟩) ∧
    (cardMb rjob.card = 0 ∧ rjob.seq = 0) ∧
    (((on { fw with request := answer (.drops (0, 0) []) [] }).strand 0).request = answer (.drops (0, 0) []) []) ∧
    (routeOn { rjob with cfg := cfg1 + 2 ^ 448, wdogFrom := some 0 } []).wdogDue 0 = true ∧ (routeOn rjob []).wdogDue 0 = false := by decide

/-- A work entry of rank 0 of two, one chunk of 128 bytes at 0, two runs, with its trigger word at 192; and one of one rank. -/
def icard (ranks : Nat) : Nat := 2 ^ 64 + (ranks - 1) * 2 ^ 652 + 2 ^ 682 + 2 ^ 690 + 2 ^ 704 + 2 ^ 785 + 192 * 2 ^ 832
def ientry (ranks : Nat) (pc : Option Nat) : WorkEntry :=
  { card := icard ranks, job := 1, group := [0, 1], run := 0, fired := 0, pc, ctr := [0, 0, 0, 0], disarm := false, outstanding := []
    taken := [] }
def collective (prog : List Nat) (w : WorkEntry) (staged : List Chunk) : State :=
  dies { Die.init with islots := [(0, prog)], ientries := [(31, w)], jobs := [active .impala], staged := staged,
                         locks := [(0, ⟨0, 0, 128, [⟨0, 128⟩], 1⟩)] }
/-- A step: operation, the bit XOR, peer and reduction. -/
def istep (op x peer rop : Nat) : Nat := op * 2 ^ 124 + x * 2 ^ 123 + peer * 2 ^ 111 + rop * 2 ^ 94

/-- CollectiveRuns: the last entry; its trigger; a counter below its limit and at it; nothing outstanding and a chunk outstanding; a
run before the last and the last. -/
theorem witness_runs : (State.reset.ready.getD 9 0 = 0 ∧ ((collective [] (ientry 2 none) []).ready.getD 9 0).getLsbD (36 + 3 % 4) = true) ∧
    ((collective [] (ientry 2 none) []).wentry 3 31 = some (ientry 2 none) ∧
      (collective [] (ientry 2 none) []).wordFires 3 (ientry 2 none) = true) ∧
    ((collective [] { ientry 2 none with fired := 1 } []).runDue { ientry 2 none with fired := 1 } = true ∧
      (collective [] (ientry 2 none) []).runDue (ientry 2 none) = false) ∧
    ((collective [istep 6 0 0 0] (ientry 2 (some 0)) []).stepEvent 3 31 (ientry 2 (some 0)) = some (.impalaLoop 3 31) ∧
      wLcnt (ientry 2 (some 0)).card 0 ≤ 0 + 1) ∧ 0 + 1 < wLcnt ((ientry 2 (some 0)).card + 2 * 2 ^ 720) 0 ∧
    ((collective [istep 5 0 0 0] (ientry 2 (some 0)) []).stepEvent 3 31 (ientry 2 (some 0)) = some (.impalaWait 3 31) ∧
      (collective [istep 5 0 0 0] (ientry 2 (some 0)) []).jobOut 1 = false ∧ (ientry 2 (some 0)).outstanding = [] ∧
      (let w := { ientry 2 (some 0) with outstanding := [(0, 1, 0, false)] };
        (collective [istep 5 0 0 0] w []).stepEvent 3 31 w = some (.impalaWait 3 31) ∧ (¬ ∀ o ∈ w.outstanding, o.1 = w.run → o.2.2.2 = true) ∧
          w.outstanding = [] ++ (0, 1, 0, false) :: [])) ∧ (0 % 4096 = State.reset.devId ∧ 4095 % 4096 ≠ State.reset.devId) ∧
    ((collective [] (ientry 2 (some 0)) []).stepEvent 3 31 (ientry 2 (some 0)) = some (.impalaEnd 3 31) ∧
      (collective [] (ientry 2 (some 0)) []).jobOut 1 = false ∧ (collective [] (ientry 2 (some 0)) []).job 1 = some (active .impala) ∧
      (collective [] (ientry 2 (some 0)) []).jobStored 1 = [] ∧
      0 + 1 ≠ wRuns (icard 2) ∧ 1 + 1 = wRuns (icard 2)) := by decide

/-- The chunk of rank 1 that has arrived. -/
def chunk1 : Chunk := ⟨31, 0, 1, 0, 7⟩

set_option maxRecDepth 8000 in
/-- CollectiveTransfers: a peer of device 1, with room for one chunk and none, and none left; no chunk, one to store and one to
reduce; what is left of RRS to send; a copy onto itself. -/
theorem witness_transfers : (let s := collective [istep 1 0 1 0] (ientry 2 (some 0)) [];
      s.stepEvent 3 31 (ientry 2 (some 0)) = some (.impalaSend 3 31) ∧
      (State.stepPeers (ientry 2 (some 0)) (istep 1 0 1 0)).filter (fun p => !(ientry 2 (some 0)).taken.contains p) = [1] ∧
      (ientry 2 (some 0)).outstanding.length < wWin (icard 2) ∧ (ientry 2 (some 0)).group.getD 1 0 % 4096 ≠ s.devId ∧
      wWin (icard 2) ≤ [((0 : Nat), (1 : Nat), (0 : Nat), false)].length ∧
      s.remoteLines 3 (active .impala) 0 128 = [] ∧ s.lockedPa 3 1 0 = some 0 ∧ s.isRemote 0 = false ∧ s.poisoned 0 128 = false) ∧
    (State.stepPeers (ientry 1 (some 0)) (istep 1 1 1 0)).filter (fun p => !(ientry 1 (some 0)).taken.contains p) = [] ∧
    (let s := collective [istep 2 0 1 0] (ientry 2 (some 0)) [chunk1];
      s.stepEvent 3 31 (ientry 2 (some 0)) = some (.impalaRecv 3 31) ∧
      (State.stepPeers (ientry 2 (some 0)) (istep 2 0 1 0)).filter (fun p => !(ientry 2 (some 0)).taken.contains p) = [1] ∧
      s.waiting 3 31 (ientry 2 (some 0)) [1] 0 = some chunk1 ∧ stepRop (istep 2 0 1 0) = 0 ∧ stepRop (istep 2 0 1 1) ≠ 0 ∧
      (collective [istep 2 0 1 0] (ientry 2 (some 0)) []).waiting 3 31 (ientry 2 (some 0)) [1] 0 = none) ∧
    (let s := collective [istep 3 0 1 1] (ientry 2 (some 0)) [chunk1];
      s.stepEvent 3 31 (ientry 2 (some 0)) = some (.impalaRrs 3 31) ∧
      s.waiting 3 31 (ientry 2 (some 0)) (State.stepPeers (ientry 2 (some 0)) (istep 3 0 1 1)) 0 = some chunk1 ∧
      stepRop (istep 3 0 1 1) ≠ 0) ∧
    (let w := { ientry 2 (some 0) with taken := [1] };
      (State.stepPeers w (istep 3 0 1 1 + 2 ^ 99)).filter (fun p => !w.taken.contains p) = [] ∧ State.rrsPeer w (istep 3 0 1 1 + 2 ^ 99) = [1] ∧
      w.outstanding.length < wWin w.card) ∧
    (State.stepPeers (ientry 1 (some 0)) (istep 3 1 1 1) = [] ∧ State.rrsPeer (ientry 1 (some 0)) (istep 3 1 1 1 + 2 ^ 99) = []) ∧
    (collective [istep 4 0 0 0] (ientry 2 (some 0)) []).stepEvent 3 31 (ientry 2 (some 0)) = some (.impalaCopy 3 31) := by decide +kernel
theorem witness_chunk : State.chunkVa (ientry 2 (some 0)) 0 0 = .ok 0 := rfl

/-- A packet for strand 0 of core 0 with no image, save area at `save`, and a launch queue that holds it. -/
def pkt1 (save : Nat) : Nat :=
  1 + 2 ^ 672 + 2 ^ 680 + 2 ^ 688 + 2 ^ 704 + 2 ^ 768 + 2 ^ 800 + 2 ^ 832 + 2 ^ 864 + save * 2 ^ 1472
def launching (packets : List Nat) (tasks : List Task) (jobs : List Job) (c : Core) (x : Strand) : State :=
  { dies { Die.init with jobs := jobs, cycle := 1 } with
    lnq := [(0, { LaunchQueue.init with en := true, packets := packets })]
    tasks := tasks, cores := [(0, c)], strands := [(0, x)] }
def task1 (save : Nat) : Task := ⟨1, 0, pkt1 save, 1, false, false, false, false, [], none, false, [], [], none⟩
def waitingHead : State := launching [pkt1 0] [task1 0] [active .task] Core.init Strand.init

set_option maxRecDepth 8000 in
/-- LaunchQueues: room for one packet and for none; a queue not enabled; a packet in order, one of 0s, and one whose footprint block is
in the import window; a head that may start, one whose core is not ready, and one with a dictionary entry that is no bundle. -/
theorem witness_launch : (((launching (List.replicate 31 0) [] [] Core.init user).queue 0).en = true ∧
      ((launching (List.replicate 31 0) [] [] Core.init user).queue 0).packets.length < 32 ∧
      32 ≤ ((launching (List.replicate 32 0) [] [] Core.init user).queue 0).packets.length ∧ (State.reset.queue 63).en = false) ∧
    (let s := launching [pkt1 0] [] [] Core.init user;
      s.failedHead = none ∧ s.newHead = some (0, pkt1 0) ∧ s.pktFault 0 (pkt1 0) = none) ∧
    (let s := launching [0] [] [] Core.init user;
      s.failedHead = none ∧ s.newHead = some (0, 0) ∧ s.pktFault 0 0 = some (.bad 0x12 0)) ∧
    (waitingHead.failedHead = none ∧ waitingHead.newHead = none ∧ waitingHead.nextHead = some (task1 0) ∧
      (State.pktCores (pkt1 0)).all waitingHead.coreReady = true ∧
      waitingHead.launchLines (task1 0) = [] ∧ waitingHead.dictFault (task1 0) = none ∧ waitingHead.preloadBad (pkt1 0) = false) ∧
    (let s := { waitingHead with ready := State.reset.ready };
      s.failedHead = none ∧ s.newHead = none ∧ s.nextHead = some (task1 0) ∧ (State.pktCores (pkt1 0)).all s.coreReady = false) ∧
    State.reset.nextHead = none := by decide +kernel
/-- A footprint block in a page of the import window, and a dictionary entry past the end of the instruction store. -/
def farPage : TlbEntry := { page0 with type := 1, pa := importBase }
def pktFar : Nat := pkt1 0 + 2 ^ 1152 + 128 * 2 ^ 1408
def farHead : State := { launching [pktFar] [] [] Core.init user with dies := Vector.replicate 4 { Die.init with tlb := [farPage] } }
def pktBadDict : Nat := pkt1 0 + 2 ^ 608 + (2 ^ 15 - 1) * 2 ^ 576
def badHead : State := launching [pktBadDict] [{ task1 0 with pkt := pktBadDict }] [active .task] Core.init Strand.init
set_option maxRecDepth 8000 in
theorem witness_launch_more : (farHead.failedHead = none ∧ farHead.newHead = some (0, pktFar) ∧ farHead.pktFault 0 pktFar = some (.away (importBase + 128) 128)) ∧
    (badHead.nextHead = some { task1 0 with pkt := pktBadDict } ∧ badHead.failedHead = none ∧ badHead.newHead = none ∧
      (State.pktCores pktBadDict).all badHead.coreReady = true ∧ badHead.launchLines { task1 0 with pkt := pktBadDict } = [] ∧
      badHead.dictFault { task1 0 with pkt := pktBadDict } = some 0) := by decide +kernel

/-- Task 1 started, as it waits for core 0. -/
def started1 (save : Nat) : Task := { task1 save with started := true, pending := [0], deadline := some 1 }
def held1 : Core := { Core.init with task := some 1 }

set_option maxRecDepth 8000 in
/-- TaskEvents: a core to start; one whose strand has halted; a task with no core left; a head beside a task on its cores; a budget that
ends in this cycle, with a save area and without; a task saved on its one core. -/
theorem witness_tasks : (let s := launching [] [started1 0] [active .task] held1 Strand.init;
      s.task 1 = some (started1 0) ∧ (started1 0).leaving = false ∧ (started1 0).doomed = none ∧ 0 ∈ (started1 0).pending ∧
      (s.core 0).started = 0 ∧ (s.core 0).task = some 1 ∧ 0 ∈ maskStrands 0 (pktStrands (pkt1 0))) ∧
    (let s := launching [] [started1 0] [active .task] { held1 with started := 1 } { user with run := .halted };
      s.completionDue 0 = true ∧ s.coreQueues 0 = [] ∧ (s.core 0).task = some 1 ∧ (s.core 0).cw = none) ∧
    (let s := launching [] [{ started1 0 with pending := [] }] [active .task] Core.init Strand.init;
      s.taskDone { started1 0 with pending := [] } = true ∧ s.job 1 = some (active .task)) ∧
    (let s := launching [] [task1 0, { started1 0 with id := 2 }] [active .task] Core.init Strand.init;
      s.task 1 = some (task1 0) ∧ s.preloadable (task1 0) = true ∧ s.launchLines (task1 0) = [] ∧ s.dictFault (task1 0) = none) ∧
    (let t := { task1 0 with pkt := pktBadDict };
      let s := launching [] [t, { started1 0 with id := 2, pkt := pktBadDict }] [active .task] Core.init Strand.init;
      s.preloadable t = true ∧ s.launchLines t = [] ∧ s.dictFault t = some 0 ∧ s.taskDone t = false) ∧
    waitingHead.preloadable (task1 0) = false ∧
    ((launching [] [started1 64] [active .task] held1 user).overBudget (started1 64) = true ∧ pktSave (pkt1 64) ≠ 0 ∧
      (launching [] [started1 0] [active .task] held1 user).overBudget (started1 0) = true ∧ pktSave (pkt1 0) = 0) ∧
    (launching [] [{ started1 64 with leaving := true, saved := [(0, 1, 0)] }] [active .task] Core.init Strand.init).resumable
      { started1 64 with leaving := true, saved := [(0, 1, 0)] } = true := by decide +kernel

/-- A copy of 64 bytes from 0 to 128, its locks, and die 0 with the jobs given. -/
def copyJob (id : Nat) (phase : JobPhase) : Job :=
  { active .copy with id, phase, card := List.replicate 20 0 ++ [128, 64] }
def copying (jobs : List Job) : State :=
  dies { Die.init with jobs := jobs, cycle := 1, locks := [(0, ⟨0, 0, 64, [⟨0, 64⟩], 2⟩), (1, ⟨0, 128, 64, [⟨128, 64⟩], 2⟩)] }
/-- An entry of a commit buffer whose guard has resolved. -/
def entry1 (kind : Nat) (b : Bool) : Commit := ⟨0, 0, true, .dev, 0, 0, false, kind, 1 :: 7 :: [0], some b⟩
def committing (kind : Nat) (b : Bool) : State := { on { user with relSeq := 0 } with cores := [(0, { Core.init with commit := [entry1 kind b] })] }

/-- JobEvents: an engine that works and one that does not; a copy done in this cycle, one that has failed; entries of both kinds. -/
theorem witness_jobs : (((copying [copyJob 1 .active, copyJob 2 .waiting]).engineJob 0 0 .active).isSome = true ∧
      ((copying [copyJob 1 .active, copyJob 2 .waiting]).engineJob 0 0 .shadow).isNone = true ∧
      (copying [copyJob 1 .active, copyJob 2 .waiting]).nextJobOf 0 0 = some (copyJob 2 .waiting)) ∧
    (((copying [copyJob 2 .waiting]).engineJob 0 0 .active).isNone = true ∧ ((copying [copyJob 2 .waiting]).engineJob 0 0 .shadow).isNone = true ∧
      (copying [copyJob 2 .waiting]).nextJobOf 0 0 = some (copyJob 2 .waiting) ∧ (copyJob 2 .waiting).card.getD 21 0 = 64 ∧
      (copying [copyJob 2 .waiting]).copyOverlaps (copyJob 2 .waiting) = false ∧
      (copying [copyJob 2 .waiting]).lockedPa 0 2 ((copyJob 2 .waiting).card.getD 19 0) = some 0 ∧
      (copying [copyJob 2 .waiting]).lockedPa 0 2 ((copyJob 2 .waiting).card.getD 20 0) = some 128 ∧
      (copying [copyJob 2 .waiting]).isRemote 0 = false ∧ (copying [copyJob 2 .waiting]).isRemote 128 = false ∧
      (copying [copyJob 2 .waiting]).poisoned 0 64 = false ∧ (copying [copyJob 2 .waiting]).jobStored 2 = [] ∧
      (copying [copyJob 2 .waiting]).writeWaits 128 64 = false ∧ (copying [copyJob 2 .waiting]).heldStores = [] ∧
      regionOf 128 = .hbm) ∧
    ((copying [{ copyJob 1 .active with at_ := 1 }]).retireDue { copyJob 1 .active with at_ := 1 } = true ∧
      (copying [{ copyJob 1 .active with failed := some 7 }]).retireDue { copyJob 1 .active with failed := some 7 } = true ∧
      ((copying [copyJob 1 .active]).die 0).jobs.find? (fun j => j.id == 1) = some (copyJob 1 .active) ∧ (copyJob 1 .active).kind ≠ .task ∧
      (copying [copyJob 1 .active]).jobStored 1 = []) ∧
    ((copying [copyJob 1 .active]).engineDue 3 7 = false ∧
      (let j := { active .launch with card := List.replicate 33 0 };
        ((copying [j]).die 0).jobs.find? { copying [j] with lnq := [(0, { LaunchQueue.init with en := true })] }.appendDue = some j)) ∧
    (∀ kind ∈ [0, 1, 2], (entry1 kind true).card.head? = some 1 ∧ ((committing kind true).core 0).commit[0]? = some (entry1 kind true) ∧
      (committing kind true).commitGuard (entry1 kind true) = some true ∧ (committing kind true).commitTurn 0 0 (entry1 kind true) = true ∧
      ((committing kind false).core 0).commit[0]? = some (entry1 kind false) ∧
      (committing kind false).commitGuard (entry1 kind false) = some false) ∧
    (committing 0 true).commitGuard { entry1 0 true with settled := none, guardDue := 1 } = none ∧
    ({ committing 2 true with dies := Vector.replicate 4 { Die.init with jobs := [active .impala] } } : State).job 1 = some (active .impala) := by
  decide +kernel
theorem witness_copy_reach : (copying [copyJob 2 .waiting]).reachLocal .read 64 (0 % 2 ^ 52) = .ok (.mem 0) ∧
    (copying [copyJob 2 .waiting]).reachLocal .write 64 (128 % 2 ^ 52) = .ok (.mem 128) := ⟨rfl, rfl⟩

/-- ContextsAndInterrupts: a strand of a task that leaves, and one of none; one whose context is saved as zeros; a software interrupt; the timer at its
cycle and before it. -/
theorem witness_contexts : (let s := launching [] [{ started1 64 with leaving := true }] [active .task] { held1 with started := 1 } { user with stopAt := some 0 };
      s.preemptDue 0 = true ∧ s.leavingTask 0 = some { started1 64 with leaving := true }) ∧ (on user).preemptDue 0 = false ∧
    (let t := { started1 64 with saved := [(0, 1, 0)] };
      let s := launching [] [t] [active .task] { held1 with started := 1 } Strand.init;
      s.task 1 = some t ∧ s.restoreDue 0 t = true ∧ s.restoreFits 0 t = true ∧ t.id ≠ 0 ∧ bitN (fieldN (s.savedImage t 0) 6 1) 0 = false) ∧
    ((on { user with status := 16, ipend := 1, ienable := 1, stopAt := some 0 }).interruptDue 0 = true ∧
      (on { user with status := 16, ipend := 1, ienable := 1, stopAt := some 0 }).interruptOf 0 = some 0 ∧ user.priv ≠ 2) ∧
    (((on { user with tcmp := 0 }).strand 0).tcmp.toNat ≤ (on { user with tcmp := 0 }).cycleOf 0 ∧
      ((on { user with tcmp := 0 }).strand 0).ipend.getLsbD 1 = false ∧ (on { user with tcmp := 1 }).cycleOf 0 < (1#64).toNat) := by
  decide +kernel

/-- ElementsAndChannels: a gather element, a scatter element, and one that faults with 255 parked and with 256. -/
def elem1 (scatter : Bool) (cause : Nat) : Elem := { parkedElem with scatter, cause }
def pushed (e : Elem) (parked : Nat) : State :=
  { on { user with aq := [e] } with cores := [(0, { Core.init with fq := List.replicate parked parkedElem })]
                                    chans := [(3, { Chan.init with obs := [(2, 1, 0)] })] }
theorem witness_elements : (pushed (elem1 false 0) 0).elemDue 0 = some (elem1 false 0) ∧ (pushed (elem1 true 0) 0).elemDue 0 = some (elem1 true 0) ∧
    ((pushed (elem1 false 0x10) 255).elemDue 0 = some (elem1 false 0x10) ∧ ((pushed (elem1 false 0x10) 255).core 0).overflow = none ∧
      ((pushed (elem1 false 0x10) 255).core 0).fq.length < 256 ∧ 256 ≤ ((pushed (elem1 false 0x10) 256).core 0).fq.length) ∧
    ((pushed (elem1 false 0) 0).chan 3).obs.find? (fun o => o.1 == 2) = some (2, 1, 0) ∧ 0 ≤ ((pushed (elem1 false 0) 0).die 2).cycle := by
  decide +kernel

/-- A boot image of the least length; a start in progress, with and without memory. -/
def image128 : State := { State.reset with boot := ⟨0, 0, false, 1, [(0, 0x36), (1, 0x39), (2, 0x4B), (3, 0x4E), (4, 128)], 0⟩ }
theorem witness_start : (State.reset.boot.stage = 0 ∧ ({ State.reset with boot := ⟨0, 0, false, 1, [], 0⟩ } : State).imageFault = 0x02) ∧
    (({ State.reset with boot := ⟨0, 2, false, 3, [], 0⟩ } : State).boot.stage = 3 ∧ State.reset.noHbm = true ∧
      ({ State.reset with ready := Vector.replicate 15 0x10 } : State).noHbm = false ∧
      ({ State.reset with boot := ⟨0, 2, false, 3, [], 0⟩ } : State).boot.deadline ≤ State.reset.now) := by decide +kernel
/-- Whether the image is accepted rests on the signature alone (log 12). -/
theorem witness_image : Config.ed448Verify (readBytes image128.boot.image 8 114) (Config.shake256 0 0) = true → image128.imageFault = 0 := by
  intro h
  have e : image128.imageFault = if Config.ed448Verify (readBytes image128.boot.image 8 114) (Config.shake256 0 0) then 0 else 0x01 := rfl
  rw [e, if_pos h]

/-- HealthAndDebug: a strand that runs and one in DEBUG; the last bit of a word, of a stack and of a link, and one that has failed; a step of throttling at the end of its calm time. -/
theorem witness_health : ((on user).strand 0).run ≠ .off ∧ ((on { user with run := .debug }).strand 0).run = .debug ∧
    State.ownBit 14 31 = true ∧ (State.reset.lost.getD 14 0).getLsbD 31 = false ∧ State.linkBit 14 31 = false ∧ 14 < 15 ∧
    (State.stackBit 9 15 = true ∧ allUp.slicesReady 13 ((15 - 4) / 3) = true ∧ State.linkBit 9 31 = true ∧ allUp.routerReady ((31 - 16) / 4) = true) ∧
    ((allUp.loseBit 9 31).lost.getD 9 0).getLsbD 31 = true ∧
    63 < 64 ∧ (0 < ((dies { Die.init with dstep := 1 }).die 0).dstep ∧ ((dies { Die.init with dstep := 1 }).die 0).calm ≤ State.reset.now) := by
  decide

/-- StepKeepsMemoryForm: reset has the form. -/
theorem reset_inv : State.reset.Inv := by unfold State.Inv; decide

/-- DecodeOfEncode: a well-formed micro-op and a well-formed operation; DecodeOnlyAssigned: the bundle of no operation. -/
theorem witness_encode : ((Instr.mEnd).wf = true ∧ (Instr.mEnd).slot = .micro) ∧
    ((Instr.add .i32 true 63 63 (.imm 0x7FFF)).wf = true ∧ (Instr.add .i32 true 63 63 (.imm 0x7FFF)).slot ≠ .micro ∧
      (Instr.add .i32 true 63 63 (.imm 0x7FFF)).slot ≠ .event) ∧
    (decodeBundle 0).isSome = true := by decide

/-- ResultLands: a result that becomes visible in cycle 1. -/
def result1 : Result := ⟨.s 63, 7, 1, some 1, true, false, false, 0, false, 0, 0, false⟩
theorem witness_result : ({ user with flight := [result1] } : Strand).flight = [result1] ∧ result1.due = some 1 ∧ result1.flags = 0 ∧
    result1.fpctl = false := ⟨rfl, rfl, rfl, rfl⟩

/-- The literal bundle of one ADD, and a stream of one halfword that names dictionary entry 0, the empty bundle. -/
def addWord : Nat := fieldsWord 319 [(39, 0x01), (32, 3), (26, 3), (20, 4), (13, 5)]
def literal : State := State.reset.withFetchWord 384 addWord
def entry0 : State := { State.reset with strands := [(0, user)], cores := [(0, { Core.init with dictlen := 1, slen := 1, started := 1 })] }

/-- The device once its start has ended, with every strand off. -/
def idle : State := { State.reset with boot := ⟨0, 0, false, 4, [], 0⟩ }

set_option maxRecDepth 8000 in
/-- StepRunsInstruction: an event that waits and one that is due; a queued load; a micro-op; a literal bundle and a dictionary entry;
nothing to do. -/
theorem witness_step : (({ State.reset with inbox := [.bootGo] } : State).inbox = [.bootGo] ∧ State.reset.boot.min = false ∧
      State.minimalTakes .bootGo = true ∧ State.minimalTakes .dispatch = false ∧ (State.reset.failBoot 1 |>.failBoot 1 |>.failBoot 1).boot.min = true) ∧
    (State.reset.inbox = [] ∧ ({ State.reset with boot := ⟨0, 0, false, 3, [], 0⟩ } : State).due.isSome = true) ∧
    (let s := State.reset.withFetchWord 64 (fieldsWord 0 [(58, 0x01)]);
      s.inbox = [] ∧ s.due = none ∧ s.nextLoad = none ∧ s.nextUnit = some 0 ∧ (∃ r, (s.core 0).routine = some r ∧ r.ended = false ∧
        r.next ≤ (s.die (dieOfCore 0)).cycle ∧ r.word < (entryRange r.entry).2 ∧ (decodeMicro (s.mword 0 r.word)).isSome = true)) ∧
    (literal.inbox = [] ∧ literal.due = none ∧ literal.nextLoad = none ∧ literal.nextUnit = none ∧ literal.nextStrand = some 0 ∧
      literal.streamHalf 0 (literal.strand 0).pc.toNat = some 0xFFFF ∧ literal.literalAt 0 (literal.strand 0).pc.toNat = some addWord ∧
      (decodeBundle addWord).isSome = true) ∧
    (isThread 0 = false ∧ entry0.streamHalf 0 (entry0.strand 0).pc.toNat = some 0 ∧ 0 < entry0.dictLen 0 ∧
      (decodeBundle (entry0.dictEntry 0 0)).isSome = true) ∧
    (idle.inbox = [] ∧ idle.due = none ∧ idle.nextLoad = none ∧ idle.nextUnit = none ∧ idle.nextStrand = none) ∧
    (let s := { idle with strands := [(0, { fw with loadQ := [load1] })] }; s.inbox = [] ∧ s.due = none ∧ s.nextLoad = some 0) := by
  refine ⟨by decide +kernel, by decide +kernel, ⟨by decide +kernel, by decide +kernel, by decide +kernel, by decide +kernel, _, rfl, ?_⟩, by decide +kernel, by decide +kernel,
    by decide +kernel, by decide +kernel⟩
  decide +kernel
/-- The literal bundle is whole, no trap is taken before it, and its operation acts. -/
theorem witness_bundle : (match literal.attempt 0 with
      | (s, .ok (b, w, l)) => w && l.length == 1 && (match State.act l (s.startBundle b.stall.toNat) with | .next t => !s.walkWaits t | _ => false)
      | _ => false) = true ∧ literal.boundary 0 false = none ∧ literal.stops 0 = false ∧ (literal.strand 0).halting = false ∧
    literal.me.sbcheck.getLsbD 0 = false := by
  refine ⟨by decide +kernel, rfl, by decide +kernel, by decide +kernel, by decide +kernel⟩

/-! ### One step each, its result worked out by hand from the rule it cites -/

/-- The state after an instruction. -/
def after (i : Instr) (s : State) : State := match exec i s with
  | .next t => t
  | _ => s
/-- The values of the results an instruction puts in flight, and their latencies. -/
def results (i : Instr) (l : List (Nat × Nat)) : List (Nat × Option Nat) :=
  (after i (on (withS l fw))).me.flight.map (fun r => (r.val.toNat, r.due))

/-- R59, R334, R359, R405: 127 + 1 wraps to −128 and saturates at 127; −7 / 2 is −3 with the rest −1. -/
theorem test_integers : [results (.add .i8 false 1 2 (.reg 3)) [(2, 127), (3, 1)], results (.add .i8 true 1 2 (.reg 3)) [(2, 127), (3, 1)],
    results (.div .i32 1 2 (.reg 3)) [(2, 2 ^ 64 - 7), (3, 2)], results (.mod .i32 1 2 (.reg 3)) [(2, 2 ^ 64 - 7), (3, 2)]].map
      (fun l => l.map (·.1)) = [[2 ^ 64 - 128], [127], [2 ^ 64 - 3], [2 ^ 64 - 1]] := by decide +kernel

/-- R65, R364: 1 + 2^−24 is half way between two numbers, and goes to the even one, 1; upwards it goes to 1 + 2^−23. -/
theorem test_rounding : [results (.fadd .f32 .rne 1 2 3) [(2, 0x3F800000), (3, 0x33800000)],
    results (.fadd .f32 .rup 1 2 3) [(2, 0x3F800000), (3, 0x33800000)]].map (fun l => l.map (·.1)) = [[0x3F800000], [0x3F800001]] := by
  decide +kernel

/-- R335, R336: an atomic add of 5 to the word 250 at 0 writes 255 and answers 250. -/
theorem test_amo : (let t := after (.amo .n32 .add ⟨.relaxed, .core⟩ 1 ⟨0, 0⟩ 3) { on (withS [(3, 5)] fw) with mem := [(0, 250)] };
    (t.mem, t.me.flight.map (fun r => r.val.toNat))) = ([(0, 255)], [250]) := by decide +kernel

/-- R346: a branch of −1 from offset 0 goes to the last offset. -/
theorem test_branch : (after (.br 0x3FFFFF) (on user)).me.pc = 0x3FFFF := by decide +kernel

/-- R436, R279: SVC 5 of a user whose kernel handler is at 0x100 saves the next offset and goes there in the kernel. -/
theorem test_svc : (let t := (after (.svc 5) (on { user with pc := 7, tvec := 0x100 })).me;
    (t.cause, t.tval, t.epc, t.pc, t.status)) = (0x32, 5, 7, 0x100, 0x401) := by decide +kernel

/-- R116, R121: a store waits in the gated buffer and memory is as before. -/
theorem test_store : (let t := after (.st .n16 ⟨.relaxed, .core⟩ ⟨0, 0⟩ 3) (on (withS [(3, 0x1234)] fw));
    (t.mem, t.me.gated.map (fun p => (p.pa, p.size, p.data)))) = ([], [(0, 2, 0x1234)]) := by decide +kernel
/-- R116: once it drains, its bytes are in memory, the low one first. -/
theorem test_drain : (after (.storeDrain 0) (on { fw with storeQ := [{ lastStore with data := 0x1234 }] })).mem =
    [(0xBFFFFFFFF8, 0x34), (0xBFFFFFFFF9, 0x12)] := by decide +kernel

/-- R303, R41: a step runs the literal bundle of an ADD, and the next bundle is 25 halfwords on. -/
theorem test_step : (match step literal with
    | .next t => ((t.strand 0).pc.toNat, (t.strand 0).flight.length)
    | _ => (0, 0)) = (25, 1) := by decide +kernel

end Sys2Proof.Tests
end

namespace Sys2Proof.Laws

/-! ### The one encoding of a word (R4, R306) -/

/-- The first field is the most significant. -/
theorem unpackFields_cons (w : Nat) (ws : List Nat) (n : Nat) :
    unpackFields (w :: ws) n = bitsN n ws.sum w :: unpackFields ws n := rfl
theorem unpackFields_nil (n : Nat) : unpackFields [] n = [] := rfl

/-- A word is the packing of its own fields. -/
theorem packFields_unpackFields (ws : List Nat) (n : Nat) : packFields ws (unpackFields ws n) = n % 2 ^ ws.sum := by
  induction ws with
  | nil => simp [packFields, Nat.mod_one]
  | cons w ws ih =>
    simp only [packFields, unpackFields, ih, Nat.mod_mod, List.sum_cons]
    rw [Nat.pow_add, Nat.mul_comm (2 ^ w), Nat.mod_mul, Nat.mul_comm (2 ^ ws.sum), Nat.add_comm]

/-- What a slot's word decodes to fits the slot, and the word is its encoding. -/
theorem decodeSlot_some {L : SlotLayout} {w : Nat} {o : Option SlotOp} (hw : w < 2 ^ L.widths.sum)
    (h : decodeSlot L w = some o) : slotOk L.kind o = true ∧ encodeSlot L o = w := by
  unfold decodeSlot at h
  split at h
  case h_2 => cases h
  case h_1 op sq fst lst rest hu =>
    split at h
    · split at h
      · next h0 => cases h; exact ⟨rfl, h0.symm⟩
      · cases h
    · split at h
      case h_2 => cases h
      case h_1 i hi =>
        simp only at h
        split at h
        · next hc =>
          obtain ⟨hfit, hfields⟩ := Bool.and_eq_true_iff.1 hc
          cases h
          refine ⟨hfit, ?_⟩
          rw [encodeSlot, eq_of_beq hfields, ← hu, packFields_unpackFields, Nat.mod_eq_of_lt hw]
        · cases h

/-- A slot's word is a bit field of the bundle. -/
theorem decodeSlot_bitsN {L : SlotLayout} {w lo len : Nat} {o : Option SlotOp} (h : decodeSlot L (bitsN w lo len) = some o)
    (hL : L.widths.sum = len) : slotOk L.kind o = true ∧ encodeSlot L o = bitsN w lo len :=
  decodeSlot_some (hL ▸ Nat.mod_lt _ (Nat.two_pow_pos _)) h

/-- A bit is 1 exactly when it is read as set. -/
theorem b2n_beq_one {n : Nat} (h : n < 2) : b2n (n == 1) = n := by
  obtain rfl | rfl : n = 0 ∨ n = 1 := by omega
  all_goals rfl

theorem b2n_bitN (w i : Nat) : b2n (bitN w i) = bitsN w i 1 := b2n_beq_one (Nat.mod_lt _ Nat.two_pos)

/-- A guard's five bits are its encoding. -/
theorem encodeGuard_decodeGuard {n : Nat} (h : n < 2 ^ 5) : encodeGuard (decodeGuard n) = n := by
  simp only [encodeGuard, decodeGuard, BitVec.toNat_ofNat, b2n_beq_one (Nat.mod_lt n Nat.two_pos)]
  omega

theorem encodeGuard_decodeGuard_bitsN (w lo : Nat) : encodeGuard (decodeGuard (bitsN w lo 5)) = bitsN w lo 5 :=
  encodeGuard_decodeGuard (Nat.mod_lt _ (Nat.two_pow_pos _))

/-- The parts of a bundle's word are its fields (R302). -/
theorem unpackFields_bundleWidths (w : Nat) : unpackFields bundleWidths w =
    [bitsN w 380 4, bitsN w 379 1, bitsN w 378 1, bitsN w 368 10, bitsN w 363 5, bitsN w 319 44, bitsN w 272 47,
     bitsN w 267 5, bitsN w 208 59, bitsN w 203 5, bitsN w 160 43, bitsN w 155 5, bitsN w 128 27, bitsN w 123 5,
     bitsN w 80 43, bitsN w 75 5, bitsN w 40 35, bitsN w 35 5, bitsN w 0 35] := by
  simp only [bundleWidths, unpackFields_cons, unpackFields_nil, List.sum_cons, List.sum_nil, Nat.reduceAdd]

/-- A bundle that a word decodes to has an encoding, and it is the word. -/
theorem decodeBundle_some {w : Nat} {b : Bundle} (hw : w < 2 ^ 384) (h : decodeBundle w = some b) :
    b.wf = true ∧ encodeBundle b = w := by
  simp only [decodeBundle, Option.bind_eq_bind, Option.bind_eq_some_iff, Option.ite_none_right_eq_some] at h
  obtain ⟨sop, hs, vop, hv, lop, hl, mop, hm, xop, hx, qop, hq, b0op, hb0, b1op, hb1, hc, hb⟩ := h
  obtain ⟨hres, hpair⟩ := Bool.and_eq_true_iff.1 hc
  obtain ⟨oks, es⟩ := decodeSlot_bitsN hs rfl
  obtain ⟨okv, ev⟩ := decodeSlot_bitsN hv rfl
  obtain ⟨okl, el⟩ := decodeSlot_bitsN hl rfl
  obtain ⟨okm, em⟩ := decodeSlot_bitsN hm rfl
  obtain ⟨okx, ex⟩ := decodeSlot_bitsN hx rfl
  obtain ⟨okq, eqq⟩ := decodeSlot_bitsN hq rfl
  obtain ⟨okb0, eb0⟩ := decodeSlot_bitsN hb0 rfl
  obtain ⟨okb1, eb1⟩ := decodeSlot_bitsN hb1 rfl
  cases hb
  constructor
  · simp only [Bundle.wf, Bool.and_eq_true]
    exact ⟨⟨⟨⟨⟨⟨⟨⟨oks, okv⟩, okl⟩, okm⟩, okx⟩, okq⟩, okb0⟩, okb1⟩, hpair⟩
  · have hstall : (BitVec.ofNat 4 (bitsN w 380 4)).toNat = bitsN w 380 4 := Nat.mod_eq_of_lt (Nat.mod_lt _ (by decide))
    have hzero : bitsN w 368 10 = 0 := of_decide_eq_true hres
    calc encodeBundle _ = packFields bundleWidths (unpackFields bundleWidths w) := by
          simp only [encodeBundle, unpackFields_bundleWidths, hstall, hzero, b2n_bitN, encodeGuard_decodeGuard_bitsN,
            es, ev, el, em, ex, eqq, eb0, eb1]
      _ = w := by rw [packFields_unpackFields, show bundleWidths.sum = 384 from rfl, Nat.mod_eq_of_lt hw]

/-- A word names nothing but micro-ops. -/
theorem readMicro_slot {w : Nat} {i : Instr} (h : readMicro w = some i) : i.slot = .micro := by
  unfold readMicro at h
  repeat' split at h
  all_goals cases h
  all_goals rfl

/-- A micro-op that a word decodes to is well-formed, and the word is its encoding. -/
theorem decodeMicro_some {w : Nat} {i : Instr} (h : decodeMicro w = some i) :
    i.wf = true ∧ i.slot = .micro ∧ encodeMicro i = w := by
  unfold decodeMicro at h
  split at h
  case h_2 => cases h
  case h_1 j hr =>
    split at h
    · next hc =>
      obtain ⟨hwf, he⟩ := Bool.and_eq_true_iff.1 hc
      cases h
      exact ⟨hwf, readMicro_slot hr, eq_of_beq he⟩
    · cases h

/-- Settles O57: the decoder accepts a slot's word, or a micro-op's, only where writing the fields of what it has read gives
the word back, and the parts of a bundle's word are all of its bits. -/
theorem decodeOnlyAssigned : Obligations.DecodeOnlyAssigned :=
  ⟨fun _ _ hw h => decodeBundle_some hw h, fun _ _ _ h => decodeMicro_some h⟩

end Sys2Proof.Laws

namespace Sys2Proof.Machine

/-! ### No instruction and no step stops (R277, R6, log 5) -/

/-- The outcome is a next state. -/
def Answers (o : Host.Outcome State Fault Refusal) : Prop := ∃ t, o = .next t

theorem answers_next (t : State) : Answers (.next t) := ⟨t, rfl⟩

/-- Every arm of the dispatch answers a next state: 172 arms are one as they stand, and the branches of the others each end
in one. -/
theorem exec_answers (i : Instr) (s : State) : Answers (exec i s) := by
  cases i
  case max | min | cvti | quantumExpiry | holdTimeout | holdEnd | waitConditionMet | elementFault | gatherDataArrival
    | scatterElementComplete | bmembWrite | completionObserved | bkpt | leaseWaitEnd | leaseExpiry | directoryRead
    | directoryWrite | directoryWriteback | directoryCleanEviction | bankSwitchDone | biasFlipToHost | biasFlipToDevice
    | biasFlipDone | l2ModeSwitchDone | softError | pageLockTake | pageLockRelease | ackReceived | responseReceived
    | ackTimeout | rnrRetry | circuitCellArrival | cellSend | packetRoute | linkCellReceive | linkReplay | linkRetrain
    | keySwitch | slotTableSwap | stripCellSend | spaceCellSend | routineStart | bldComplete | routineComplete
    | powerTokenArrival | tokenHoldExpiry | mpwrRequestExpiry | oryxAnswer | densifyJob | routingJobStart
    | chamoisRoundStart | chreqRequest | chgrantRead | chemit | permitGrant | binWrite | combineSend | combineDrop
    | combineWatchdog | impalaRunStart | wordTrigger | chunkArrival | dispatch | startMessage | coreCompletion | taskRetire
    | preload | budgetExpiry | taskResume | jobStart | jobRetire | jobFailure | commitEntryCommit | commitEntryDiscard
    | preemption | contextRestore | interrupt | timerInterrupt | debugHaltRequest | debugResume | selfTestPass
    | unitFailure | droopRecovery | machineCheck | bootGo | bootOk | bootFail | bootTimeout =>
    simp only [exec, execMax, execMin, execCvti, execQuantumExpiry, execHoldTimeout, execHoldEnd, execWaitConditionMet,
      execElementFault, execGatherDataArrival, execScatterElementComplete, execBmembWrite, execCompletionObserved, execBkpt,
      execLeaseWaitEnd, execLeaseExpiry, execDirectoryRead, execDirectoryWrite, execDirectoryWriteback,
      execDirectoryCleanEviction, execBankSwitchDone, execBiasFlipToHost, execBiasFlipToDevice, execBiasFlipDone,
      execL2ModeSwitchDone, execSoftError, execPageLockTake, execPageLockRelease, execAckReceived, execResponseReceived,
      execAckTimeout, execRnrRetry, execCircuitCellArrival, execCellSend, execPacketRoute, execLinkCellReceive,
      execLinkReplay, execLinkRetrain, execKeySwitch, execSlotTableSwap, execStripCellSend, execSpaceCellSend,
      execRoutineStart, execBldComplete, execRoutineComplete, execPowerTokenArrival, execTokenHoldExpiry,
      execMpwrRequestExpiry, execOryxAnswer, execDensifyJob, execRoutingJobStart, execChamoisRoundStart, execChreqRequest,
      execChgrantRead, execChemit, execPermitGrant, execBinWrite, execCombineSend, execCombineDrop, execCombineWatchdog,
      execImpalaRunStart, execWordTrigger, execChunkArrival, execDispatch, execStartMessage, execCoreCompletion,
      execTaskRetire, execPreload, execBudgetExpiry, execTaskResume, execJobStart, execJobRetire, execJobFailure,
      execCommitEntryCommit, execCommitEntryDiscard, execPreemption, execContextRestore, execInterrupt, execTimerInterrupt,
      execDebugHaltRequest, execDebugResume, execSelfTestPass, execUnitFailure, execDroopRecovery, execMachineCheck,
      execBootGo, execBootOk, execBootFail, execBootTimeout]
    repeat' split
    all_goals exact answers_next _
  all_goals exact answers_next _

/-- The operations of a bundle answer a next state, one after the other. -/
theorem act_answers (l : List (Guard × SlotOp)) (s : State) : Answers (State.act l s) := by
  induction l generalizing s with
  | nil => exact answers_next s
  | cons p rest ih =>
    simp only [State.act]
    obtain ⟨t, ht⟩ := exec_answers p.2.op { s with issue := { s.issue with
      checked := true, sq := p.2.sq && squashable p.2.op && !s.popsFifo p.2.op
      spec := specGuard s.me s.issue.cycle p.1 p.2 } }
    rw [ht]
    exact ih t

theorem issueBundle_answers (s : State) (sid : Nat) : Answers (s.issueBundle sid) := by
  unfold State.issueBundle
  extract_lets a o traps
  clear_value traps o a
  split
  · exact answers_next _
  · split
    · exact answers_next _
    · split
      · exact answers_next _
      · next b whole ops =>
        split
        · obtain ⟨t, ht⟩ := act_answers ops a.1
          rw [ht]
          exact answers_next _
        · obtain ⟨t, ht⟩ := act_answers ops (a.1.startBundle b.stall.toNat)
          rw [ht]
          exact answers_next _

theorem issueOn_answers (s : State) (sid : Nat) : Answers (s.issueOn sid) := by
  unfold State.issueOn
  split
  · exact answers_next _
  · exact issueBundle_answers s sid

theorem microOn_answers (s : State) (core : Nat) : Answers (s.microOn core) := by
  unfold State.microOn
  split
  · exact answers_next _
  · exact answers_next _
  · exact exec_answers _ _

theorem inboxOn_answers (s : State) (i : Instr) : Answers (s.inboxOn i) := by
  unfold State.inboxOn
  split
  · exact answers_next _
  · exact exec_answers i s

theorem eventOn_answers (s : State) (i : Instr) : Answers (s.eventOn i) := by
  obtain ⟨t, ht⟩ := exec_answers i s
  simp only [State.eventOn, ht]
  exact answers_next _

/-- Whatever a step takes, an event, a load, a micro-op, a bundle or time, it answers a next state. -/
theorem step_answers (s : State) : Answers (step s) := by
  unfold step
  split
  · exact inboxOn_answers _ _
  · split
    · exact eventOn_answers _ _
    · split
      · exact answers_next _
      · split
        · exact microOn_answers _ _
        · split
          · exact issueOn_answers _ _
          · exact answers_next _

/-- Settles O51: no arm of the dispatch faults or is refused, and a step only runs arms of the dispatch. -/
theorem nothingStops : Obligations.NothingStops := ⟨exec_answers, step_answers⟩

end Sys2Proof.Machine

namespace Sys2Proof.Machine

/-! ### The strand in issue after a change of it -/

namespace State

theorem me_updMe (s : State) (f : Strand → Strand) : (s.updMe f).me = f s.me := me_setStrand_cur _ _
theorem issue_updMe (s : State) (f : Strand → Strand) : (s.updMe f).issue = s.issue := rfl

/-- A scalar result is the last in flight. -/
theorem flight_putS (s : State) (d : BitVec 6) (v : Word) (lat : Nat) :
    ∃ r, (s.putS d v lat).me.flight = s.me.flight ++ [r] ∧ r.dst = .s d ∧ r.val = v.setWidth 2048 ∧
      r.due = some (s.issue.cycle + lat) := by
  rw [putS, emit, me_updMe]
  exact ⟨_, rfl, rfl, rfl, rfl⟩

end State

/-! ### One bit of a word -/

/-- Setting bit i of a word leaves its other bits. -/
theorem getLsbD_setField_one (w : Word) {i : Nat} (hi : i < 64) (k : Nat) :
    (setField w i 1 1).getLsbD k = (w.getLsbD k || decide (k = i)) := by
  have hbit : BitVec.ofNat 64 (1 * 2 ^ i) = BitVec.twoPow 64 i := BitVec.eq_of_toNat_eq (by simp)
  have hset : setField w i 1 1 = (w &&& ~~~BitVec.twoPow 64 i) ||| BitVec.twoPow 64 i := by rw [← hbit]; rfl
  rw [hset, BitVec.getLsbD_or, BitVec.getLsbD_and, BitVec.getLsbD_not, BitVec.getLsbD_twoPow]
  by_cases hk : k = i
  · subst hk; simp [hi]
  · have hw : 64 ≤ k → w.getLsbD k = false := fun h => BitVec.getLsbD_of_ge w k h
    by_cases hlt : k < 64
    · simp [hk, Ne.symm hk, hlt]
    · simp [hk, Ne.symm hk, hw (by omega)]

/-! ### A taken branch (R46, R48, R51) -/

/-- The strand with the levels left that do not hold an offset (R51). -/
def Strand.leaveTo (st : Strand) (off : Nat) : Strand := { st with regs := st.regs.leaveLoops off }

/-- The strand after a branch of bundle `seq` in cycle t: squashed, and the pc at the target (R46). -/
def Strand.jump (st : Strand) (t seq : Nat) (tgt : BitVec 18) : Strand := { st.squash t seq with pc := tgt }

namespace State

/-- The state whose bundle has taken a branch. -/
def withTarget (s : State) (tgt : BitVec 18) : State := { s with issue := { s.issue with target := some tgt } }

theorem me_withTarget (s : State) (tgt : BitVec 18) : (s.withTarget tgt).me = s.me := rfl

/-- The state in which a branch to an offset has collided with another (R48): only the levels that do not hold the offset are
left, and STATUS.BRCOLL is set. -/
def collided (s : State) (tgt : BitVec 18) : State := (s.updMe (·.leaveTo tgt.toNat)).setBrcoll

theorem me_collided (s : State) (tgt : BitVec 18) :
    (s.collided tgt).me = { s.me.leaveTo tgt.toNat with status := setField s.me.status 11 1 1 } := by
  rw [collided, setBrcoll, me_updMe, me_updMe]
  rfl

/-- The first taken branch of a bundle squashes, and the pc is its target. -/
theorem takeBranch_of_none {s : State} (tgt : BitVec 18) (h : s.issue.target = none) :
    s.takeBranch tgt =
      ((s.updMe (·.leaveTo tgt.toNat)).updMe (·.jump s.issue.cycle s.issue.seq tgt)).withTarget tgt := by
  simp only [takeBranch, issue_updMe, h]
  rfl

/-- A second branch to the same target only leaves levels. -/
theorem takeBranch_same {s : State} {tgt : BitVec 18} (h : s.issue.target = some tgt) :
    s.takeBranch tgt = s.updMe (·.leaveTo tgt.toNat) := by
  simp only [takeBranch, issue_updMe, h, if_true]
  rfl

/-- A second branch to another target collides, and with the trap of collisions enabled raises cause 0x06. -/
theorem takeBranch_other {s : State} {t tgt : BitVec 18} (h : s.issue.target = some t) (hne : tgt ≠ t) :
    s.takeBranch tgt = if s.issue.bctrap then (s.collided tgt).afterBundle (Trap.of 0x06 0) else s.collided tgt := by
  simp only [takeBranch, issue_updMe, h, if_neg (Ne.symm hne)]
  rfl

theorem me_takeBranch_of_none {s : State} (tgt : BitVec 18) (h : s.issue.target = none) :
    (s.takeBranch tgt).me = (s.me.leaveTo tgt.toNat).jump s.issue.cycle s.issue.seq tgt := by
  rw [takeBranch_of_none tgt h, me_withTarget, me_updMe, me_updMe]

/-- A branch leaves memory alone. -/
theorem mem_takeBranch (s : State) (tgt : BitVec 18) : (s.takeBranch tgt).mem = s.mem := by
  cases h : s.issue.target with
  | none => rw [takeBranch_of_none tgt h]; rfl
  | some t =>
    by_cases hne : tgt = t
    · subst hne; rw [takeBranch_same h]; rfl
    · rw [takeBranch_other h hne]
      split
      · exact mem_afterBundle _ _
      · rfl

/-- The first taken branch of a bundle moves the pc to its target, and leaves levels. -/
theorem takeBranch_goes {s : State} (tgt : BitVec 18) (h : s.issue.target = none) :
    (s.takeBranch tgt).me.pc = tgt ∧ (s.takeBranch tgt).issue.target = some tgt ∧
      (s.takeBranch tgt).me.regs = s.me.regs.leaveLoops tgt.toNat ∧ (s.takeBranch tgt).mem = s.mem ∧
      (s.takeBranch tgt).me.status = s.me.status := by
  rw [me_takeBranch_of_none tgt h]
  refine ⟨rfl, ?_, rfl, mem_takeBranch s tgt, rfl⟩
  rw [takeBranch_of_none tgt h]
  rfl

end State

/-- CALL that stands links the offset after its bundle (R348). -/
theorem exec_call_of_stands {s : State} {off : BitVec 22} (sd : BitVec 6) (h : s.branchStands (s.relTarget off) = true) :
    exec (.call sd off) s =
      .next ((s.takeBranch (s.relTarget off)).putS sd (BitVec.ofNat 64 (s.issue.off.toNat + s.issue.len)) 1) :=
  congrArg Host.Outcome.next (if_pos h)

/-- CALL beside a branch elsewhere links nothing (R48). -/
theorem exec_call_of_not_stands {s : State} {off : BitVec 22} (sd : BitVec 6)
    (h : s.branchStands (s.relTarget off) = false) : exec (.call sd off) s = .next (s.takeBranch (s.relTarget off)) :=
  congrArg Host.Outcome.next (if_neg (by rw [h]; exact Bool.false_ne_true))

/-- The branches of a bundle that has taken none. -/
theorem branchesJump : BranchesJump := by
  intro off sa sd s h rel abs goes
  refine ⟨⟨_, rfl, State.takeBranch_goes rel h, ?_⟩, ⟨_, rfl, State.takeBranch_goes abs h⟩,
    ⟨_, rfl, State.takeBranch_goes abs h⟩, ?_⟩
  · exact congrArg Strand.flight (State.me_takeBranch_of_none rel h)
  · have hstands : s.branchStands (s.relTarget off) = true := by simp only [State.branchStands, h]
    refine ⟨_, exec_call_of_stands sd hstands, ?_⟩
    obtain ⟨hpc, htgt, hregs, hmem, hstatus⟩ := State.takeBranch_goes (s.relTarget off) h
    have hcycle : (s.takeBranch (s.relTarget off)).issue.cycle = s.issue.cycle := by
      rw [State.takeBranch_of_none _ h]; rfl
    obtain ⟨lmem, lregs, -, lpc, lstatus, -, -⟩ := State.lands_frame
      (State.putS_lands (s.takeBranch (s.relTarget off)) sd (BitVec.ofNat 64 (s.issue.off.toNat + s.issue.len)) 1)
    obtain ⟨r, hfl, hdst, hval, hdue⟩ := State.flight_putS (s.takeBranch (s.relTarget off)) sd
      (BitVec.ofNat 64 (s.issue.off.toNat + s.issue.len)) 1
    refine ⟨⟨lpc.trans hpc, htgt, lregs.trans hregs, lmem.trans hmem, lstatus.trans hstatus⟩, r, ?_, hdst, hval, ?_⟩
    · rw [hfl]; exact List.mem_append_right _ (List.mem_singleton_self r)
    · rw [hdue, hcycle]

/-- The state whose bundle has noted an After trap -/
theorem State.afterBundle_first {s : State} (t : Trap) (hc : s.issue.checked = true) (ha : s.issue.after = none) :
    s.afterBundle t = { s with issue := { s.issue with after := some t } } := by
  simp [State.afterBundle, hc, ha]

/-- A branch beside a branch to another target does what any branch does there, and CALL links nothing. -/
theorem exec_branch_other {i : Instr} {s : State} {t tgt : BitVec 18} (hi : BranchesTo s i tgt)
    (h : s.issue.target = some t) (hne : tgt ≠ t) : exec i s = .next (s.takeBranch tgt) := by
  have hstands : s.branchStands tgt = false := by simp [State.branchStands, h, Ne.symm hne]
  rcases hi with ⟨off, rfl | ⟨sd, rfl⟩, rfl⟩ | ⟨sa, rfl | rfl, rfl⟩
  · rfl
  · exact exec_call_of_not_stands sd hstands
  · rfl
  · rfl

/-- A branch beside a branch to the same target: CALL links as it does alone. -/
theorem exec_branch_same {i : Instr} {s : State} {tgt : BitVec 18} (hi : BranchesTo s i tgt)
    (h : s.issue.target = some tgt) : exec i s = .next (s.takeBranch tgt) ∨
      ∃ sd off link, i = .call sd off ∧ exec i s = .next ((s.takeBranch tgt).putS sd link 1) := by
  have hstands : s.branchStands tgt = true := by simp [State.branchStands, h]
  rcases hi with ⟨off, rfl | ⟨sd, rfl⟩, rfl⟩ | ⟨sa, rfl | rfl, rfl⟩
  · exact .inl rfl
  · exact .inr ⟨sd, off, _, rfl, exec_call_of_stands sd hstands⟩
  · exact .inl rfl
  · exact .inl rfl

/-- Two branches of a bundle. -/
theorem branchCollision : BranchCollision := by
  intro i t tgt s hi h kept collides
  have hcol : ∀ u : State, u.me = (s.collided tgt).me → u.issue.target = some t → u.mem = s.mem → collides u := by
    intro u hme htgt hmem
    have hstatus : ∀ k, u.me.status.getLsbD k = (s.me.status.getLsbD k || decide (k = 11)) := fun k => by
      rw [hme, State.me_collided]
      exact getLsbD_setField_one _ (by decide) k
    refine ⟨⟨?_, htgt, hmem⟩, ?_, (hstatus 11).trans (Bool.or_true _), fun k hk => ?_⟩
    · rw [hme, State.me_collided]; rfl
    · rw [hme, State.me_collided]; rfl
    · rw [hstatus k, decide_eq_false hk, Bool.or_false]
  refine ⟨fun hne hb => ?_, fun hne hb hc ha => ?_, fun he => ?_⟩
  · refine ⟨s.collided tgt, ?_, hcol _ rfl h rfl⟩
    rw [exec_branch_other hi h hne, State.takeBranch_other h hne, hb]
    rfl
  · refine ⟨(s.collided tgt).afterBundle (Trap.of 0x06 0), ?_, ?_⟩
    · rw [exec_branch_other hi h hne, State.takeBranch_other h hne, if_pos hb]
    · rw [State.afterBundle_first (s := s.collided tgt) _ hc ha]
      exact ⟨hcol _ rfl h rfl, rfl⟩
  · subst he
    have hme : (s.takeBranch tgt).me = s.me.leaveTo tgt.toNat := by rw [State.takeBranch_same h, State.me_updMe]
    have hpc : (s.takeBranch tgt).me.pc = s.me.pc := by rw [hme]; rfl
    have hstatus : (s.takeBranch tgt).me.status = s.me.status := by rw [hme]; rfl
    have htgt : (s.takeBranch tgt).issue.target = some tgt := by rw [State.takeBranch_same h]; exact h
    have hmem := State.mem_takeBranch s tgt
    rcases exec_branch_same hi h with he | ⟨sd, off, link, rfl, he⟩
    · exact ⟨_, he, ⟨hpc, htgt, hmem⟩, hstatus, fun _ => by rw [hme]; rfl⟩
    · obtain ⟨lmem, -, -, lpc, lstatus, -, -⟩ := State.lands_frame (State.putS_lands (s.takeBranch tgt) sd link 1)
      exact ⟨_, he, ⟨lpc.trans hpc, htgt, lmem.trans hmem⟩, lstatus.trans hstatus, fun hn => absurd rfl (hn sd off)⟩

/-! ### Loop levels (R49 to R51) -/

/-- Reading a vector in its bounds. -/
theorem vector_getD_eq {α : Type} {n : Nat} (v : Vector α n) (d : α) {i : Nat} (h : i < n) : v.getD i d = v[i] := by
  rw [Vector.getD, Array.getD, dif_pos (by simpa using h)]
  rfl

theorem loop_setLoop_same (r : Regs) {l : Nat} (x : Loop) (h : l < 6) : (r.setLoop l x).loop l = x := by
  simp [Regs.loop, Regs.setLoop, vector_getD_eq _ _ h]

theorem loop_closeFrom (r : Regs) (l : Nat) {m : Nat} (h : m < 6) :
    (r.closeFrom l).loop m = if l ≤ m then { r.loop m with active := false } else r.loop m := by
  rw [Regs.loop, Regs.closeFrom, vector_getD_eq _ _ h, Vector.getElem_ofFn]

/-- Leaving levels from one on opens none. -/
theorem closeFrom_active_false {r : Regs} (l : Nat) {m : Nat} (h : m < 6) (hm : (r.loop m).active = false) :
    ((r.closeFrom l).loop m).active = false := by
  rw [loop_closeFrom r l h]
  split
  · rfl
  · exact hm

/-- A taken branch opens no level. -/
theorem leaveLoops_active_false {r : Regs} (off : Nat) {m : Nat} (h : m < 6) (hm : (r.loop m).active = false) :
    ((r.leaveLoops off).loop m).active = false := by
  unfold Regs.leaveLoops
  split
  · exact closeFrom_active_false _ h hm
  · exact hm

/-- The registers with a level opened for a body (R49). -/
def Regs.openLoop (r : Regs) (l beg fin : Nat) : Regs :=
  let q := r.setLoop l { r.loop l with beg := BitVec.ofNat 32 beg, fin := BitVec.ofNat 32 fin, active := true }
  { q with k := q.k.setIfInBounds l 0 }

theorem loop_openLoop (r : Regs) {l : Nat} (beg fin : Nat) (h : l < 6) : (r.openLoop l beg fin).loop l =
    { r.loop l with beg := BitVec.ofNat 32 beg, fin := BitVec.ofNat 32 fin, active := true } :=
  loop_setLoop_same r _ h

theorem rk_openLoop (r : Regs) {l : BitVec 3} (beg fin : Nat) (h : l.toNat < 6) : (r.openLoop l.toNat beg fin).rk l = 0 := by
  simp [Regs.openLoop, Regs.rk, vector_getD_eq _ _ h]

/-! ### Traps leave the loop levels alone -/

/-- The same strand issues, and every strand's loop levels are as before. -/
def SameLoops (s u : State) : Prop := u.cur = s.cur ∧ ∀ i, (u.strand i).regs.loops = (s.strand i).regs.loops

namespace SameLoops

theorem refl (s : State) : SameLoops s s := ⟨rfl, fun _ => rfl⟩

theorem trans {s t u : State} (h : SameLoops s t) (h' : SameLoops t u) : SameLoops s u :=
  ⟨h'.1.trans h.1, fun i => (h'.2 i).trans (h.2 i)⟩

theorem foldl {α : Type} {f : State → α → State} (h : ∀ s x, SameLoops s (f s x)) (l : List α) (s : State) :
    SameLoops s (l.foldl f s) := by
  induction l generalizing s with
  | nil => exact refl s
  | cons x l ih => exact (h s x).trans (ih (f s x))

theorem updCore (s : State) (n : Nat) (f : Core → Core) : SameLoops s (s.updCore n f) := refl s

theorem withTasks (s : State) (l : List Task) : SameLoops s { s with tasks := l } := refl s

theorem updDie (s : State) (d : Nat) (f : Die → Die) : SameLoops s (s.updDie d f) := refl s

/-- A change of one strand that leaves its levels. -/
theorem updStrand (s : State) (i : Nat) {f : Strand → Strand} (h : ∀ st, (f st).regs.loops = st.regs.loops) :
    SameLoops s (s.updStrand i f) := by
  refine ⟨rfl, fun j => ?_⟩
  by_cases hj : j = i
  · subst hj
    rw [State.updStrand_eq, State.strand_setStrand_same, h]
  · rw [State.updStrand_eq, State.strand_setStrand_ne _ _ hj]

/-- The levels of the strand in issue. -/
theorem me {s u : State} (h : SameLoops s u) (m : Nat) : u.me.regs.loop m = s.me.regs.loop m := by
  simp only [State.me, Regs.loop, h.1, h.2]

end SameLoops

theorem loops_write (r : Regs) (d : RegName) (v m : VWord) : (r.write d v m).loops = r.loops := by
  cases d
  case s | g =>
    simp only [Regs.write]
    repeat' split
    all_goals rfl
  all_goals rfl

theorem loops_land (st : Strand) (x : Result) : (st.land x).regs.loops = st.regs.loops := by
  simp only [Strand.land, Strand.write]
  split
  · rfl
  · exact loops_write _ _ _ _

/-- Results that are written leave the levels alone: none has a level as its destination. -/
theorem loops_settle (st : Strand) (t : Nat) : (st.settle t).regs.loops = st.regs.loops := by
  have h : ∀ (l : List Result) (st : Strand), (l.foldl Strand.land st).regs.loops = st.regs.loops := by
    intro l
    induction l with
    | nil => exact fun _ => rfl
    | cons x l ih => exact fun st => (ih _).trans (loops_land st x)
  exact h _ _

namespace State

theorem sameLoops_letGoLq (s : State) (c q : Nat) : SameLoops s (s.letGoLq c q) := by
  simp only [letGoLq]
  repeat' split
  all_goals exact .refl s

theorem sameLoops_closeLq (s : State) (c q : Nat) : SameLoops s (s.closeLq c q) := by
  simp only [closeLq]
  split
  · exact .refl s
  · exact sameLoops_letGoLq s c q

theorem sameLoops_closeSaved (s : State) (t c : Nat) : SameLoops s (s.closeSaved t c) := by
  simp only [closeSaved]
  refine SameLoops.trans ?_ (.updCore _ _ _)
  refine SameLoops.foldl (fun s q => ?_) _ s
  split
  · exact sameLoops_letGoLq s c q
  · exact .refl s

theorem sameLoops_stopCores (s : State) (l : List Nat) (v : Nat) : SameLoops s (s.stopCores l v) := by
  refine SameLoops.foldl (fun s c => ?_) l s
  refine SameLoops.trans ?_ (SameLoops.foldl (fun s q => sameLoops_closeLq s c q) _ _)
  refine SameLoops.trans ?_ (.updCore _ _ _)
  refine SameLoops.foldl (fun s i => ?_) _ s
  exact SameLoops.updStrand s i (fun _ => rfl)

theorem sameLoops_doomTask (s : State) (t : Task) (v : Nat) : SameLoops s (s.doomTask t v) := by
  unfold doomTask
  refine SameLoops.trans ?_ (.withTasks _ _)
  refine SameLoops.trans ?_ (SameLoops.foldl (fun s c => sameLoops_closeSaved s t.id c) _ _)
  exact sameLoops_stopCores s _ v

theorem sameLoops_stopTask (s : State) (c : Nat) (t : Trap) : SameLoops s (s.stopTask c t) := by
  simp only [stopTask]
  split
  · exact sameLoops_doomTask _ _ _
  · exact sameLoops_stopCores _ _ _

theorem sameLoops_stopDebug (s : State) (i : Nat) : SameLoops s (s.stopDebug i) := by
  have hguards : SameLoops s (s.resolveGuards i) := by
    simp only [resolveGuards]
    split <;> exact .refl s
  have hnow : SameLoops s (s.settleNow i) := hguards.trans (SameLoops.updStrand _ i (fun st => loops_settle st _))
  refine hnow.trans (SameLoops.updStrand _ i (fun st => ?_))
  split <;> rfl

theorem sameLoops_enterDebug (s : State) (i : Nat) : SameLoops s (s.enterDebug i) := by
  simp only [enterDebug]
  split
  · exact sameLoops_stopDebug s i
  · exact SameLoops.foldl sameLoops_stopDebug _ s

theorem sameLoops_dropPreloads (s : State) (c code : Nat) : SameLoops s (s.dropPreloads c code) := by
  simp only [dropPreloads]
  repeat' split
  all_goals exact .refl s

/-- Taking a trap leaves the levels of every strand (R279, R280, R240). -/
theorem sameLoops_takeTrap (s : State) (i : Nat) (t : Trap) (e : BitVec 18) : SameLoops s (s.takeTrap i t e) := by
  simp only [takeTrap]
  split
  · refine SameLoops.trans ?_ (.updDie _ _ _)
    exact SameLoops.updStrand s i (fun _ => rfl)
  · split
    · simp only [doubleTrap]
      split
      · exact sameLoops_enterDebug s i
      · exact sameLoops_stopTask s _ t
    · refine SameLoops.trans ?_ (sameLoops_dropPreloads _ _ _)
      exact SameLoops.updStrand s i (fun _ => rfl)

theorem sameLoops_afterBundle (s : State) (t : Trap) : SameLoops s (s.afterBundle t) := by
  simp only [afterBundle]
  repeat' split
  · exact .refl s
  · exact .refl s
  · refine SameLoops.trans ?_ (sameLoops_takeTrap _ _ _ _)
    exact SameLoops.updStrand s s.cur (fun _ => rfl)

/-- A branch, one that collides too, opens no level. -/
theorem takeBranch_active_false {s : State} (tgt : BitVec 18) {m : Nat} (hm : m < 6)
    (h : (s.me.regs.loop m).active = false) : ((s.takeBranch tgt).me.regs.loop m).active = false := by
  have hleave : ((s.me.leaveTo tgt.toNat).regs.loop m).active = false := leaveLoops_active_false _ hm h
  cases ht : s.issue.target with
  | none => rw [me_takeBranch_of_none tgt ht]; exact hleave
  | some t =>
    by_cases hne : tgt = t
    · subst hne; rw [takeBranch_same ht, me_updMe]; exact hleave
    · have hcol : ((s.collided tgt).me.regs.loop m).active = false := by rw [me_collided]; exact hleave
      rw [takeBranch_other ht hne]
      split
      · rw [(sameLoops_afterBundle _ _).me m]; exact hcol
      · exact hcol

/-- An operation outside the probing pass that meets no obstacle is free. -/
theorem free_of_none {s : State} {o : State → Option Obstacle} (ho : o s = none) (hp : s.issue.probe = false) : s.Free o :=
  ⟨ho, .inr hp⟩

end State

/-- LPSET of an inactive level meets nothing (R381). -/
theorem lpset_free {l : BitVec 3} {s : State} (h : (s.me.regs.loop l.toNat).active = false) (hp : s.issue.probe = false) :
    s.Free (lpsetObs l) :=
  State.free_of_none (by rw [lpsetObs, h]; rfl) hp

theorem exec_lpsetCnt {l : BitVec 3} (sr : BitVec 6) {s : State} (h : s.Free (lpsetObs l)) : exec (.lpsetCnt l sr) s =
    .next (s.updMe (fun st => { st with regs := st.regs.setLoop l.toNat { st.regs.loop l.toNat with
      cnt := (st.regs.rs sr).setWidth 32, strides := Vector.replicate 16 0 } })) :=
  congrArg Host.Outcome.next (State.gate_of_free _ h)

theorem exec_lpsetStr {l : BitVec 3} (ar : BitVec 4) (sr : BitVec 6) {s : State} (h : s.Free (lpsetObs l)) :
    exec (.lpsetStr l ar sr) s =
      .next (s.updMe (fun st => { st with regs := st.regs.setLoop l.toNat { st.regs.loop l.toNat with
        strides := (st.regs.loop l.toNat).strides.set ar.toNat ((st.regs.rs sr).setWidth 32) ar.isLt } })) :=
  congrArg Host.Outcome.next (State.gate_of_free _ h)

/-- LOOP with a count opens its level (R49). -/
theorem exec_loop_open {l : BitVec 3} {off : BitVec 22} {s : State} (h : s.Free (loopObs l off))
    (hc : (s.me.regs.loop l.toNat).cnt ≠ 0) : exec (.loop l off) s =
      .next (s.updMe (fun st => { st with
        regs := (st.regs.openLoop l.toNat (s.issue.off.toNat + s.issue.len) (s.issue.off.toNat + off.toNat)) })) :=
  (congrArg Host.Outcome.next (State.gate_of_free _ h)).trans (congrArg Host.Outcome.next (if_neg hc))

/-- LOOP with the count 0 goes past its end, unless a branch of the bundle is taken (R49). -/
theorem exec_loop_skip {l : BitVec 3} {off : BitVec 22} {s : State} (h : s.Free (loopObs l off))
    (hc : (s.me.regs.loop l.toNat).cnt = 0) : exec (.loop l off) s =
      .next (if s.issue.target.isSome then s else s.updMe (fun st => { st with
        pc := BitVec.ofNat 18 (s.issue.off.toNat + off.toNat + s.bundleLen s.cur (s.issue.off.toNat + off.toNat)) })) :=
  (congrArg Host.Outcome.next (State.gate_of_free _ h)).trans (congrArg Host.Outcome.next (if_pos hc))

/-- LBREAK of an active level leaves it and those inside it, and branches past its end (R51). -/
theorem exec_lbreak {l : BitVec 3} {s : State} (h : (s.me.regs.loop l.toNat).active = true) (hp : s.issue.probe = false) :
    exec (.lbreak l) s = .next ((s.updMe (fun st => { st with regs := st.regs.closeFrom l.toNat })).takeBranch
      (BitVec.ofNat 18 ((s.me.regs.loop l.toNat).fin.toNat + s.bundleLen s.cur (s.me.regs.loop l.toNat).fin.toNat))) :=
  congrArg Host.Outcome.next (State.gate_of_free _ (State.free_of_none (if_pos h) hp))

/-- LPSET, LOOP and LBREAK. -/
theorem loopLevels : LoopLevels := by
  intro l ar sr off s hl hp
  dsimp only
  refine ⟨fun hx => ?_, fun hx => ?_, fun ho hc => ?_, fun ho hc ht => ?_, fun ho hc ht => ?_, fun hx => ?_⟩
  · refine ⟨_, exec_lpsetCnt sr (lpset_free hx hp), ?_⟩
    show _ ∧ _
    rw [State.me_updMe, loop_setLoop_same _ _ hl]
    refine ⟨rfl, fun i hi => ?_, rfl, rfl⟩
    rw [vector_getD_eq _ _ hi, Vector.getElem_replicate]
  · refine ⟨_, exec_lpsetStr ar sr (lpset_free hx hp), ?_⟩
    show _ ∧ _
    rw [State.me_updMe, loop_setLoop_same _ _ hl]
    refine ⟨?_, rfl, fun i hi hne => ?_⟩
    · rw [vector_getD_eq _ _ ar.isLt, Vector.getElem_set_self]
    · rw [vector_getD_eq _ _ hi, vector_getD_eq _ _ hi, Vector.getElem_set_ne _ _ (Ne.symm hne)]
  · refine ⟨_, exec_loop_open (State.free_of_none ho hp) hc, ?_⟩
    show _ ∧ _
    rw [State.me_updMe, loop_openLoop _ _ _ hl]
    exact ⟨rfl, rk_openLoop _ _ _ hl, rfl, rfl⟩
  · exact ⟨_, exec_loop_skip (State.free_of_none ho hp) hc, if_neg (by rw [ht]; exact Bool.false_ne_true)⟩
  · exact ⟨_, exec_loop_skip (State.free_of_none ho hp) hc, if_pos (Option.isSome_iff_ne_none.2 ht)⟩
  · refine ⟨_, exec_lbreak hx hp, fun m hlm hm => State.takeBranch_active_false _ hm ?_, State.mem_takeBranch _ _,
      fun ht => ?_⟩
    · rw [State.me_updMe, loop_closeFrom _ _ hm, if_pos hlm]
    · exact (State.takeBranch_goes (s := s.updMe _) _ ht).1

/-- Settles O22: what a taken branch does is said once, for the first branch of a bundle and for a second one to the same
target and to another; the trap of a collision opens no loop level. -/
theorem branches : Obligations.Branches := ⟨branchesJump, branchCollision, loopLevels⟩

end Sys2Proof.Machine

namespace Sys2Proof.Machine

/-! ### Bits of the readiness words (R298) -/

/-- One bit of the readiness words, or of the words beside them. -/
def bitAt (v : Vector Word 15) (word bit : Nat) : Bool := (v.getD word 0).getLsbD bit

/-- The words with one bit of one of them replaced. -/
def putBit (v : Vector Word 15) (word bit : Nat) (x : Bool) : Vector Word 15 :=
  v.setIfInBounds word (setField (v.getD word 0) bit 1 (b2n x))

/-- A bit of a word after one has been set or cleared. -/
theorem getLsbD_setField_b2n (w : Word) (i k : Nat) (x : Bool) :
    (setField w i 1 (b2n x)).getLsbD k = if k = i ∧ i < 64 then x else w.getLsbD k := by
  have hmask : BitVec.ofNat 64 ((2 ^ 1 - 1) * 2 ^ i) = BitVec.twoPow 64 i := BitVec.eq_of_toNat_eq (by simp)
  have hval : BitVec.ofNat 64 (b2n x % 2 ^ 1 * 2 ^ i) = if x then BitVec.twoPow 64 i else 0#64 := by
    cases x
    · exact congrArg (BitVec.ofNat 64) (Nat.zero_mul _)
    · exact hmask
  rw [setField, hmask, hval, BitVec.getLsbD_or, BitVec.getLsbD_and, BitVec.getLsbD_not, BitVec.getLsbD_twoPow]
  have hwide : 64 ≤ k → w.getLsbD k = false := fun h => BitVec.getLsbD_of_ge w k h
  by_cases hlt : k < 64
  · by_cases hk : k = i
    · subst hk
      cases x <;> simp [hlt]
    · cases x <;> simp [hk, Ne.symm hk, hlt]
  · rw [hwide (by omega), if_neg (c := k = i ∧ i < 64) (by omega)]
    cases x
    · simp [hlt]
    · simp [hlt]
      omega

theorem vector_getD_setIfInBounds {α : Type} {n : Nat} (v : Vector α n) (i j : Nat) (x d : α) :
    (v.setIfInBounds i x).getD j d = if i = j ∧ j < n then x else v.getD j d := by
  by_cases hj : j < n
  · rw [vector_getD_eq _ _ hj, vector_getD_eq _ _ hj, Vector.getElem_setIfInBounds hj]
    simp [hj]
  · rw [if_neg (fun h => hj h.2)]
    simp [Vector.getD, Array.getD, hj]

/-- Replacing a bit leaves every other word. -/
theorem getD_putBit_ne (v : Vector Word 15) {word w : Nat} (bit : Nat) (x : Bool) (h : w ≠ word) :
    (putBit v word bit x).getD w 0 = v.getD w 0 := by
  rw [putBit, vector_getD_setIfInBounds, if_neg (fun hc => h hc.1.symm)]

/-- A bit after one has been replaced. -/
theorem bitAt_putBit (v : Vector Word 15) (word bit w b : Nat) (x : Bool) : bitAt (putBit v word bit x) w b =
    if w = word ∧ b = bit ∧ word < 15 ∧ bit < 64 then x else bitAt v w b := by
  rw [bitAt, putBit, vector_getD_setIfInBounds]
  by_cases hw : word = w ∧ w < 15
  · obtain ⟨rfl, hlt⟩ := hw
    rw [if_pos ⟨rfl, hlt⟩, getLsbD_setField_b2n]
    exact ite_congr (propext (by omega)) (fun _ => rfl) (fun _ => rfl)
  · rw [if_neg hw]
    exact (if_neg (by omega)).symm

theorem bitAt_putBit_same (v : Vector Word 15) {word bit : Nat} (x : Bool) (hw : word < 15) (hb : bit < 64) :
    bitAt (putBit v word bit x) word bit = x := by
  rw [bitAt_putBit, if_pos ⟨rfl, rfl, hw, hb⟩]

/-- Replacing a bit leaves those that are not it. -/
theorem bitAt_putBit_ne (v : Vector Word 15) {word bit w b : Nat} (x : Bool) (h : w ≠ word ∨ b ≠ bit) :
    bitAt (putBit v word bit x) w b = bitAt v w b := by
  rw [bitAt_putBit, if_neg (fun hc => h.elim (fun hw => hw hc.1) (fun hb => hb hc.2.1))]

/-- A bit that holds a value still does after that value is put anywhere. -/
theorem bitAt_putBit_of_eq {v : Vector Word 15} (word bit : Nat) {w b : Nat} {x : Bool} (h : bitAt v w b = x) :
    bitAt (putBit v word bit x) w b = x := by
  rw [bitAt_putBit]
  split
  · rfl
  · exact h

namespace State

/-- The bits that a self-test sets are bits of the fifteen words. -/
theorem ownBit_lt {word bit : Nat} (h : ownBit word bit = true) : word < 15 ∧ bit < 64 := by
  simp [ownBit] at h
  omega

/-- Of word 9, a function's own bits lie outside those that group several units. -/
theorem ownBit_nine {bit : Nat} (h : ownBit 9 bit = true) : bit < 40 ∨ 52 ≤ bit := by
  simp [ownBit] at h
  omega

/-- The bits that rest on other units: stacks and links. -/
theorem restsBit_iff {word bit : Nat} : (stackBit word bit || linkBit word bit) = true ↔ word = 9 ∧ 4 ≤ bit ∧ bit < 32 := by
  simp [stackBit, linkBit]
  omega

/-- The state with other readiness words. -/
def withReady (s : State) (r : Vector Word 15) : State := { s with ready := r }

theorem setReady_withReady (s : State) (r : Vector Word 15) (word bit : Nat) (x : Bool) :
    (s.withReady r).setReady word bit x = s.withReady (putBit r word bit x) := rfl

/-! ### Bits that rest on other units (R298, R299) -/

/-- Whether a function may be used rests on no bit of word 9. -/
theorem usable_withReady (s : State) {r : Vector Word 15} (h : ∀ w, w ≠ 9 → r.getD w 0 = s.ready.getD w 0) (word bit : Nat) :
    (s.withReady r).usable word bit = s.usable word bit := by
  have hready : (s.withReady r).ready = r := rfl
  have hslices : ∀ d, (s.withReady r).slicesReady 13 d = s.slicesReady 13 d := fun d => by
    simp only [slicesReady, hready, h 13 (by decide), h (13 + 1) (by decide)]
  have hrouter : ∀ d, (s.withReady r).routerReady d = s.routerReady d := fun d => by
    simp only [routerReady, hready, h 12 (by decide)]
  simp only [usable, hslices, hrouter]
  rfl

/-- A function that has failed may not be used. -/
theorem usable_of_lost {s : State} {word bit : Nat} (h : bitAt s.lost word bit = true) : s.usable word bit = false := by
  have hlost : (s.lost.getD word 0).getLsbD bit = true := h
  rw [usable, hlost, Bool.not_true, Bool.and_false, Bool.false_and]

/-- The first n bits from bit 4 of word 9 set as their functions may be used. -/
theorem foldl_usable (s : State) (n : Nat) (hn : n ≤ 60) : ∃ r,
    (List.range n).foldl (fun s i => s.setReady 9 (4 + i) (s.usable 9 (4 + i))) s = s.withReady r ∧
      (∀ w, w ≠ 9 → r.getD w 0 = s.ready.getD w 0) ∧
      ∀ b, bitAt r 9 b = if 4 ≤ b ∧ b < 4 + n then s.usable 9 b else bitAt s.ready 9 b := by
  induction n with
  | zero => exact ⟨s.ready, rfl, fun _ _ => rfl, fun b => (if_neg (by omega)).symm⟩
  | succ n ih =>
    obtain ⟨r, he, hw, hb⟩ := ih (by omega)
    refine ⟨putBit r 9 (4 + n) (s.usable 9 (4 + n)), ?_, fun w h => ?_, fun b => ?_⟩
    · rw [List.range_succ, List.foldl_append, he, List.foldl_cons, List.foldl_nil, usable_withReady s hw, setReady_withReady]
    · rw [getD_putBit_ne _ _ _ h, hw w h]
    · by_cases h : b = 4 + n
      · subst h
        rw [bitAt_putBit_same _ _ (by decide) (by omega), if_pos (by omega)]
      · rw [bitAt_putBit_ne _ _ (.inr h), hb b]
        exact ite_congr (propext (by omega)) (fun _ => rfl) (fun _ => rfl)

/-- From s to u only bits 40 to 51 of word 9 change: those that group several units of a die. -/
def OnlyGroups (s u : State) : Prop :=
  ∃ r, u = s.withReady r ∧ ∀ w b, w ≠ 9 ∨ b < 40 ∨ 52 ≤ b → bitAt r w b = bitAt s.ready w b

theorem OnlyGroups.setReady {s u : State} {bit : Nat} (h : OnlyGroups s u) (hlo : 40 ≤ bit) (hhi : bit < 52) (x : Bool) :
    OnlyGroups s (u.setReady 9 bit x) := by
  obtain ⟨r, rfl, hr⟩ := h
  refine ⟨putBit r 9 bit x, rfl, fun w b hb => ?_⟩
  rw [bitAt_putBit_ne _ _ (by omega), hr w b hb]

/-- The bits that group several units set as those units are. -/
theorem onlyGroups_foldl (s : State) : OnlyGroups s ((List.range 4).foldl (fun s d =>
    ((s.setReady 9 (40 + d) (s.allReady 12 (32 + 4 * d) 4)).setReady 9 (44 + d) (s.allReady 10 (16 * d) 16)).setReady 9
      (48 + d) (s.slicesReady 11 d)) s) := by
  refine List.foldlRecOn _ _ ⟨s.ready, rfl, fun _ _ _ => rfl⟩ (fun u h d hd => ?_)
  have hd4 := List.mem_range.1 hd
  exact ((h.setReady (by omega) (by omega) _).setReady (by omega) (by omega) _).setReady (by omega) (by omega) _

/-- What the bits are once those that rest on other units follow them: a stack's and a link's as it may be used, any other
function's own bit as before. -/
theorem groupReady_spec (s : State) : ∃ r, s.groupReady = s.withReady r ∧ ∀ word bit, ownBit word bit = true →
    bitAt r word bit = if stackBit word bit || linkBit word bit then s.usable word bit else bitAt s.ready word bit := by
  obtain ⟨r, he, hwords, hbits⟩ := foldl_usable s 28 (by decide)
  obtain ⟨r', he', hown⟩ := onlyGroups_foldl (s.withReady r)
  refine ⟨r', ?_, fun word bit h => ?_⟩
  · rw [groupReady, he, he']
    rfl
  · by_cases hw : word = 9
    · subst hw
      rw [hown 9 bit (.inr (ownBit_nine h))]
      exact (hbits bit).trans (ite_congr (propext (by rw [restsBit_iff]; omega)) (fun _ => rfl) (fun _ => rfl))
    · rw [hown word bit (.inl hw), if_neg (fun hc => hw (restsBit_iff.1 hc).1)]
      exact congrArg (BitVec.getLsbD · bit) (hwords word hw)

end State

/-! ### A self-test passed (R298, R299) -/

namespace State

/-- The state that has noted that a function has passed its self-test. -/
def notePass (s : State) (word bit : Nat) : State := { s with passed := putBit s.passed word bit true }

/-- A function that has passed may be used unless it has failed since, a stack with its slices and a link with its router. -/
theorem usable_notePass (s : State) {word bit : Nat} (h : ownBit word bit = true) :
    (s.notePass word bit).usable word bit = (!bitAt s.lost word bit &&
      (if stackBit word bit then s.slicesReady 13 ((bit - 4) / 3)
       else if linkBit word bit then s.routerReady ((bit - 16) / 4)
       else true)) := by
  have hpassed : ((s.notePass word bit).passed.getD word 0).getLsbD bit = true :=
    bitAt_putBit_same s.passed true (ownBit_lt h).1 (ownBit_lt h).2
  rw [usable, hpassed, Bool.true_and]
  rfl

end State

/-- What a passed self-test does: the function's bit is set as it may be used, and the bits that rest on others follow. -/
theorem exec_selfTestPass {word bit : Nat} (s : State) (h : State.ownBit word bit = true) : ∃ r,
    exec (.selfTestPass word bit) s = .next ((s.notePass word bit).withReady r) ∧
      bitAt r word bit = (s.notePass word bit).usable word bit := by
  obtain ⟨r, he, hr⟩ :=
    ((s.notePass word bit).setReady word bit ((s.notePass word bit).usable word bit)).groupReady_spec
  refine ⟨r, ?_, (hr word bit h).trans ?_⟩
  · have hexec : exec (.selfTestPass word bit) s =
        .next ((s.notePass word bit).setReady word bit ((s.notePass word bit).usable word bit)).groupReady :=
      if_neg (by rw [h]; exact Bool.false_ne_true)
    rw [hexec, he]
    rfl
  · split
    · next hrests =>
      obtain ⟨rfl, -, -⟩ := State.restsBit_iff.1 hrests
      exact State.usable_withReady _ (fun w hw => getD_putBit_ne _ _ _ hw) _ _
    · exact bitAt_putBit_same _ _ (State.ownBit_lt h).1 (State.ownBit_lt h).2

/-! ### A unit that has failed (R14, R298, R299) -/

namespace State

/-- From s to u units only fail: a bit that is 0 stays 0, a failure and a message sent stay, memory and the strands are left. -/
structure Fails (s u : State) : Prop where
  ready : ∀ w b, bitAt s.ready w b = false → bitAt u.ready w b = false
  lost : ∀ w b, bitAt s.lost w b = true → bitAt u.lost w b = true
  sent : ∀ m ∈ s.outbox, m ∈ u.outbox
  mem : u.mem = s.mem
  strands : u.strands = s.strands

theorem Fails.refl (s : State) : Fails s s := ⟨fun _ _ h => h, fun _ _ h => h, fun _ h => h, rfl, rfl⟩

theorem Fails.trans {s t u : State} (h : Fails s t) (h' : Fails t u) : Fails s u :=
  ⟨fun w b hb => h'.ready w b (h.ready w b hb), fun w b hb => h'.lost w b (h.lost w b hb), fun m hm => h'.sent m (h.sent m hm),
    h'.mem.trans h.mem, h'.strands.trans h.strands⟩

/-- A bit that falls changes the readiness words, the words of lost bits and the messages sent alone. -/
theorem fall_eq (s : State) (word bit : Nat) : s.fall word bit = { s with
    ready := putBit s.ready word bit false
    lost := putBit s.lost word bit true
    outbox := s.outbox ++ if bitAt s.ready word bit then [.msix 69] else [] } := by
  have hsent : s.fall word bit = if bitAt s.ready word bit then (s.loseBit word bit).send (.msix 69) else s.loseBit word bit :=
    rfl
  rw [hsent]
  split
  · rfl
  · rw [List.append_nil]
    rfl

theorem fails_fall (s : State) (word bit : Nat) : Fails s (s.fall word bit) := by
  rw [fall_eq]
  exact ⟨fun _ _ h => bitAt_putBit_of_eq word bit h, fun _ _ h => bitAt_putBit_of_eq word bit h,
    fun _ h => List.mem_append_left _ h, rfl, rfl⟩

theorem fails_foldl_fall {f : Nat → Nat × Nat} (l : List Nat) (s : State) :
    Fails s (l.foldl (fun s i => s.fall (f i).1 (f i).2) s) :=
  List.foldlRecOn l _ (Fails.refl s) (fun u h i _ => h.trans (fails_fall u (f i).1 (f i).2))

/-- The state with the bits fallen that rest on a unit: a router's links, the HBM stacks of an L2 slice's die. -/
def fallResting (s : State) (word bit : Nat) : State :=
  if word = 12 && 52 ≤ bit then (List.range 4).foldl (fun s p => s.fall 9 (16 + 4 * (bit - 52) + p)) s
  else if word = 13 || word = 14 then (List.range 3).foldl (fun s i => s.fall 9 (4 + 3 * sliceDie word bit + i)) s
  else s

theorem fails_fallResting (s : State) (word bit : Nat) : Fails s (s.fallResting word bit) := by
  unfold fallResting
  split
  · exact fails_foldl_fall (f := fun p => (9, 16 + 4 * (bit - 52) + p)) _ s
  · split
    · exact fails_foldl_fall (f := fun i => (9, 4 + 3 * sliceDie word bit + i)) _ s
    · exact Fails.refl s

/-! ### The work of a unit that has failed (R241, R299) -/

/-- From s to u no function has become ready or failed, and what has been sent stays sent. -/
structure SameHealth (s u : State) : Prop where
  ready : u.ready = s.ready
  lost : u.lost = s.lost
  sent : ∀ m ∈ s.outbox, m ∈ u.outbox

theorem SameHealth.refl (s : State) : SameHealth s s := ⟨rfl, rfl, fun _ h => h⟩

theorem SameHealth.trans {s t u : State} (h : SameHealth s t) (h' : SameHealth t u) : SameHealth s u :=
  ⟨h'.ready.trans h.ready, h'.lost.trans h.lost, fun m hm => h'.sent m (h.sent m hm)⟩

theorem SameHealth.foldl {α : Type} {f : State → α → State} (h : ∀ s x, SameHealth s (f s x)) (l : List α) (s : State) :
    SameHealth s (l.foldl f s) :=
  List.foldlRecOn l _ (SameHealth.refl s) (fun u hu x _ => hu.trans (h u x))

section

variable {s u : State}

theorem SameHealth.send (h : SameHealth s u) (m : OutMsg) : SameHealth s (u.send m) :=
  ⟨h.ready, h.lost, fun x hx => List.mem_append_left _ (h.sent x hx)⟩

theorem SameHealth.post (h : SameHealth s u) (l : List Instr) : SameHealth s (u.post l) := ⟨h.ready, h.lost, h.sent⟩

theorem SameHealth.updRoute (h : SameHealth s u) (die : Nat) (f : RouteJob → RouteJob) : SameHealth s (u.updRoute die f) :=
  ⟨h.ready, h.lost, h.sent⟩

theorem SameHealth.orFree (h : SameHealth s u) (undef : Bool) (v : Nat) : SameHealth s (u.orFree undef v).2 := by
  cases undef <;> exact ⟨h.ready, h.lost, h.sent⟩

end

theorem sameHealth_updStrand (s : State) (i : Nat) (f : Strand → Strand) : SameHealth s (s.updStrand i f) :=
  ⟨rfl, rfl, fun _ h => h⟩

theorem sameHealth_wakeLine (s : State) (a : Nat) : SameHealth s (s.wakeLine a) := ⟨rfl, rfl, fun _ h => h⟩

theorem sameHealth_writeBytes (s : State) (a v bm n : Nat) : SameHealth s (s.writeBytes a v bm n) := by
  induction n generalizing s a v bm with
  | zero => exact SameHealth.refl s
  | succ n ih =>
    refine SameHealth.trans ?_ (ih _ _ _ _)
    split <;> exact ⟨rfl, rfl, fun _ h => h⟩

theorem sameHealth_writeSram (s : State) (a n v : Nat) : SameHealth s (s.writeSram a n v) :=
  (sameHealth_writeBytes s a v (2 ^ n - 1) n).trans (SameHealth.foldl (fun s _ => sameHealth_wakeLine s _) _ _)

theorem sameHealth_writeRound (s : State) (die : Nat) (r : RouteJob) : SameHealth s (s.writeRound die r) :=
  (SameHealth.foldl (fun s _ => sameHealth_writeSram s _ _ _) _ s).trans
    (SameHealth.foldl (fun s _ => sameHealth_writeSram s _ _ _) _ _)

theorem sameHealth_postRequest (s : State) (die : Nat) (r : RouteJob) (expert rep count tid : Nat) :
    SameHealth s (s.postRequest die r expert rep count tid) := by
  unfold postRequest
  dsimp only
  split
  · exact ((SameHealth.refl s).updRoute _ _).post _
  · exact ((SameHealth.refl s).updRoute _ _).send _

theorem sameHealth_emitBin (s : State) (die : Nat) (j : Job) (r : RouteJob) (q : BinReq) :
    SameHealth s (s.emitBin die j r q) := by
  unfold emitBin
  extract_lets rows dest t
  have hp : SameHealth s (t.orFree r.blind 0).2 := ((SameHealth.refl s).updRoute _ _).orFree _ _
  generalize t.orFree r.blind 0 = p at hp ⊢
  dsimp only
  split
  · exact hp
  · split
    · exact hp.post _
    · exact hp.send _

theorem sameHealth_emitAll (s : State) (die : Nat) (j : Job) (r : RouteJob) : SameHealth s (s.emitAll die j r) :=
  SameHealth.foldl (fun s q => sameHealth_emitBin s die j r q) _ s

theorem sameHealth_settleRound (s : State) (die : Nat) : SameHealth s (s.settleRound die) := by
  unfold settleRound
  split
  · next r j _ _ =>
    have hsent := sameHealth_emitAll s die j r
    split
    · exact SameHealth.refl s
    · dsimp only
      split
      · exact hsent.updRoute _ _
      · split
        · exact (hsent.updRoute _ _).trans (sameHealth_writeRound _ _ _)
        · exact hsent.updRoute _ _
  · exact SameHealth.refl s

/-- Threads that have closed make no function ready and none fail. -/
theorem sameHealth_closeRound (s : State) (die : Nat) : SameHealth s (s.closeRound die) := by
  unfold closeRound
  split
  · exact SameHealth.refl s
  · next r _ =>
    refine SameHealth.trans ?_ (sameHealth_settleRound _ die)
    split
    · exact SameHealth.refl s
    · exact SameHealth.foldl (fun s b => sameHealth_postRequest s die r _ _ _ _) _ s

/-- The state with every die changed. -/
def mapDies (s : State) (f : Die → Die) : State := { s with dies := s.dies.map f }

/-- Of a unit other than a Chamois core, the jobs of the dies alone change. -/
theorem dropUnit_of_ne (s : State) {word : Nat} (bit : Nat) (h : word ≠ 10) : ∃ f, s.dropUnit word bit = s.mapDies f :=
  ⟨_, if_pos (bne_iff_ne.2 h)⟩

/-- What becomes of the work of a unit that has failed makes no function ready and no other fail. -/
theorem sameHealth_dropUnit (s : State) (word bit : Nat) : SameHealth s (s.dropUnit word bit) := by
  unfold dropUnit
  extract_lets t
  have hjobs : SameHealth s t := ⟨rfl, rfl, fun _ h => h⟩
  clear_value t
  split
  · exact hjobs
  · refine SameHealth.trans ?_ (sameHealth_closeRound _ _)
    exact (hjobs.trans (SameHealth.foldl (fun s _ => sameHealth_updStrand s _ _) _ t)).updRoute _ _

/-- The state after the failure of a unit: its bit falls and those that rest on it, the bits that rest on others follow, and its
work is dropped. -/
def failUnit (s : State) (word bit : Nat) : State := ((s.fall word bit).fallResting word bit).groupReady.dropUnit word bit

/-- A unit that has failed is not ready and has failed; the host is told where it was ready; and but for a Chamois core, memory
and the strands stay. -/
theorem failUnit_spec {word bit : Nat} (s : State) (h : ownBit word bit = true) :
    bitAt (s.failUnit word bit).ready word bit = false ∧ bitAt (s.failUnit word bit).lost word bit = true ∧
      (bitAt s.ready word bit = true → .msix 69 ∈ (s.failUnit word bit).outbox) ∧
      (word ≠ 10 → (s.failUnit word bit).mem = s.mem ∧ (s.failUnit word bit).strands = s.strands) := by
  obtain ⟨hw, hb⟩ := ownBit_lt h
  have hfell := fails_fall s word bit
  have hrest := fails_fallResting (s.fall word bit) word bit
  have hready : bitAt ((s.fall word bit).fallResting word bit).ready word bit = false :=
    hrest.ready word bit (by rw [fall_eq]; exact bitAt_putBit_same s.ready false hw hb)
  have hlost : bitAt ((s.fall word bit).fallResting word bit).lost word bit = true :=
    hrest.lost word bit (by rw [fall_eq]; exact bitAt_putBit_same s.lost true hw hb)
  obtain ⟨r, hgroup, hbits⟩ := ((s.fall word bit).fallResting word bit).groupReady_spec
  have hdrop := sameHealth_dropUnit (((s.fall word bit).fallResting word bit).withReady r) word bit
  rw [failUnit, hgroup]
  refine ⟨?_, ?_, fun hwas => hdrop.sent _ (hrest.sent _ ?_), fun hne => ?_⟩
  · rw [hdrop.ready]
    refine (hbits word bit h).trans ?_
    rw [usable_of_lost hlost, hready, ite_self]
  · rw [hdrop.lost]
    exact hlost
  · rw [fall_eq, hwas]
    exact List.mem_append_right _ List.mem_cons_self
  · obtain ⟨f, hjobs⟩ := dropUnit_of_ne (((s.fall word bit).fallResting word bit).withReady r) bit hne
    rw [hjobs]
    exact ⟨hrest.mem.trans hfell.mem, hrest.strands.trans hfell.strands⟩

end State

theorem exec_unitFailure {word bit : Nat} (s : State) (hw : word < 15) (h : State.ownBit word bit = true) :
    exec (.unitFailure word bit) s = .next (s.failUnit word bit) :=
  (if_neg (Nat.not_le.2 hw)).trans (if_neg (by rw [h]; exact Bool.false_ne_true))

/-! ### A bank that has failed (R14, R103) -/

namespace State

theorem mem_l2Touch (s : State) (line : Nat) (dirty : Bool) : (s.l2Touch line dirty).mem = s.mem := by
  simp only [l2Touch]
  split
  · rfl
  · split <;> rfl

/-- A line that leaves a cluster leaves memory alone. -/
theorem mem_leaveCluster (s : State) (clu line : Nat) : (s.leaveCluster clu line).mem = s.mem := by
  simp only [leaveCluster]
  split
  · rw [mem_l2Touch]
    split <;> rfl
  · split <;> rfl

theorem mem_emptyWay (s : State) (clu b : Nat) : (s.emptyWay clu b).mem = s.mem :=
  mem_foldl _ (fun s (w : WayLine) => mem_leaveCluster s clu w.pline) _ s

end State

/-- A bank's failure empties it as a way of the cache and marks it not ready (log 31, log 40). -/
theorem exec_unitFailure_bank {clu bit : Nat} (s : State) (hc : clu < 64) (hb : bit < 64) :
    exec (.unitFailure (15 + clu) bit) s =
      .next ((s.emptyWay clu bit).setBank clu bit { s.bank clu bit with nrdy := true }) := by
  have hexec : exec (.unitFailure (15 + clu) bit) s = .next ((s.emptyWay (15 + clu - 15) bit).setBank (15 + clu - 15) bit
      { s.bank (15 + clu - 15) bit with nrdy := true }) :=
    (if_pos (Nat.le_add_right 15 clu)).trans (if_pos (by simp only [Bool.and_eq_true, decide_eq_true_eq]; omega))
  rwa [Nat.add_sub_cancel_left] at hexec

/-! ### Debug (R20, R225, R288, R289) -/

theorem land_frame (st : Strand) (x : Result) : (st.land x).run = st.run ∧ (st.land x).pc = st.pc := by
  simp only [Strand.land, Strand.write]
  split <;> exact ⟨rfl, rfl⟩

/-- Results that are written leave the strand in its state at its bundle. -/
theorem settle_frame (st : Strand) (t : Nat) : (st.settle t).run = st.run ∧ (st.settle t).pc = st.pc :=
  List.foldlRecOn (motive := fun u : Strand => u.run = st.run ∧ u.pc = st.pc) _ Strand.land ⟨rfl, rfl⟩
    (fun u h x _ => ⟨(land_frame u x).1.trans h.1, (land_frame u x).2.trans h.2⟩)

namespace State

theorem strand_resolveGuards (s : State) (i j : Nat) : (s.resolveGuards i).strand j = s.strand j := by
  simp only [resolveGuards]
  split <;> rfl

theorem strand_settleNow (s : State) (i : Nat) : (s.settleNow i).strand i = (s.strand i).settle (s.cycleOf i) := by
  rw [settleNow, updStrand_eq, strand_setStrand_same, strand_resolveGuards]

theorem strand_settleNow_ne (s : State) {i j : Nat} (h : j ≠ i) : (s.settleNow i).strand j = s.strand j := by
  rw [settleNow, updStrand_eq, strand_setStrand_ne _ _ h, strand_resolveGuards]

/-- A strand halted by the debugger: in DEBUG at its bundle, with its visible results written. -/
theorem strand_stopDebug {s : State} {i : Nat} (h : (s.strand i).run ≠ .off) :
    ((s.stopDebug i).strand i).run = .debug ∧
      ((s.stopDebug i).strand i).regs = ((s.settleNow i).strand i).regs ∧
      ((s.stopDebug i).strand i).pc = (s.strand i).pc := by
  obtain ⟨hrun, hpc⟩ := settle_frame (s.strand i) (s.cycleOf i)
  rw [stopDebug, updStrand_eq, strand_setStrand_same, strand_settleNow, if_neg (by rw [hrun]; exact h)]
  exact ⟨rfl, rfl, hpc⟩

theorem strand_stopDebug_ne (s : State) {i j : Nat} (h : j ≠ i) : (s.stopDebug i).strand j = s.strand j := by
  rw [stopDebug, updStrand_eq, strand_setStrand_ne _ _ h, strand_settleNow_ne s h]

/-- The strands that `DBGCHAN.HALTALL` adds come after those that enter DEBUG and are none of them. -/
theorem debugPeers_eq (s : State) (l : List Nat) (n : Nat) : ∃ m, s.debugPeers l n = l ++ m ∧ ∀ i ∈ m, i ∉ l := by
  induction n generalizing l with
  | zero => exact ⟨[], (List.append_nil l).symm, fun i hi => absurd hi List.not_mem_nil⟩
  | succ n ih =>
    unfold debugPeers
    extract_lets chs more
    have hmore : ∀ i ∈ more, i ∉ l := fun i hi hl => by
      have hp := (List.mem_filter.1 hi).2
      simp [hl] at hp
    clear_value more
    split
    · exact ⟨[], (List.append_nil l).symm, fun i hi => absurd hi List.not_mem_nil⟩
    · obtain ⟨m, he, hm⟩ := ih (l ++ more)
      refine ⟨more ++ m, he.trans (List.append_assoc l more m), fun i hi => ?_⟩
      rcases List.mem_append.1 hi with hi | hi
      · exact hmore i hi
      · exact fun hl => hm i hi (List.mem_append_left more hl)

/-- The strand that enters DEBUG stops first, and no other that stops with it changes it. -/
theorem strand_enterDebug (s : State) (i : Nat) : (s.enterDebug i).strand i = (s.stopDebug i).strand i := by
  simp only [enterDebug]
  split
  · rfl
  · obtain ⟨m, he, hm⟩ := s.debugPeers_eq [i] 32
    rw [he, List.singleton_append, List.foldl_cons]
    refine List.foldlRecOn (motive := fun u : State => u.strand i = (s.stopDebug i).strand i) m _ rfl (fun u hu j hj => ?_)
    rw [strand_stopDebug_ne u (fun h => hm j hj (List.mem_singleton.2 h.symm)), hu]

/-- The selector changes no strand but a READY one (R22). -/
theorem strand_reselect (s : State) (sid base : Nat) {i : Nat} (h : (s.strand i).run ≠ .ready) :
    (s.reselect sid base).strand i = s.strand i := by
  unfold reselect
  split
  · rfl
  · split
    · rfl
    · next j hj =>
      have hready := List.find?_some hj
      rw [updCore_eq, strand_setCore, updStrand_eq, strand_setStrand_ne]
      rintro rfl
      exact h (eq_of_beq hready)

theorem mem_reselect (s : State) (sid base : Nat) : (s.reselect sid base).mem = s.mem := by
  unfold reselect
  split
  · rfl
  · split <;> rfl

theorem strand_reselectAll {s : State} {i : Nat} (h : (s.strand i).run ≠ .ready) :
    s.reselectAll.strand i = s.strand i :=
  List.foldlRecOn (motive := fun u : State => u.strand i = s.strand i) _ _ rfl
    (fun u hu _ _ => (strand_reselect u _ _ (by rw [hu]; exact h)).trans hu)

theorem mem_reselectAll (s : State) : s.reselectAll.mem = s.mem := mem_foldl _ (fun s _ => mem_reselect s _ _) _ s

/-- A strand chosen on an idle core is in RUN, and nothing else of its own changes but its count and its next issue. -/
theorem strand_chooseIdle (s : State) (i : Nat) : ((s.chooseIdle i).strand i).run = .run ∧
    ((s.chooseIdle i).strand i).regs = (s.strand i).regs ∧ ((s.chooseIdle i).strand i).pc = (s.strand i).pc := by
  simp [chooseIdle]

/-- A strand that wakes is READY, or in RUN where it is chosen at once, at its bundle with its registers (R20, R22). -/
theorem strand_wake (s : State) (i : Nat) :
    (((s.wake i).strand i).run = .ready ∨ ((s.wake i).strand i).run = .run) ∧
      ((s.wake i).strand i).regs = (s.strand i).regs ∧ ((s.wake i).strand i).pc = (s.strand i).pc := by
  unfold wake
  extract_lets u
  have hu : u.strand i = { s.strand i with run := .ready, wait := .none } := strand_setStrand_same _ _ _
  have hchosen : ∀ v : State, v.strand i = u.strand i →
      ((v.chooseIdle i).strand i).run = .run ∧ ((v.chooseIdle i).strand i).regs = (s.strand i).regs ∧
        ((v.chooseIdle i).strand i).pc = (s.strand i).pc := fun v hv => by
    obtain ⟨hrun, hregs, hpc⟩ := v.strand_chooseIdle i
    rw [hv, hu] at hregs hpc
    exact ⟨hrun, hregs, hpc⟩
  clear_value u
  split
  · exact ⟨.inr (hchosen u rfl).1, (hchosen u rfl).2⟩
  · next r _ =>
    split
    · next hlt =>
      have hne : i ≠ r := Nat.ne_of_lt (of_decide_eq_true (Bool.and_eq_true_iff.1 hlt).1)
      have hv := hchosen (u.updStrand r (fun st => { st with run := .ready })) (strand_setStrand_ne _ _ hne)
      exact ⟨.inr hv.1, hv.2⟩
    · rw [hu]
      exact ⟨.inl rfl, rfl, rfl⟩

theorem mem_wake (s : State) (i : Nat) : (s.wake i).mem = s.mem := by
  simp only [wake]
  split
  · rfl
  · split <;> rfl

end State

/-- Settles O50: each event does what its own lemma says. A halted strand is settled before any other stops with it; the bit of
a function that passes is set as the function may be used, and the bits set after it rest on no bit of their own word; a bit
that has fallen and is lost stays so through the bits that fall with it and through the work that is dropped. -/
theorem healthAndDebug : Obligations.HealthAndDebug := by
  intro sid word bit die pa size clu s st d bitOf
  refine ⟨fun h => ?_, fun h => ?_, fun hown hlost hslices hrouter => ?_, fun hown hlost => ?_, fun hw hown => ?_,
    fun hc hb => ?_, ⟨_, rfl, rfl⟩, fun hstep hcalm => ?_, fun h => ?_, ⟨_, rfl, rfl⟩⟩
  · obtain ⟨hrun, hregs, hpc⟩ := State.strand_stopDebug h
    rw [← State.strand_enterDebug] at hrun hregs hpc
    have hkeep : (s.enterDebug sid).reselectAll.strand sid = (s.enterDebug sid).strand sid :=
      State.strand_reselectAll (by rw [hrun]; decide)
    exact ⟨_, if_neg h, (congrArg Strand.run hkeep).trans hrun, (congrArg Strand.regs hkeep).trans hregs,
      (congrArg Strand.pc hkeep).trans hpc, (State.mem_reselectAll _).trans (State.mem_enterDebug s sid)⟩
  · obtain ⟨hrun, hregs, hpc⟩ := s.strand_wake sid
    exact ⟨_, if_pos h, hrun, hregs, hpc, s.mem_wake sid⟩
  · obtain ⟨r, hexec, hbit⟩ := exec_selfTestPass s hown
    refine ⟨_, hexec, hbit.trans ?_, rfl, rfl⟩
    rw [State.usable_notePass s hown, show bitAt s.lost word bit = false from hlost, Bool.not_false, Bool.true_and]
    split
    · next hstack => exact hslices hstack
    · split
      · next hlink => exact hrouter hlink
      · rfl
  · obtain ⟨r, hexec, hbit⟩ := exec_selfTestPass s hown
    exact ⟨_, hexec, hbit.trans (State.usable_of_lost hlost)⟩
  · exact ⟨_, exec_unitFailure s hw hown, s.failUnit_spec hown⟩
  · refine ⟨_, exec_unitFailure_bank s hc hb, State.bank_setBank_same _ _ _ _, ?_⟩
    exact State.mem_emptyWay s clu bit
  · exact ⟨_, if_pos (by simp only [Bool.and_eq_true, decide_eq_true_eq]; exact ⟨hstep, hcalm⟩), rfl⟩
  · exact ⟨_, if_neg h, rfl⟩

end Sys2Proof.Machine

namespace Sys2Proof.Machine

/-! ### Scalar floating operations (R358, R363 to R366, R403) -/

namespace State

/-- One draw gives the bits of the stepped generator, and leaves it stepped, under RS alone (R72). -/
theorem draw1_eq (s : State) (m : Mode) : s.draw1 m = (drawBits s m, afterDraw s m) := by
  unfold draw1 draws drawBits afterDraw
  split <;> rfl

/-- A floating result of one draw: the generator steps, and the rounded value goes in flight with its flags. -/
theorem putF_draw1_lands (s : State) (m : Mode) (sd : BitVec 6) (lat : Nat) (f : Nat → Nat × Nat) :
    Lands (afterDraw s m) ((s.draw1 m).2.putF sd (f (s.draw1 m).1) lat) (.s sd) (BitVec.ofNat 2048 (f (drawBits s m)).1)
      (BitVec.allOnes 2048) lat false (f (drawBits s m)).2 := by
  rw [draw1_eq]
  exact emit_lands _ _ _ _ _ _ _

end State

/-- The types marked F are no integer types (R309). -/
theorem isInt_of_isF {t : Ty} (h : t.isF = true) : t.isInt = false := by
  revert h
  cases t <;> decide

/-- CVTI to a floating type rounds once (R358). -/
theorem exec_cvti_to_float {tt : Ty} (frm : Ty) (sat : Bool) (rnd : Rnd) (sd sa : BitVec 6) (s : State) (h : tt.isInt = false) :
    exec (.cvti tt frm sat rnd sd sa) s = .next ((s.draw1 (s.mode rnd)).2.putF sd
      (convert tt frm sat (s.mode rnd) s.fz (s.draw1 (s.mode rnd)).1 (s.me.regs.pat frm sa)) 4) := by
  simp only [exec, execCvti, h, Bool.false_and, Bool.false_eq_true, if_false]

/-- CVTI from a floating type to an integer type rounds once and extends the integer (R358). -/
theorem exec_cvti_to_int {tt frm : Ty} (sat : Bool) (rnd : Rnd) (sd sa : BitVec 6) (s : State) (h : tt.isInt = true)
    (hf : frm.isInt = false) :
    exec (.cvti tt frm sat rnd sd sa) s = .next ((s.draw1 (s.mode rnd)).2.putF sd
      ((extendTy tt (convert tt frm sat (s.mode rnd) s.fz (s.draw1 (s.mode rnd)).1 (s.me.regs.pat frm sa)).1).toNat,
        (convert tt frm sat (s.mode rnd) s.fz (s.draw1 (s.mode rnd)).1 (s.me.regs.pat frm sa)).2) 4) := by
  simp only [exec, execCvti, h, hf, Bool.and_false, Bool.false_eq_true, if_false, if_true]

/-- MAX of a floating type sets no flag (R403). -/
theorem exec_max_of_float {t : Ty} (sd sa : BitVec 6) (sb : SrcB) (s : State) (h : t.isInt = false) :
    exec (.max t sd sa sb) s =
      .next (s.putS sd (BitVec.ofNat 64 (fMaxMin t true s.fz (s.me.regs.pat t sa) (s.me.regs.patB t sb))) 4) := by
  simp only [exec, execMax, h, Bool.false_eq_true, if_false]

/-- MIN of a floating type sets no flag (R403). -/
theorem exec_min_of_float {t : Ty} (sd sa : BitVec 6) (sb : SrcB) (s : State) (h : t.isInt = false) :
    exec (.min t sd sa sb) s =
      .next (s.putS sd (BitVec.ofNat 64 (fMaxMin t false s.fz (s.me.regs.pat t sa) (s.me.regs.patB t sb))) 4) := by
  simp only [exec, execMin, h, Bool.false_eq_true, if_false]

/-- Settles O3: every operation that rounds is a function of its one draw put in flight (`hput`); compares and the larger and
smaller of two numbers draw nothing. -/
theorem scalarFloatsRound : Obligations.ScalarFloatsRound := by
  intro t tt frm rnd sd sa sb sc gd cc s ht htt hfrm r m fz x y put
  have hint : t.isInt = false := isInt_of_isF ht
  have hput (f : Nat → Nat × Nat) : put ((s.draw1 m).2.putF sd (f (s.draw1 m).1) 4) (f (drawBits s m)) :=
    s.putF_draw1_lands m sd 4 f
  refine ⟨⟨_, rfl, hput (fAdd t m fz · x y)⟩, ⟨_, rfl, hput (fMul t m fz · x y)⟩,
    ⟨_, rfl, hput (fFma t m fz · x y (r.pat t sc))⟩, ⟨_, rfl, hput (convert tt frm false m fz · (r.pat frm sa))⟩,
    fun it hit => ⟨?_, ?_⟩, ⟨_, rfl, s.putG_lands gd _ 4 false⟩, ?_, ?_⟩
  · exact ⟨_, exec_cvti_to_float it false rnd sd sa s htt, hput (convert tt it false m fz · (r.pat it sa))⟩
  · exact ⟨_, exec_cvti_to_int false rnd sd sa s hit hfrm, _, rfl, hput fun d =>
      ((extendTy it (convert it frm false m fz d (r.pat frm sa)).1).toNat, (convert it frm false m fz d (r.pat frm sa)).2)⟩
  · exact ⟨_, exec_max_of_float sd sa (.reg sb) s hint, s.putS_lands sd _ 4⟩
  · exact ⟨_, exec_min_of_float sd sa (.reg sb) s hint, s.putS_lands sd _ 4⟩

end Sys2Proof.Machine

namespace Sys2Proof.Machine

/-! ### Lanes of a vector (R440, R441) -/

theorem testBit_bitsN (n lo len k : Nat) : (bitsN n lo len).testBit k = (decide (k < len) && n.testBit (lo + k)) := by
  rw [bitsN, Nat.testBit_mod_two_pow, Nat.testBit_div_two_pow, Nat.add_comm]

/-- A bit of packed lanes is the bit of its lane. -/
theorem testBit_packLanes {w : Nat} (hw : 0 < w) (l : List Nat) (k : Nat) :
    (packLanes w l).testBit k = (l.getD (k / w) 0).testBit (k % w) := by
  induction l generalizing k with
  | nil => simp [packLanes]
  | cons x l ih =>
    rw [packLanes, Nat.add_comm, Nat.testBit_two_pow_mul_add _ (Nat.mod_lt _ (Nat.two_pow_pos w))]
    split
    · next hk => rw [Nat.div_eq_of_lt hk, Nat.mod_eq_of_lt hk]; simp [hk]
    · next hk => rw [ih, Nat.mod_eq_sub_mod (Nat.le_of_not_lt hk), Nat.div_eq_sub_div hw (Nat.le_of_not_lt hk)]; rfl

/-- A lane of a register made of packed lanes is that lane, to the lane's width. -/
theorem laneAt_packLanes {w : Nat} (hw : 0 < w) (l : List Nat) {i : Nat} (hi : i < laneCount w) :
    laneAt w (BitVec.ofNat 2048 (packLanes w l)) i = l.getD i 0 % 2 ^ w := by
  have htop : w * i + w ≤ 2048 := by
    rw [← Nat.mul_succ, Nat.mul_comm]
    exact Nat.le_trans (Nat.mul_le_mul_right w hi) (Nat.div_mul_le_self 2048 w)
  refine Nat.eq_of_testBit_eq fun k => ?_
  rw [laneAt, testBit_bitsN, Nat.testBit_mod_two_pow, BitVec.testBit_toNat, BitVec.getLsbD_ofNat, testBit_packLanes hw]
  by_cases hk : k < w
  · rw [Nat.mul_add_div hw, Nat.div_eq_of_lt hk, Nat.add_zero, Nat.mul_add_mod, Nat.mod_eq_of_lt hk]
    simp [show w * i + k < 2048 by omega]
  · simp [hk]

theorem width_pos (t : Ty) : 0 < t.width := by cases t <;> decide

/-- Lanes of any type fill a vector register. -/
theorem laneCount_mul_width (t : Ty) : laneCount t.width * t.width = 2048 := by cases t <;> rfl

theorem lane_lt_laneCount (t : Ty) {k : Nat} (hk : k < 2048) : k / t.width < laneCount t.width :=
  Nat.div_lt_of_lt_mul (by rw [Nat.mul_comm, laneCount_mul_width]; exact hk)

/-- A bit of the mask of a vector result is the enable bit of its lane. -/
theorem getLsbD_maskBits_lanesOn (r : Regs) (mk : MaskSel) (t : Ty) {k : Nat} (hk : k < 2048) :
    (maskBits t.width (r.lanesOn mk t.width (laneCount t.width))).getLsbD k = r.laneOn mk t.width (k / t.width) := by
  have hlane : k / t.width < laneCount t.width := lane_lt_laneCount t hk
  have hbit : k % t.width < t.width := Nat.mod_lt _ (width_pos t)
  rw [maskBits, BitVec.getLsbD_ofNat, testBit_packLanes (width_pos t), Regs.lanesOn]
  cases hon : r.laneOn mk t.width (k / t.width) <;> simp [hk, hlane, hbit, hon, Nat.testBit_two_pow_sub_one]

/-- A vector result of one function by lanes lands as any function that agrees with it to the lane's width. -/
theorem State.vecInt_landsV (s : State) (t : Ty) (vd : BitVec 6) (mk : MaskSel) (lat : Nat) {f g : Nat → Nat}
    (h : ∀ i, f i % 2 ^ t.width = g i % 2 ^ t.width) : LandsV s (s.vecInt t vd mk lat f) t vd mk lat g := by
  refine ⟨_, _, s.emit_lands _ _ _ _ _ _, fun i hi => ?_, fun k hk => getLsbD_maskBits_lanesOn s.me.regs mk t hk⟩
  rw [laneAt_packLanes (width_pos t) _ hi, ← h i]
  simp [hi]

/-- A vector operation that nothing stands in the way of, and whose effect is a function by lanes, completes with its lanes. -/
theorem completes_lanes {i : Instr} {s : State} {o : State → Option Obstacle} {eff : State → State} {t : Ty} {vd : BitVec 6}
    {mk : MaskSel} {lat : Nat} {f g : Nat → Nat} (hexec : exec i s = .next (s.gate o eff)) (hfree : s.Free o)
    (heff : eff s = s.vecInt t vd mk lat f) (h : ∀ k, f k % 2 ^ t.width = g k % 2 ^ t.width) :
    Completes i s (fun u => LandsV s u t vd mk lat g) := by
  refine ⟨_, hexec, ?_⟩
  rw [State.gate_of_free eff hfree, heff]
  exact s.vecInt_landsV t vd mk lat h

/-- Registers none of which lies in a lent bank are so with some of them left out. -/
theorem free_lentUse_of_subset {l l' : List (BitVec 6)} {s : State} (h : s.Free (lentUse l)) (hsub : l' ⊆ l) :
    s.Free (lentUse l') := by
  obtain ⟨hnone, hacts⟩ := h
  refine ⟨?_, hacts⟩
  unfold lentUse at hnone ⊢
  split
  · next st b hlent =>
    simp only [hlent, ite_eq_right_iff, reduceCtorEq, imp_false] at hnone ⊢
    intro hmet
    obtain ⟨hst, hmem⟩ := Bool.and_eq_true_iff.1 hmet
    obtain ⟨r, hr, hb⟩ := List.any_eq_true.1 hmem
    exact hnone (Bool.and_eq_true_iff.2 ⟨hst, List.any_eq_true.2 ⟨r, hsub hr, hb⟩⟩)
  · rfl

/-! ### Integers of a lane (R59) -/

theorem natCast_two_pow (w : Nat) : ((2 ^ w : Nat) : Int) = 2 ^ w := Int.natCast_pow 2 w

theorem natCast_mod_two_pow (x w : Nat) : ((x % 2 ^ w : Nat) : Int) = (x : Int) % 2 ^ w :=
  (Int.natCast_emod _ _).trans (congrArg ((x : Int) % ·) (natCast_two_pow w))

/-- A pattern means an integer congruent to it modulo 2^w. -/
theorem intOf_emod (t : Ty) (x : Nat) : intOf t x % 2 ^ t.width = (x : Int) % 2 ^ t.width := by
  unfold intOf sintN
  rw [natCast_mod_two_pow]
  split
  · split
    · exact Int.emod_emod _ _
    · rw [Int.sub_emod_right, Int.emod_emod]
  · exact Int.emod_emod _ _

theorem intOf_add_emod (t : Ty) (x y : Nat) :
    (intOf t x + intOf t y) % 2 ^ t.width = ((x + y : Nat) : Int) % 2 ^ t.width := by
  rw [Int.natCast_add, Int.add_emod, intOf_emod, intOf_emod, ← Int.add_emod]

theorem intOf_mul_emod (t : Ty) (x y : Nat) :
    (intOf t x * intOf t y) % 2 ^ t.width = ((x * y : Nat) : Int) % 2 ^ t.width := by
  rw [Int.natCast_mul, Int.mul_emod, intOf_emod, intOf_emod, ← Int.mul_emod]

/-- The pattern of a difference is the sum with the two's complement. -/
theorem intOf_sub_emod (t : Ty) (x y : Nat) :
    (intOf t x - intOf t y) % 2 ^ t.width = ((x + (2 ^ t.width - y % 2 ^ t.width) : Nat) : Int) % 2 ^ t.width := by
  have hy : y % 2 ^ t.width ≤ 2 ^ t.width := Nat.le_of_lt (Nat.mod_lt _ (Nat.two_pow_pos _))
  have hcomm (a b c : Int) : a + (b - c) = b + (a - c) := by omega
  rw [Int.natCast_add, Int.natCast_sub hy, natCast_mod_two_pow, natCast_two_pow, hcomm, Int.add_emod_left, Int.sub_emod_emod,
    Int.sub_emod, intOf_emod, intOf_emod, ← Int.sub_emod]

/-- The pattern of the negative of a lane. -/
theorem intOf_neg_emod (t : Ty) {x : Nat} (hx : x < 2 ^ t.width) :
    -intOf t x % 2 ^ t.width = ((2 ^ t.width - x : Nat) : Int) % 2 ^ t.width := by
  rw [Int.natCast_sub (Nat.le_of_lt hx), natCast_two_pow, Int.sub_emod_left, ← Int.zero_sub, ← Int.zero_sub (x : Int),
    Int.sub_emod, intOf_emod, ← Int.sub_emod]

/-- Wrapping gives the pattern of any number congruent to the integer. -/
theorem wrapTy_mod_of_emod {t : Ty} {v : Int} {n : Nat} (h : v % 2 ^ t.width = (n : Int) % 2 ^ t.width) :
    wrapTy t v % 2 ^ t.width = n % 2 ^ t.width := by
  have hv : wrapTy t v = n % 2 ^ t.width := by rw [wrapTy, wrapN, h, ← natCast_mod_two_pow, Int.toNat_natCast]
  rw [hv, Nat.mod_mod]

theorem wrapTy_intOf (t : Ty) (x : Nat) : wrapTy t (intOf t x) % 2 ^ t.width = x % 2 ^ t.width :=
  wrapTy_mod_of_emod (intOf_emod t x)

theorem laneAt_lt (w : Nat) (v : VWord) (i : Nat) : laneAt w v i < 2 ^ w := Nat.mod_lt _ (Nat.two_pow_pos w)

/-- Saturation clamps to the range of the type and wraps. -/
theorem satTy_eq (t : Ty) (v : Int) :
    satTy t v = (max (intMin t) (min (intMax t) v) % (2 ^ t.width : Nat)).toNat := by
  rw [satTy, wrapN, clampTy, natCast_two_pow]

theorem shlPat_mod (w x n : Nat) : shlPat w x n % 2 ^ w = x * 2 ^ n % 2 ^ w := by
  unfold shlPat
  split
  · next h => rw [Nat.zero_mod, Nat.mod_eq_zero_of_dvd (Nat.dvd_mul_left_of_dvd (Nat.pow_dvd_pow 2 h) x)]
  · exact Nat.mod_mod _ _

theorem shrPat_of_lt {w x : Nat} (hx : x < 2 ^ w) (n : Nat) : shrPat w x n = x / 2 ^ n := by
  unfold shrPat
  split
  · next h => rw [Nat.div_eq_of_lt (Nat.lt_of_lt_of_le hx (Nat.pow_le_pow_right Nat.two_pos h))]
  · rw [Nat.mod_eq_of_lt hx]

/-- The larger lane of two. -/
theorem maxMinLane_max {t : Ty} (ht : t.isInt = true) (fz : Bool) (x y : Nat) :
    maxMinLane t true fz x y % 2 ^ t.width = (if intOf t x < intOf t y then y else x) % 2 ^ t.width := by
  rw [maxMinLane, if_pos ht, if_pos rfl]
  split
  · next h => rw [show max (intOf t x) (intOf t y) = intOf t y by omega, wrapTy_intOf]
  · next h => rw [show max (intOf t x) (intOf t y) = intOf t x by omega, wrapTy_intOf]

/-- The smaller lane of two. -/
theorem maxMinLane_min {t : Ty} (ht : t.isInt = true) (fz : Bool) (x y : Nat) :
    maxMinLane t false fz x y % 2 ^ t.width = (if intOf t y < intOf t x then y else x) % 2 ^ t.width := by
  rw [maxMinLane, if_pos ht, if_neg Bool.false_ne_true]
  split
  · next h => rw [show min (intOf t x) (intOf t y) = intOf t y by omega, wrapTy_intOf]
  · next h => rw [show min (intOf t x) (intOf t y) = intOf t x by omega, wrapTy_intOf]

/-! ### Integer vector operations (R441, R444, R424, R456) -/

/-- Sums, differences and products are congruent to those of the patterns; shifts, maxima and minima are as their lemmas say. -/
theorem vectorLanes : VectorLanes := by
  intro t rnd vd va vb mk s ht hfree x y
  exact ⟨completes_lanes rfl hfree (if_pos ht) fun i => wrapTy_mod_of_emod (intOf_add_emod t _ _),
    completes_lanes rfl hfree (if_pos ht) fun i => wrapTy_mod_of_emod (intOf_sub_emod t _ _),
    completes_lanes rfl hfree (if_pos ht) fun i => wrapTy_mod_of_emod (intOf_mul_emod t _ _),
    completes_lanes rfl hfree rfl fun i => rfl, completes_lanes rfl hfree rfl fun i => rfl,
    completes_lanes rfl hfree rfl fun i => rfl,
    completes_lanes rfl hfree rfl fun i => shlPat_mod _ _ _,
    completes_lanes rfl hfree rfl fun i => congrArg (· % 2 ^ t.width) (shrPat_of_lt (laneAt_lt _ _ _) _),
    completes_lanes rfl hfree rfl fun i => rfl,
    completes_lanes rfl hfree (congrArg (s.vecInt t vd mk · _) (if_pos ht)) fun i => maxMinLane_max ht _ _ _,
    completes_lanes rfl hfree (congrArg (s.vecInt t vd mk · _) (if_pos ht)) fun i => maxMinLane_min ht _ _ _,
    completes_lanes rfl hfree rfl fun i => rfl⟩

/-- The operations of one vector meet less of the lent bank's obstacle (`hone`, `hdst`). -/
theorem vectorMoves : VectorMoves := by
  intro t vd va sa vb vm mk s ht hfree x
  have hone : s.Free (lentUse [vd, va]) := free_lentUse_of_subset hfree (List.subset_append_left _ _)
  have hdst : s.Free (lentUse [vd]) := free_lentUse_of_subset hone (List.subset_append_left [vd] [va])
  refine ⟨completes_lanes rfl hone rfl fun i => ?_, completes_lanes rfl hone rfl fun i => ?_,
    completes_lanes rfl hone rfl fun i => rfl, completes_lanes rfl hdst rfl fun i => Nat.mod_mod _ _,
    completes_lanes rfl hfree rfl fun i => rfl⟩
  · rw [absLane, if_pos ht]
    exact wrapTy_mod_of_emod rfl
  · rw [negLane, if_pos ht]
    exact wrapTy_mod_of_emod (intOf_neg_emod t (laneAt_lt _ _ _))

/-- The statement's clamp is the model's saturation. -/
theorem vectorSaturates : VectorSaturates := by
  intro t rnd vd va vb mk s ht hfree x y lo hi clamp
  have hclamp (v : Int) : satTy t v % 2 ^ t.width = clamp v % 2 ^ t.width := congrArg (· % 2 ^ t.width) (satTy_eq t v)
  exact ⟨completes_lanes rfl hfree (if_pos ht) fun i => hclamp _, completes_lanes rfl hfree (if_pos ht) fun i => hclamp _,
    completes_lanes rfl hfree (if_pos ht) fun i => hclamp _⟩

/-- Settles O5: every operation is a function by lanes behind the obstacle of a lent bank (`completes_lanes`), and each lane is
congruent to the lane that the rule gives. -/
theorem vectorIntegers : Obligations.VectorIntegers := ⟨vectorLanes, vectorMoves, vectorSaturates⟩

end Sys2Proof.Machine

namespace Sys2Proof.Machine

/-! ### What an access of a control register leaves alone (R355, R356) -/

/-- What two values of a choice agree on, the choice agrees on. -/
theorem ite_keeps {α β : Type} (f : α → β) {c : Prop} [Decidable c] {x y : α} {b : β} (hx : f x = b) (hy : f y = b) :
    f (if c then x else y) = b := by
  split
  · exact hx
  · exact hy

/-- Registers, vector registers, pc, gated stores, queued stores and results in flight. -/
abbrev Work : Type := Regs × Vector VWord 64 × BitVec 18 × List PStore × List PStore × List Result

/-- What a strand computes with, which no write of a control register touches. -/
def Strand.work (st : Strand) : Work :=
  (st.regs, st.v, st.pc, st.gated, st.storeQ, st.flight)

/-- A write of a per-strand register leaves the strand's work. -/
theorem Strand.work_writeCtl (st : Strand) (cr v : Nat) : (st.writeCtl cr v).work = st.work := by
  unfold Strand.writeCtl
  repeat' apply ite_keeps Strand.work
  all_goals rfl

namespace State

/-- The work of the strand in issue, and memory. -/
def work (s : State) : Work × List Host.Cell := (s.me.work, s.mem)

theorem work_writeL2ctl (s : State) (v : Nat) : (s.writeL2ctl v).work = s.work := ite_keeps work rfl rfl

theorem work_writeLnqctl (s : State) (q rw act : Nat) : (s.writeLnqctl q rw act).work = s.work := by
  unfold writeLnqctl
  dsimp only
  split <;> rfl

theorem work_writePlk (s : State) (cr rw act : Nat) : (s.writePlk cr rw act).work = s.work := by
  unfold writePlk
  repeat' split
  all_goals rfl

theorem work_writeLksec (s : State) (n v : Nat) : (s.writeLksec n v).work = s.work := ite_keeps work rfl rfl

/-- A write of any control register leaves the work of the strand that writes it, and memory (R356): it changes control registers of
the strand, or a part of the state outside every strand, or posts events. -/
theorem work_writeCtl (s : State) (cr : Nat) (w : Word) : (s.writeCtl cr w).work = s.work := by
  have hstrand : (s.updMe (·.writeCtl cr w.toNat)).work = s.work := by
    rw [work, me_updMe, Strand.work_writeCtl]
    rfl
  unfold writeCtl
  dsimp only
  refine ite_keeps work hstrand (ite_keeps work hstrand ?_)
  iterate 13 refine ite_keeps work rfl ?_
  refine ite_keeps work (work_writeL2ctl s _) ?_
  iterate 3 refine ite_keeps work rfl ?_
  refine ite_keeps work (work_writeLnqctl s _ _ _) (ite_keeps work rfl ?_)
  exact ite_keeps work (work_writePlk s _ _ _) (ite_keeps work (work_writeLksec s _ _) (ite_keeps work rfl rfl))

/-- From `s` to `u` one interlocked result of the operation in issue goes in flight for a scalar register, and neither the rest of
the strand nor memory changes. -/
structure ReadsInto (s u : State) (sd : BitVec 6) (r : Result) : Prop where
  me : u.me = { s.me with flight := s.me.flight ++ [r] }
  mem : u.mem = s.mem
  dst : r.dst = .s sd
  lock : r.lock = true
  mask : r.mask = BitVec.allOnes 2048
  seq : r.seq = s.issue.seq

/-- A result put in flight is the last one of its strand. -/
theorem me_emit (s : State) (d : RegName) (v m : VWord) (lat : Nat) (lock : Bool) (fl : Nat) :
    ∃ r, (s.emit d v m lat lock fl).me = { s.me with flight := s.me.flight ++ [r] } ∧ r.dst = d ∧ r.val = v ∧ r.mask = m ∧
      r.lock = lock ∧ r.seq = s.issue.seq :=
  ⟨_, me_updMe s _, rfl, rfl, rfl, rfl, rfl⟩

/-- An interlocked result put in flight after a change elsewhere. -/
theorem readsInto_putSLock {s t : State} (sd : BitVec 6) (v : Word) (lat : Nat) (hme : t.me = s.me) (hmem : t.mem = s.mem)
    (hseq : t.issue.seq = s.issue.seq) : ∃ r, ReadsInto s (t.putSLock sd v lat) sd r ∧ r.val = v.setWidth 2048 := by
  obtain ⟨r, hflight, hdst, hval, hmask, hlock, hr⟩ := t.me_emit (.s sd) (v.setWidth 2048) (BitVec.allOnes 2048) lat true 0
  exact ⟨r, ⟨hflight.trans (by rw [hme]), hmem, hdst, hlock, hmask, hr.trans hseq⟩, hval⟩

/-- FPCTL put in flight. -/
theorem readsInto_putFpctl (s : State) (sd : BitVec 6) (lat : Nat) : ∃ r, ReadsInto s (s.putFpctl sd lat) sd r := by
  exact ⟨_, ⟨me_updMe s _, rfl, rfl, rfl, rfl, rfl⟩⟩

/-- Reading a grant leaves the strand in issue, its bundle and memory (R241). -/
theorem readGrant_frame (s : State) (tid : Nat) :
    (s.readGrant tid).2.me = s.me ∧ (s.readGrant tid).2.mem = s.mem ∧ (s.readGrant tid).2.issue.seq = s.issue.seq := by
  unfold readGrant
  dsimp only
  split
  · exact ⟨rfl, rfl, rfl⟩
  · split <;> exact ⟨rfl, rfl, rfl⟩

end State

/-! ### CTLRD and CTLWR by register (R355, R356, R241) -/

/-- A register of a thread is left to threads (R241). -/
theorem not_chReg_of_allowed {s : State} {least : Nat → Nat} {cr : BitVec 12} (h : CtlAllowed s least cr) :
    (isChReg cr.toNat && !isThread s.cur) = false := by
  obtain ⟨-, hthread⟩ := h
  cases hch : isChReg cr.toNat with
  | false => rfl
  | true =>
    obtain ⟨hlo, hhi⟩ := Bool.and_eq_true_iff.1 hch
    rw [hthread (of_decide_eq_true hlo) (of_decide_eq_true hhi)]
    rfl

/-- Nothing stands in the way of a read that is allowed. -/
theorem ctlrd_free {s : State} {cr : BitVec 12} (hacts : s.Acts) (h : CtlAllowed s ctlReadPriv cr) : s.Free (ctlrdObs cr) :=
  ⟨(if_neg (by rw [not_chReg_of_allowed h]; exact Bool.false_ne_true)).trans (if_neg (Nat.not_lt.2 h.1)), hacts⟩

/-- Nothing stands in the way of a write that is allowed. -/
theorem ctlwr_free {s : State} {cr : BitVec 12} (hacts : s.Acts) (h : CtlAllowed s ctlWritePriv cr) : s.Free (ctlwrObs cr) :=
  ⟨(if_neg (by rw [not_chReg_of_allowed h]; exact Bool.false_ne_true)).trans (if_neg (Nat.not_lt.2 h.1)), hacts⟩

/-- CTLWR that is allowed writes the register. -/
theorem exec_ctlwr {s : State} {cr : BitVec 12} (ss : BitVec 6) (h : s.Free (ctlwrObs cr)) :
    exec (.ctlwr cr ss) s = .next (s.writeCtl cr.toNat (s.me.regs.rs ss)) :=
  congrArg Host.Outcome.next (State.gate_of_free _ h)

/-- The register is none of those whose read is more than their image (R355): FPCTL, CHGRANT, and the keys that read as free values
(log 14). -/
structure ReadsPlain (cr : BitVec 12) : Prop where
  fpctl : cr ≠ 0x006
  grant : cr ≠ 0x071
  salt : cr ≠ 0x0C5
  ctr : cr ≠ 0x0C6

/-- CTLRD that is allowed gives the register's image. -/
theorem exec_ctlrd_plain {s : State} {cr : BitVec 12} (sd : BitVec 6) (h : s.Free (ctlrdObs cr)) (hp : ReadsPlain cr) :
    exec (.ctlrd sd cr) s =
      .next (s.putSLock sd (BitVec.ofNat 64 (s.ctlImage s.cur cr.toNat)) (ctlLat cr.toNat)) := by
  obtain ⟨hfp, hgrant, hsalt, hctr⟩ := hp
  have hne {n : Nat} (hn : n < 2 ^ 12) (h : cr ≠ BitVec.ofNat 12 n) : cr.toNat ≠ n :=
    fun e => h (BitVec.eq_of_toNat_eq (by rw [e, BitVec.toNat_ofNat, Nat.mod_eq_of_lt hn]))
  refine congrArg Host.Outcome.next ((State.gate_of_free _ h).trans ?_)
  dsimp only
  rw [if_neg (hne (by decide) hfp), if_neg (hne (by decide) hgrant), if_neg]
  simpa using ⟨hne (by decide) hsalt, hne (by decide) hctr⟩

/-- CTLRD of FPCTL gives FPCTL with the flags of what is in flight (R363). -/
theorem exec_ctlrd_fpctl {s : State} (sd : BitVec 6) (h : s.Free (ctlrdObs 0x006)) :
    exec (.ctlrd sd 0x006) s = .next (s.putFpctl sd 3) := congrArg Host.Outcome.next (State.gate_of_free _ h)

/-- CTLRD of CHGRANT reads a grant (R241). -/
theorem exec_ctlrd_grant {s : State} (sd : BitVec 6) (h : s.Free (ctlrdObs 0x071)) : exec (.ctlrd sd 0x071) s =
    .next ((s.readGrant s.cur).2.putSLock sd (BitVec.ofNat 64 (s.readGrant s.cur).1) (ctlLat 0x071)) :=
  congrArg Host.Outcome.next (State.gate_of_free _ h)

/-- CTLRD of LKSALT or LKCTR gives a free value (log 14). -/
theorem exec_ctlrd_key {s : State} {cr : BitVec 12} (sd : BitVec 6) (h : s.Free (ctlrdObs cr)) (hcr : cr = 0x0C5 ∨ cr = 0x0C6) :
    exec (.ctlrd sd cr) s = .next (s.takeFree.2.putSLock sd (BitVec.ofNat 64 s.takeFree.1) (ctlLat cr.toNat)) := by
  obtain rfl | rfl := hcr <;> exact congrArg Host.Outcome.next (State.gate_of_free _ h)

/-- CTLRD that is allowed gives one interlocked result, of a plain register its image. -/
theorem exec_ctlrd {s : State} {cr : BitVec 12} (sd : BitVec 6) (h : s.Free (ctlrdObs cr)) :
    ∃ u r, exec (.ctlrd sd cr) s = .next u ∧ s.ReadsInto u sd r ∧
      (ReadsPlain cr → r.val = (BitVec.ofNat 64 (s.ctlImage s.cur cr.toNat)).setWidth 2048) := by
  by_cases hfp : cr = 0x006
  · subst hfp
    obtain ⟨r, hr⟩ := s.readsInto_putFpctl sd 3
    exact ⟨_, r, exec_ctlrd_fpctl sd h, hr, fun hp => absurd rfl hp.fpctl⟩
  by_cases hgrant : cr = 0x071
  · subst hgrant
    obtain ⟨hme, hmem, hseq⟩ := s.readGrant_frame s.cur
    obtain ⟨r, hr, -⟩ := State.readsInto_putSLock sd (BitVec.ofNat 64 (s.readGrant s.cur).1) (ctlLat 0x071) hme hmem hseq
    exact ⟨_, r, exec_ctlrd_grant sd h, hr, fun hp => absurd rfl hp.grant⟩
  by_cases hkey : cr = 0x0C5 ∨ cr = 0x0C6
  · obtain ⟨r, hr, -⟩ := State.readsInto_putSLock (s := s) (t := s.takeFree.2) sd (BitVec.ofNat 64 s.takeFree.1)
      (ctlLat cr.toNat) rfl rfl rfl
    exact ⟨_, r, exec_ctlrd_key sd h hkey, hr, fun hp => (hkey.elim hp.salt hp.ctr).elim⟩
  · obtain ⟨hsalt, hctr⟩ := not_or.1 hkey
    have hp : ReadsPlain cr := ⟨hfp, hgrant, hsalt, hctr⟩
    obtain ⟨r, hr, hval⟩ := State.readsInto_putSLock (s := s) sd (BitVec.ofNat 64 (s.ctlImage s.cur cr.toNat)) (ctlLat cr.toNat)
      rfl rfl rfl
    exact ⟨_, r, exec_ctlrd_plain sd h hp, hr, fun _ => hval⟩

/-- Accesses that are allowed, of every register. -/
theorem controlAccesses : ControlAccesses := by
  intro sd ss cr s hacts same
  refine ⟨fun hallowed => ?_, fun hallowed => ?_⟩
  · obtain ⟨u, r, hexec, hr, hval⟩ := exec_ctlrd sd (ctlrd_free hacts hallowed)
    have hsame : same u := by
      unfold same
      rw [hr.me]
      exact ⟨rfl, rfl, rfl, rfl, rfl, hr.mem⟩
    exact ⟨u, hexec, hsame, r, by rw [hr.me], hr.dst, hr.lock, hr.mask, hr.seq,
      fun hfp hgrant hsalt hctr => hval ⟨hfp, hgrant, hsalt, hctr⟩⟩
  · obtain ⟨hwork, hmem⟩ := Prod.mk.inj (s.work_writeCtl cr.toNat (s.me.regs.rs ss))
    simp only [Strand.work, Prod.mk.injEq] at hwork
    obtain ⟨hregs, hv, hpc, hgated, hstoreQ, hflight⟩ := hwork
    exact ⟨_, exec_ctlwr ss (ctlwr_free hacts hallowed), ⟨hregs, hv, hpc, hgated, hstoreQ, hmem⟩, hflight, rfl⟩

/-! ### The trap and scratch registers (R275 to R280, R285) -/

/-- A write of a per-strand register but DBGCTL changes the strand alone (R356). -/
theorem State.writeCtl_of_strand (s : State) {cr : Nat} (w : Word) (hlt : cr < 0x020) (hne : cr ≠ 0x00E) :
    s.writeCtl cr w = s.updMe (·.writeCtl cr w.toNat) := by
  simp only [State.writeCtl, if_neg hne, hlt, decide_true, Bool.true_or, if_true]

/-- The generator takes a write of 0 as 1 (R71). -/
theorem rngOf_toNat (w : Word) : rngOf w.toNat = if w.setWidth 32 = 0#32 then 1 else w.setWidth 32 := by
  have hzero : w.toNat % 2 ^ 32 = 0 ↔ w.setWidth 32 = 0#32 := by
    rw [← BitVec.toNat_inj, BitVec.toNat_setWidth, BitVec.toNat_ofNat, Nat.zero_mod]
  exact (ite_congr (propext hzero) (fun _ => rfl) (fun _ => rfl)).trans (by rw [BitVec.ofNat_toNat])

section

variable {s : State} {cr : BitVec 12} {least : Nat → Nat} (hprobe : s.issue.probe = false) (hpriv : s.me.priv = 1)
  (hlt : cr.toNat < 0x020)

include hpriv hlt in
/-- A per-strand register that kernel privilege reaches. -/
theorem ctlAllowed_kernel (hleast : least cr.toNat ≤ 1) : CtlAllowed s least cr :=
  ⟨hpriv ▸ hleast, fun hge => absurd hge (by omega)⟩

include hprobe hpriv hlt in
/-- A read in the kernel of a per-strand register but FPCTL gives its image after 3 cycles. -/
theorem completes_ctlrd_kernel {v : Word} (sd : BitVec 6) (hcr : ctlReadPriv cr.toNat ≤ 1 ∧ cr ≠ 0x006)
    (hv : s.ctlImage s.cur cr.toNat = v.toNat) : Completes (.ctlrd sd cr) s (fun u => LandsS s u sd v 3 true) := by
  obtain ⟨hleast, hfp⟩ := hcr
  have hplain : ReadsPlain cr := ⟨hfp, fun e => absurd (e ▸ hlt) (by decide), fun e => absurd (e ▸ hlt) (by decide),
    fun e => absurd (e ▸ hlt) (by decide)⟩
  have hlat : ctlLat cr.toNat = 3 := by simp [ctlLat, show cr.toNat < 0x060 by omega]
  refine ⟨_, exec_ctlrd_plain sd (ctlrd_free (.inr hprobe) (ctlAllowed_kernel hpriv hlt hleast)) hplain, ?_⟩
  rw [hv, hlat, BitVec.ofNat_toNat, BitVec.setWidth_eq]
  exact s.putSLock_lands sd v 3

include hprobe hpriv hlt in
/-- A write in the kernel of a per-strand register but DBGCTL changes the strand alone. -/
theorem exec_ctlwr_kernel {f : Strand → Strand} (ss : BitVec 6) (hcr : ctlWritePriv cr.toNat ≤ 1 ∧ cr.toNat ≠ 0x00E)
    (hf : ∀ st : Strand, st.writeCtl cr.toNat (s.me.regs.rs ss).toNat = f st) : exec (.ctlwr cr ss) s = .next (s.updMe f) := by
  obtain ⟨hleast, hdbg⟩ := hcr
  rw [exec_ctlwr ss (ctlwr_free (.inr hprobe) (ctlAllowed_kernel hpriv hlt hleast)), s.writeCtl_of_strand _ hlt hdbg, funext hf]

end

/-- The trap and scratch registers by name. A register narrower than 64 bits reads zero-extended; a TCMP written takes the timer's
bit away whatever the cycle. -/
theorem trapRegisters : TrapRegisters := by
  intro sd ss s hprobe hpriv w
  have hofNat : BitVec.ofNat 64 w.toNat = w := by rw [BitVec.ofNat_toNat, BitVec.setWidth_eq]
  have hread {cr : BitVec 12} {v : Word} (hlt : cr.toNat < 0x020) (hcr : ctlReadPriv cr.toNat ≤ 1 ∧ cr ≠ 0x006)
      (hv : s.ctlImage s.cur cr.toNat = v.toNat) := completes_ctlrd_kernel hprobe hpriv hlt sd hcr hv
  have hwrite {cr : BitVec 12} {f : Strand → Strand} (hlt : cr.toNat < 0x020)
      (hcr : ctlWritePriv cr.toNat ≤ 1 ∧ cr.toNat ≠ 0x00E) (hf : ∀ st : Strand, st.writeCtl cr.toNat w.toNat = f st) :=
    exec_ctlwr_kernel hprobe hpriv hlt ss hcr hf
  refine ⟨hread (by decide) (by decide) ?_, hread (by decide) (by decide) rfl, hread (by decide) (by decide) rfl,
    hread (by decide) (by decide) rfl, hread (by decide) (by decide) ?_,
    ⟨_, hwrite (by decide) (by decide) fun st => congrArg (fun x : Word => { st with epc := x.setWidth 18 }) hofNat, rfl⟩,
    ⟨_, hwrite (by decide) (by decide) fun st => congrArg (fun x : Word => { st with tval := x }) hofNat, rfl⟩,
    ⟨_, hwrite (by decide) (by decide) fun st => congrArg (fun x : Word => { st with scratch := x }) hofNat, rfl⟩,
    ⟨_, hwrite (by decide) (by decide) fun st => congrArg (fun x : Word => { st with ienable := x.setWidth 5 }) hofNat, rfl⟩,
    ⟨_, hwrite (by decide) (by decide) fun st => congrArg (fun x => { st with rng := x }) (rngOf_toNat w), rfl⟩,
    ⟨_, hwrite (by decide) (by decide) fun st =>
      congrArg (fun x : Word => { st with tcmp := x, ipend := st.ipend &&& 0b11101#5 }) hofNat, ?_⟩⟩
  · exact (BitVec.toNat_setWidth_of_le (by decide)).symm
  · exact (BitVec.toNat_setWidth_of_le (by decide)).symm
  · dsimp only
    rw [State.me_updMe]
    exact ⟨rfl, fun _ => by rw [BitVec.getLsbD_and]; exact Bool.and_false _, rfl, rfl, rfl⟩

/-- Settles O19: a register by name is a case of the equations of a read and of a write, and an access of any register leaves the
strand's work alone (`work_writeCtl`, `ReadsInto`). -/
theorem controlRegisters : Obligations.ControlRegisters := ⟨trapRegisters, controlAccesses⟩

end Sys2Proof.Machine
